-- ==== Sys2Proof/Word.lean ====
section
/-! DEFINITION. The word types of the machine and nothing else (00_scope R2, 02 R33, R47). -/

namespace Sys2Proof

/-- One byte; memory is little-endian (R2). -/
abbrev Byte := BitVec 8
/-- A 64-bit register lane, CSR or pointer form. -/
abbrev Lane := BitVec 64
/-- A whole register (R47). -/
abbrev Quad := BitVec 128
/-- A predicate number p0 to p7 (R36). -/
abbrev Pred := Fin 8
/-- A signal number 0 to 63 (R4). -/
abbrev Sig := BitVec 6

end Sys2Proof
end

