-- ==== Sys2Proof/Config.lean ====
section
/-! DEFINITION. What the manual leaves to the device or leaves open: free values (opaque, no body), and the
constants of the manual that the model uses in many places. -/

namespace Sys2Proof.Config

/-- Whether a CTRL address belongs to the IO window of a device behind a root port: the manual says that there are such
windows, and not where they lie (08 R211). DESIGN CHOICE (log 10). -/
opaque deviceWindow : Nat → Bool
/-- A byte that a device gives where its window is read, which the manual does not describe (08 R211). The argument is the
model's counter of free values. DESIGN CHOICE (log 10). -/
opaque deviceByte : Nat → Byte
/-- A bit of a signature that the device key makes (16 R439). DESIGN CHOICE (log 11). -/
opaque signature : Nat → BitVec 512
/-- A digest of SHA-256 over data the manual does not lay out (16 R439). DESIGN CHOICE (log 11). -/
opaque digest : Nat → BitVec 256
/-- The boot ROM's version (16 R439). DESIGN CHOICE (log 11). -/
opaque romVersion : Nat
/-- The SHA-256 digest of the image of a slot and version (16 R439). DESIGN CHOICE (log 11). -/
opaque imageDigest : Nat → Nat → BitVec 256
/-- The digest of a harvest map: its version, and the ports, links, dies, tiles, slices and banks that it names (16 R439).
DESIGN CHOICE (log 11). -/
opaque mapDigest : Nat → List (List (Nat × Nat)) → BitVec 256
/-- The digest of a tenant's runtime and of its handler's code (16 R439). DESIGN CHOICE (log 11). -/
opaque runtimeDigest : Nat → Nat → BitVec 256
/-- A module port fails its training at a boot (16 R437). DESIGN CHOICE (log 14). -/
opaque portFails : Nat → Bool
/-- Whether an image slot's signature verifies (16 R438). DESIGN CHOICE (log 11). -/
opaque imageVerifies : Nat → Bool
/-- A measured quantity: a temperature in quarters of a degree (13 R356, R361), a margin in ps (16 R453), a
current in A (16 R447), a draw in W (16 R449). The argument is the model's counter of free values. DESIGN CHOICE (log 9). -/
opaque measured : Nat → Nat
/-- A correctly rounded special function beyond the working precision that the model's search reaches: the place
of the exact value between two neighbouring candidates is then left free (06 R163). DESIGN CHOICE (log 12). -/
opaque roundUpFree : Nat → Bool
/-- The bytes of the control part of a context image behind its header, whose layout belongs to the device, and of its
SEAL, whose key is secret (15 R407 to R409). DESIGN CHOICE (log 13). -/
opaque imageSealedByte : Nat → Byte

/-- Bytes of each memory die's hashed part, which firmware chooses (08 R208). DESIGN CHOICE (log 14). -/
opaque hashedPart : Nat
/-- The capacity of the module installed on a port (16 R437). DESIGN CHOICE (log 14). -/
opaque moduleCapacity : Nat → Nat

/-- The line that a full slice evicts, which the manual does not name (09 R232). The argument is the model's counter of free
values. DESIGN CHOICE (log 55). -/
opaque victim : Nat → Nat
/-- Which word of an LD or ST with W = 7 is performed first: the manual allows both orders (09 R233). DESIGN CHOICE (log 55). -/
opaque highFirst : Nat → Bool

/-- The link at which a header error is met (11 R294), by the counter of free values. DESIGN CHOICE (log 46). -/
opaque errorLink : Nat → Nat

/-- A tenant's share of the save area for undo logs, in granules of 4 KiB (15 R419): firmware grants it. DESIGN CHOICE (log 14). -/
opaque undoShare : Nat → Nat
/-- A tenant's share of the egress escrow, in bytes (15 R420, 16 R445): firmware grants it. DESIGN CHOICE (log 14). -/
opaque escrowShare : Nat → Nat

/-- TRAPVAL of a trap for which the manual states none: ILLEGAL, PRIV, EMPTY, OUTSIDE of a link port, and MFORMAT of a
block instruction (02 R62, 15 R401). The argument is the model's counter of free values. DESIGN CHOICE (log 7). -/
opaque trapValue : Nat → Lane

/-- A value that the manual does not state, by the model's counter of free values: the round of a G where none is in
force (14 R394), bytes of a pool's spill area (14 R392). DESIGN CHOICE (log 8). -/
opaque freeLane : Nat → Lane

/-- The column that a diagnostic of ndas names, by file, line and code (03 R88): the manual does not say which. DESIGN CHOICE (log 17). -/
opaque diagColumn : String → Nat → Nat → Nat

/-- Firmware's choice of the next die of a chain among those that keep it short enough (11 R284). The arguments are the drain
since which it holds, the numbers of the first and last die on the panel, and the steps that are left. DESIGN CHOICE (log 16). -/
opaque chainPick : Nat → Nat → Nat → Nat → Nat
/-- Firmware's choice of an edge tile among those whose routers are powered (11 R284), by drain, first and last die and the die
itself, in even arguments where the message leaves it. DESIGN CHOICE (log 16). -/
opaque edgePick : Nat → Nat → Nat → Nat → Nat
/-- The compute die beside a memory die at which its optical traffic enters and leaves (11 R466), by drain and memory die.
DESIGN CHOICE (log 16). -/
opaque gatePick : Nat → Nat → Nat
/-- Flits of TREE traffic in a window, which the model does not carry as messages (11 R299), by the counter of free values.
DESIGN CHOICE (log 56). -/
opaque treeFlits : Nat → Nat

/-- The space of a launch's code pages: PANEL.H. The manual names the code pages and not their space (05 R129). PRESUMED (log 15). -/
def codeSpace : Nat := 3

/-- Ticks of the model's clock in one cycle of a tile at step 0 (2.2 GHz). A tick divides a nanosecond and a cycle
of every clock step (13 R361), so every time of the manual is whole. DESIGN CHOICE (log 1). -/
def cycleTicks : Nat := 3603600
/-- Ticks in one nanosecond: 1 ns is 2.2 cycles. -/
def nsTicks : Nat := 7927920
/-- Ticks in one cycle of a tile that runs at clock step k, k at most 15 (13 R361). -/
def stepTicks (k : Nat) : Nat := cycleTicks * 16 / (16 - min k 15)
/-- One OMC step: 125 ns (01 R27). -/
def omcStepTicks : Nat := 125 * nsTicks
/-- One OMC cycle: 32 steps, 4 µs (01 R27). -/
def omcCycleTicks : Nat := 32 * omcStepTicks

end Sys2Proof.Config
end

