-- ==== Sys2Proof/Syntax.lean ====
section
/-! DEFINITION. The instructions and the steps of the machine as data: one constructor per row of
spec/opcode_table.json. Rows 0 to 201 are words of the program (02 R34, R63); the rest are steps of engines, of the
control die, of firmware, of the host and of the tools. -/

namespace Sys2Proof

/-- A link port (R47): north 60, east 61, south 62, west 63. -/
inductive Port where | north | east | south | west
  deriving DecidableEq, Repr

/-- A register named by a D, A or B field (R47). -/
inductive Reg where
  | c (n : Fin 48)
  | s (n : Fin 8)
  | sp
  | ra
  | link (p : Port)
  deriving DecidableEq, Repr

/-- What ndbg's command regs names: a register or the pc (17 R457). -/
inductive RegName where
  | reg (r : Reg)
  | pc
  deriving DecidableEq, Repr

/-- Guard and hints, in every word (R34, R36, R40). Hints change nothing. -/
structure Head where
  gn : Bool
  gp : Pred
  hint : BitVec 8
  deriving DecidableEq, Repr

/-- A source register with its policy bit: 1 traps EMPTY (R37). -/
structure PSrc where
  r : Reg
  trapEmpty : Bool
  deriving DecidableEq, Repr

/-- A source that may be a link port with forward (R41). -/
structure Src where
  r : Reg
  trapEmpty : Bool
  fwd : Bool
  deriving DecidableEq, Repr

/-- The type of W in the integer and memory classes (R39); `w7` is .I64, or .Q128 where the entry says so. -/
inductive Ty where | b8 | b16 | b32 | b64 | i8 | i16 | i32 | w7
  deriving DecidableEq, Repr

/-- The type of W in the floating-point classes (R39). -/
inductive FTy where | f64 | f32 | bf16
  deriving DecidableEq, Repr

/-- The rounding field RM (R38); 5 and 6 are illegal. -/
inductive RMode where | rne | rtz | rdn | rup | rna | dyn
  deriving DecidableEq, Repr

/-- Condition codes of CMP and CMPI (R125). -/
inductive ICond where | eq | ne | lt | le | gt | ge | bl | be | ab | ae
  deriving DecidableEq, Repr

/-- Condition codes of FCMP (R157). -/
inductive FCond where | eq | ne | lt | le | gt | ge | un | or
  deriving DecidableEq, Repr

/-- How CMP, CMPI and FCMP combine the lanes (R125). -/
inductive Comb where | lane0 | all | any
  deriving DecidableEq, Repr

/-- The number formats of CVT (R108). -/
inductive Fmt where | f64 | f32 | bf16 | e4m3 | int8 | hs4 | lns6
  deriving DecidableEq, Repr

/-- The block formats (R99). -/
inductive BFmt where | fp32 | bf16 | e4m3 | int8 | hs4 | lns6
  deriving DecidableEq, Repr

/-- The policy modifier of class 0x7: POLO and POL (R216). -/
structure PolMod where
  polo : Bool
  pol : BitVec 2
  deriving DecidableEq, Repr

/-- The atomic functions of AMO (R223). -/
inductive AmoFn where | add | and | or | xor | min | max | xchg | fadd
  deriving DecidableEq, Repr

/-- Fence scopes (R236). -/
inductive Scope where | tile | die | region | device | system
  deriving DecidableEq, Repr

/-- Fence kinds (R247). -/
inductive FKind where | acq | rel | full
  deriving DecidableEq, Repr

/-- An MDOT operand: a descriptor pair c(2k), c(2k+1), or a link port (R176). -/
inductive MOperand where
  | pair (k : Fin 24) (trapEmpty : Bool)
  | port (p : Port) (trapEmpty fwd : Bool)
  deriving DecidableEq, Repr

/-- The kind of a watch entry (R326). -/
inductive WKind where | strong | weak | suspend
  deriving DecidableEq, Repr

/-- A group of a launch, device-wide. -/
structure GroupId where
  launch : Nat
  num : Nat
  deriving DecidableEq, Repr

/-- A strand slot of a group. -/
structure StrandId where
  g : GroupId
  slot : Fin 8
  deriving DecidableEq, Repr

/-- The agents of the Easel (R230). A strand is named by its group and its serial number, which it keeps in every slot that it comes
to hold (R353). -/
inductive Agent where
  | strand (g : GroupId) (serial : Nat)
  | copyUnit (g : GroupId)
  | port (die : Nat)
  | slice (die n : Nat)
  | pool (die : Nat)
  | control
  deriving DecidableEq, Repr

/-- The homes of the Easel (R231). -/
inductive Home where
  | bank (g : GroupId) (b : Nat)
  | slice (die n : Nat)
  | mem (die bank : Nat)
  | modPort (q : Nat)
  | control
  | inbox (g : GroupId)
  deriving DecidableEq, Repr

/-- A channel: one FIFO for each pair of source agent and home (R230). -/
structure ChanId where
  src : Agent
  home : Home
  deriving DecidableEq, Repr

/-- Why a group is asked to stop (R403). -/
inductive StopWhy where | preempt | saveOut | point | rollback | ctx | drain
  deriving DecidableEq, Repr

/-- A part that firmware retires at a drain or a boot (R455). -/
inductive Part where
  | tile (die x y : Nat)
  | slice (die n : Nat)
  | link (n : Nat)
  | die (n : Nat)
  | memBank (die bank : Nat)
  | modPort (q : Nat)
  deriving DecidableEq, Repr

/-- What a detected hardware error met (R402). -/
inductive ErrorAt where
  | unit (w : StrandId)                            -- 0x01 a residue mismatch
  | scratch (w : StrandId) (word : Nat)            -- 0x02 an uncorrectable scratchpad word met by an access
  | load (w : StrandId) (r : Reg) (ptr : Lane)     -- 0x03 uncorrectable data returned to a load
  | copy (g : GroupId) (op : Fin 48) (ptr : Lane)  -- 0x04 uncorrectable data met by a copy-unit operation
  | state (w : StrandId) (index : Nat)             -- 0x05 an uncorrectable register-file or state word
  | part (p : Part)                                -- an error that concerns no strand, in a part of the module (R455)
  deriving DecidableEq, Repr

/-- A register that a management message writes (R59, R417, R443 to R456). -/
inductive MgmtTarget where
  | dieCsr (die csr : Nat)
  | regionCsr (region csr : Nat)
  | deviceCsr (csr : Nat)
  | groupCsr (g : GroupId) (csr : Nat)
  | root (tenant space : Nat)
  | handler (tenant : Nat)
  | function (fn : Nat)
  | grant (tenant space base : Nat)                -- panel memory of a tenant, by length (R445)
  | saveArea (tenant base : Nat)
  | pciSplit (port : Nat)                          -- a root port's split, at stage 0, and what its links train to (R434)
  | pciWidth (port part : Nat)
  | pciPower (port part : Nat)
  | reg (w : StrandId) (r : Reg) (lane : Fin 2)    -- the state of a halted group, for ndbg (R413)
  | pred (w : StrandId) (p : Pred)
  | pc (w : StrandId)
  | spad (g : GroupId) (off : Nat)
  deriving DecidableEq, Repr

/-- A module access of a PCI function or of the host. -/
inductive XferKind where | read | write
  deriving DecidableEq, Repr

/-- The files of the user that a run of ndas meets (03 R64, R65): texts by name, and the names at which none can be written. -/
structure UserFiles where
  texts : List (String × String)
  locked : List String := []
  deriving DecidableEq, Repr

/-- Every row of spec/opcode_table.json. -/
inductive Instr where
  -- class 0x0, control and predicates (R131)
  | nop (h : Head)
  | br (h : Head) (off : BitVec 32)
  | bri (h : Head) (a : PSrc)
  | call (h : Head) (off : BitVec 32)
  | calli (h : Head) (a : PSrc)
  | ret (h : Head) (a : PSrc)
  | loop (h : Head) (d : Reg) (off : BitVec 32)
  | pand (h : Head) (p q r : Pred)
  | por (h : Head) (p q r : Pred)
  | pxor (h : Head) (p q r : Pred)
  | pandn (h : Head) (p q r : Pred)
  | pget (h : Head) (d : Reg)
  | psetm (h : Head) (a : PSrc) (mask : BitVec 8)
  | pset (h : Head) (p : Pred) (v : Bool)
  -- class 0x1, integer (R121)
  | add (h : Head) (t : Ty) (d : Reg) (a b : Src)
  | addi (h : Head) (t : Ty) (d : Reg) (a : Src) (i : BitVec 32)
  | sub (h : Head) (t : Ty) (d : Reg) (a b : Src)
  | adds (h : Head) (t : Ty) (d : Reg) (a b : Src)
  | subs (h : Head) (t : Ty) (d : Reg) (a b : Src)
  | mul (h : Head) (t : Ty) (d : Reg) (a b : Src)
  | muli (h : Head) (t : Ty) (d : Reg) (a : Src) (i : BitVec 32)
  | mulh (h : Head) (t : Ty) (d : Reg) (a b : Src)
  | div (h : Head) (t : Ty) (d : Reg) (a b : Src)
  | rem (h : Head) (t : Ty) (d : Reg) (a b : Src)
  | neg (h : Head) (t : Ty) (d : Reg) (a : Src)
  | abs (h : Head) (t : Ty) (d : Reg) (a : Src)
  | min (h : Head) (t : Ty) (d : Reg) (a b : Src)
  | max (h : Head) (t : Ty) (d : Reg) (a b : Src)
  | and (h : Head) (t : Ty) (d : Reg) (a b : Src)
  | andi (h : Head) (t : Ty) (d : Reg) (a : Src) (i : BitVec 32)
  | or (h : Head) (t : Ty) (d : Reg) (a b : Src)
  | ori (h : Head) (t : Ty) (d : Reg) (a : Src) (i : BitVec 32)
  | xor (h : Head) (t : Ty) (d : Reg) (a b : Src)
  | xori (h : Head) (t : Ty) (d : Reg) (a : Src) (i : BitVec 32)
  | andn (h : Head) (t : Ty) (d : Reg) (a b : Src)
  | shl (h : Head) (t : Ty) (d : Reg) (a b : Src)
  | shli (h : Head) (t : Ty) (d : Reg) (a : Src) (n : BitVec 6)
  | shr (h : Head) (t : Ty) (d : Reg) (a b : Src)
  | shri (h : Head) (t : Ty) (d : Reg) (a : Src) (n : BitVec 6)
  | rot (h : Head) (t : Ty) (d : Reg) (a b : Src)
  | roti (h : Head) (t : Ty) (d : Reg) (a : Src) (n : BitVec 6)
  | clz (h : Head) (t : Ty) (d : Reg) (a : Src)
  | popc (h : Head) (t : Ty) (d : Reg) (a : Src)
  | brev (h : Head) (t : Ty) (d : Reg) (a : Src)
  | bfx (h : Head) (t : Ty) (d : Reg) (a : Src) (pos : BitVec 6) (len : BitVec 7)
  | bfi (h : Head) (t : Ty) (d : Reg) (a : Src) (pos : BitVec 6) (len : BitVec 7)
  | cmp (h : Head) (t : Ty) (cc : ICond) (comb : Comb) (p : Pred) (a b : Src)
  | cmpi (h : Head) (t : Ty) (cc : ICond) (comb : Comb) (p : Pred) (a : Src) (i : BitVec 32)
  | sel (h : Head) (d : Reg) (a b : Src) (p : Pred)
  | movi (h : Head) (t : Ty) (d : Reg) (i : BitVec 32)
  | movhi (h : Head) (d : Reg) (i : BitVec 32)
  | mov (h : Head) (t : Ty) (d : Reg) (a : Src)
  | shuf (h : Head) (t : Ty) (d : Reg) (a b : Src)
  | laneget (h : Head) (t : Ty) (d : Reg) (a : Src) (k : BitVec 4)
  | laneset (h : Head) (t : Ty) (d : Reg) (a : Src) (k : BitVec 4)
  | bcast (h : Head) (t : Ty) (d : Reg) (a : Src) (k : BitVec 4)
  -- class 0x2, capability (R135)
  | capsub (h : Head) (d : Reg) (a b : PSrc)
  | caplen (h : Head) (d : Reg) (a : PSrc)
  | capperm (h : Head) (d : Reg) (a : PSrc) (mask : BitVec 8)
  | capadd (h : Head) (d : Reg) (a b : PSrc)
  | capaddi (h : Head) (d : Reg) (a : PSrc) (delta : BitVec 32)
  | capset (h : Head) (d : Reg) (a b : PSrc)
  | capget (h : Head) (d : Reg) (a : PSrc) (field : BitVec 4) (pol : BitVec 2)
  | captst (h : Head) (p : Pred) (a b : PSrc) (perm : BitVec 8)
  | capclr (h : Head) (d : Reg) (a : PSrc)
  -- class 0x3, conversion and block (R108 to R114)
  | cvt (h : Head) (rm : RMode) (sat : Bool) (part : BitVec 4) (src dst : Fmt) (d : Reg) (a : Src)
  | ftoi (h : Head) (t : FTy) (rm : RMode) (signed sat : Bool) (d : Reg) (a : Src)
  | itof (h : Head) (t : FTy) (rm : RMode) (signed : Bool) (d : Reg) (a : Src)
  | blkset (h : Head) (rm : RMode) (f : BFmt) (d : Reg) (a : Src)
  | blkput (h : Head) (t : FTy) (rm : RMode) (sat : Bool) (q : Fin 12) (a : Src) (part : BitVec 6)
  | blkget (h : Head) (t : FTy) (rm : RMode) (d : Reg) (q : Fin 12) (trapEmpty : Bool) (part : BitVec 6)
  | blkfit (h : Head) (t : FTy) (f : BFmt) (d : Reg) (a : Src)
  -- class 0x4, vector floating point (R152)
  | fadd (h : Head) (t : FTy) (rm : RMode) (d : Reg) (a b : Src)
  | fsub (h : Head) (t : FTy) (rm : RMode) (d : Reg) (a b : Src)
  | fmul (h : Head) (t : FTy) (rm : RMode) (d : Reg) (a b : Src)
  | ffma (h : Head) (t : FTy) (rm : RMode) (d : Reg) (a b : Src)
  | ffms (h : Head) (t : FTy) (rm : RMode) (d : Reg) (a b : Src)
  | fnfma (h : Head) (t : FTy) (rm : RMode) (d : Reg) (a b : Src)
  | fdiv (h : Head) (t : FTy) (rm : RMode) (d : Reg) (a b : Src)
  | fsqrt (h : Head) (t : FTy) (rm : RMode) (d : Reg) (a : Src)
  | fmin (h : Head) (t : FTy) (d : Reg) (a b : Src)
  | fmax (h : Head) (t : FTy) (d : Reg) (a b : Src)
  | fabs (h : Head) (t : FTy) (d : Reg) (a : Src)
  | fneg (h : Head) (t : FTy) (d : Reg) (a : Src)
  | fcmp (h : Head) (t : FTy) (cc : FCond) (comb : Comb) (p : Pred) (a b : Src)
  | fclass (h : Head) (t : FTy) (d : Reg) (a : Src)
  | frint (h : Head) (t : FTy) (rm : RMode) (exact : Bool) (d : Reg) (a : Src)
  | fscale (h : Head) (t : FTy) (rm : RMode) (d : Reg) (a b : Src)
  | freduce (h : Head) (t : FTy) (rm : RMode) (d : Reg) (a : Src)
  -- class 0x5, special functions and environment (R162, R165, R171, R172)
  | fexp (h : Head) (t : FTy) (rm : RMode) (d : Reg) (a : Src)
  | fexp2 (h : Head) (t : FTy) (rm : RMode) (d : Reg) (a : Src)
  | fexpm1 (h : Head) (t : FTy) (rm : RMode) (d : Reg) (a : Src)
  | flog (h : Head) (t : FTy) (rm : RMode) (d : Reg) (a : Src)
  | flog2 (h : Head) (t : FTy) (rm : RMode) (d : Reg) (a : Src)
  | flog1p (h : Head) (t : FTy) (rm : RMode) (d : Reg) (a : Src)
  | ferf (h : Head) (t : FTy) (rm : RMode) (d : Reg) (a : Src)
  | ferfc (h : Head) (t : FTy) (rm : RMode) (d : Reg) (a : Src)
  | frcp (h : Head) (t : FTy) (rm : RMode) (d : Reg) (a : Src)
  | frsqrt (h : Head) (t : FTy) (rm : RMode) (d : Reg) (a : Src)
  | fcsrget (h : Head) (d : Reg)
  | fcsrset (h : Head) (d : Reg) (a : Src) (mask : BitVec 32)
  | fflagclr (h : Head) (d : Reg) (mask : BitVec 5)
  | rnd (h : Head) (d : Reg)
  | rndstate (h : Head) (d : Reg)
  | rndstateW (h : Head) (d : Reg) (a : Src)
  -- class 0x6, matrix (R180, R190)
  | mzero (h : Head) (ad : Fin 4)
  | mdot (h : Head) (inca incb : Bool) (ad : Fin 4) (a b : MOperand)
  | mrd (h : Head) (col : Bool) (d : Fin 24) (as : Fin 4) (k : BitVec 3)
  | mwr (h : Head) (col : Bool) (ad : Fin 4) (a : Fin 24) (trapEmpty : Bool) (k : BitVec 3)
  | madd (h : Head) (rm : RMode) (ad as : Fin 4)
  | mscl (h : Head) (rm : RMode) (ad : Fin 4) (a : Src)
  | mstat (h : Head) (d : Reg)
  -- class 0x7, memory (R216)
  | ld (h : Head) (t : Ty) (pol : PolMod) (d : Reg) (a : PSrc) (off : BitVec 32)
  | st (h : Head) (t : Ty) (pol : PolMod) (a : PSrc) (b : Src) (off : BitVec 32)
  | ldx (h : Head) (t : Ty) (pol : PolMod) (d : Reg) (a b : PSrc)
  | stx (h : Head) (t : Ty) (pol : PolMod) (d : Reg) (a b : PSrc)
  | ldc (h : Head) (pol : PolMod) (d : Reg) (a : PSrc) (off : BitVec 32)
  | stc (h : Head) (pol : PolMod) (a : PSrc) (b : Src) (off : BitVec 32)
  | lde (h : Head) (d : Reg) (a : PSrc) (off : BitVec 32)
  | ldf (h : Head) (d : Reg) (a : PSrc) (off : BitVec 32)
  | stf (h : Head) (a : PSrc) (b : Src) (off : BitVec 32)
  | feset (h : Head) (full : Bool) (a : PSrc) (off : BitVec 32)
  | amo (h : Head) (t : Ty) (fn : AmoFn) (d : Reg) (a : PSrc) (b : Src) (off : BitVec 32)
  | cas (h : Head) (t : Ty) (d : Reg) (a : PSrc) (b : Src) (off : BitVec 32)
  | pref (h : Head) (a : PSrc) (off : BitVec 32)
  | linewb (h : Head) (a : PSrc) (off : BitVec 32)
  | lineinv (h : Head) (a : PSrc) (off : BitVec 32)
  -- class 0x8, ordering (R247)
  | fence (h : Head) (sc : Scope) (k : FKind)
  | tmget (h : Head) (d : Reg)
  | tmclr (h : Head)
  | fenceh (h : Head) (sc : Scope) (k : FKind) (a : Src)
  -- class 0x9, copies, streams, barriers (R259)
  | strm (h : Head) (out : Bool) (d : Reg) (a b : PSrc)
  | strmend (h : Head) (d : Reg)
  | strmq (h : Head) (d : Reg) (a : Reg)
  | copy (h : Head) (exp : Bool) (d : Reg) (a b : PSrc)
  | copyc (h : Head) (rm : RMode) (sat exp : Bool) (src dst : BFmt) (d : Reg) (a b : PSrc)
  | gather (h : Head) (t : Ty) (exp : Bool) (d : Fin 24) (a b : PSrc)
  | scatter (h : Head) (t : Ty) (exp : Bool) (d : Fin 24) (a b : PSrc)
  | txbinit (h : Head) (a : PSrc) (n : BitVec 20)
  | txbarr (h : Head) (d : Reg) (a : PSrc)
  | txbexp (h : Head) (a : PSrc) (n : BitVec 32)
  | txbwait (h : Head) (d : Reg) (a b : PSrc)
  | txbtest (h : Head) (p : Pred) (a b : PSrc)
  -- class 0xA, messages and the optical core (R304)
  | send (h : Head) (route : Option (BitVec 6)) (a : PSrc) (b : Src)
  | sendi (h : Head) (route : Option (BitVec 6)) (a : PSrc) (imm : BitVec 32)
  | inpop (h : Head) (d : Reg)
  | inpeek (h : Head) (d : Reg)
  | rtlat (h : Head) (d : Reg)
  | rtload (h : Head) (a : PSrc)
  | linkclr (h : Head) (d : Reg) (mask : BitVec 4)
  | osend (h : Head) (unordered : Bool) (d : Reg) (a b : PSrc)
  | oslot (h : Head) (d : Reg)
  | ofence (h : Head)
  -- class 0xB, reactive (R329)
  | pause (h : Head)
  | emit (h : Head) (rel : Bool) (sig : Sig)
  | present (h : Head) (p : Pred) (sig : Sig)
  | prev (h : Head) (p : Pred) (sig : Sig)
  | watch (h : Head) (k : WKind) (sig : Sig) (off : BitVec 32)
  | unwatch (h : Head)
  | canemit (h : Head) (d : Reg) (a : Src)
  | disclaim (h : Head) (a : Src)
  | instant (h : Head) (d : Reg)
  | rbar (h : Head)
  | rexcuseOn (h : Head) (d : Reg)
  | rexcuseOff (h : Head) (d : Reg)
  | await (h : Head) (sig : Sig)
  -- class 0xC, groups and tasks (R362)
  | fork (h : Head) (p : Pred) (a b : PSrc) (off : BitVec 32)
  | join (h : Head)
  | yield (h : Head)
  | halt (h : Head) (retain : Option (BitVec 16))
  | launch (h : Head) (d : Reg) (a : PSrc)
  | trigger (h : Head)
  | who (h : Head) (d : Reg) (field : BitVec 4)
  | lwait (h : Head) (d : Reg) (a : PSrc)
  | gbar (h : Head)
  -- class 0xD, pool (R391)
  | pinit (h : Head) (d : Reg) (a b : PSrc)
  | pput (h : Head) (a : PSrc) (b : Src)
  | ptakeWait (h : Head) (p : Pred) (d : Fin 24) (a : PSrc)
  | ptakeTry (h : Head) (p : Pred) (d : Fin 24) (a : PSrc)
  | ptakeX (h : Head) (p : Pred) (d : Fin 24) (a : PSrc)
  | pbound (h : Head) (d : Reg) (a : PSrc)
  | psize (h : Head) (d : Reg) (a : PSrc)
  | pfree (h : Head) (d : Reg) (a : PSrc)
  | psync (h : Head) (a : PSrc)
  -- class 0xE, system (R424)
  | trap (h : Head) (code : BitVec 8) (a : PSrc)
  | eret (h : Head) (skip : Bool)
  | csrget (h : Head) (d : Reg) (csr : BitVec 12)
  | csrset (h : Head) (d : Reg) (a : PSrc) (csr : BitVec 12)
  | brk (h : Head) (code : BitVec 16)
  | ckpt (h : Head) (d : Reg)
  | tlbinvAll (h : Head)
  | tlbinvPage (h : Head) (a : PSrc)
  | ctxsave (h : Head) (d : Reg) (a : PSrc)
  | ctxload (h : Head) (d : Reg) (a : PSrc)
  | notify (h : Head) (d : Reg) (a : PSrc) (vec : BitVec 8)
  -- CSRSET of a register with a behaviour of its own (R53, R316, R326, R147, R274, R405)
  | mboxWrite (h : Head) (d : Reg) (a : PSrc)
  | canrldWrite (h : Head) (d : Reg) (a : PSrc)
  | watchstWrite (h : Head) (d : Reg) (a : PSrc)
  | fcsrWrite (h : Head) (d : Reg) (a : PSrc)
  | cpauseResume (h : Head) (d : Reg) (a : PSrc)
  | cpauseAbandon (h : Head) (d : Reg) (a : PSrc)
  | gstatDiscClear (h : Head) (d : Reg) (a : PSrc)
  -- steps of the tile, the homes and the network
  | strandWake (w : StrandId)
  | resultArrival (g : GroupId)
  | longCommit (w : StrandId)
  | perform (ch : ChanId)
  | returnValue (k : Nat)
  | echo (ch : ChanId)
  | evict (die line : Nat)
  | syncResend (w : StrandId)
  | tlbWalkDone (w : StrandId)
  | linkWordArrival (k : Nat)
  | mdotCommit (g : GroupId)
  | accumulatorCommit (g : GroupId)
  | copyUnitEnter (g : GroupId) (op : Fin 48)
  | streamDelivery (k : Nat)
  | copyUnitLanding (k : Nat)
  | messageArrival (k : Nat)
  | messageAck (k : Nat)
  | msglost (w : StrandId) (seq : Nat)
  | headerResend (k : Nat) (again : Bool)
  | subnetworkOn (die k : Nat)
  | subnetworkOff (die k : Nat)
  | omcWindow (die plane : Nat)
  | relayAck (k : Nat)
  | waveSample (launch : Nat)
  | waveRelease (g : GroupId)
  | exactTakeService (launch : Nat)
  | groupSaveOut (g : GroupId)
  -- steps of the control die, the dispatchers and the rotation controllers
  | launchQueue (tenant : Nat) (desc : BitVec 512) (codeBase codeLen : Nat) (dataRoot : Option (Nat × Nat))
      (sdata : List Byte)
  | priorityAgeing (launch : Nat)
  | groupPlacement (g : GroupId) (tile : Nat)
  | taskStart (w : StrandId)
  | stealRequest (g : GroupId)
  | stealReply (g : GroupId)
  | joinStoreReturn (g : GroupId)
  | joinDeadlock (g : GroupId)
  | watchdog (w : StrandId)
  | groupRetire (g : GroupId)
  | dependentLaunchRelease (launch : Nat)
  | launchCancel (launch : Nat)
  | rotationInterval (die : Nat)
  | swap (die k : Nat)
  | done (die k : Nat)
  | skip (die k : Nat)
  -- steps of the pools
  | poolExchangeRound (pool : Nat)
  | poolSummaryArrival (pool src dst : Nat)
  | forwardedTakeArrival (k : Nat)
  | takeReplyArrival (k : Nat)
  | leaseAck (k : Nat)
  -- stops, images, errors, debugger halts, recovery
  | stopRequest (g : GroupId) (why : StopWhy)
  | stopDeadline (g : GroupId)
  | groupResume (g : GroupId) (tile : Nat)
  | errorDetected (e : ErrorAt) (recurs : Bool)
  | debugHalt (g : GroupId)
  | freeze (g : GroupId)
  | freezeRelease (g : GroupId)
  | recoveryPoint (launch : Nat)
  | drainPoint (launch : Nat)
  | rollback (launch : Nat)
  -- firmware, power and start
  | regionDrain (region : Nat) (retire : List Part)
  | governorStep (region : Nat)
  | powerCheck
  | floorLower
  | droopAlarm (region : Nat)
  | throttleEnd (region : Nat)
  | powerGood
  | stage1
  | regionJoin (region : Nat) (passes : Bool)
  | stage3
  | spdmMeasurement (tenant index : Nat)
  -- the host and the functions
  | hostRead (tenant space addr n : Nat)
  | hostWrite (tenant space addr : Nat) (bytes : List Byte)
  | dmaAccess (fn : Nat) (k : XferKind) (space addr : Nat) (bytes : List Byte)
  | notifyTake (tenant : Nat)
  -- ndbg (R457 to R465)
  | ndbgLoad (tenant : Nat) (object : Nat)
  | break_ (addr : Nat)
  | istop (n : Nat)
  | run (dataRoot : Bool)
  | cont
  | regs (slot : Fin 8) (names : List RegName) (preds : Bool)
  | csr (slot : Fin 8) (csrs : List Nat)
  | tree
  | group (g : Nat)
  | mem (off n : Nat)
  | memf (off n : Nat)
  | ptrace
  | ptracePrint (a b : Nat)
  | rounds (a b : Nat)
  | dmem (label : String) (n : Nat)
  | wavetrace
  | streams (g : Nat)
  | streamsPrint
  | regions
  | rbarPrint (n : Nat)
  | where_
  | acc (a : Fin 4)
  | accmatch (a : Fin 4) (x : BitVec 32)
  -- the tools, and the rest of firmware and the outside
  | ndas (options : List String) (files : UserFiles)
  | ndld (objects : List Nat)
  | managementMessage (t : MgmtTarget) (v : Lane)
  | tenantRectangle (tenant vx0 vy0 width height : Nat)
  | hotPlug (port : Nat) (present : Bool)
  | aerError (fn code : Nat)
  | descriptorCopied (w : StrandId)
  | portCopyDone (w : StrandId)
  deriving DecidableEq, Repr

end Sys2Proof
end

