-- ==== Sys2Proof/WellFormed.lean ====
section
/-! DEFINITION. Which terms of `Instr` are instructions of the manual: the limits that the entries put on their
operands beyond what the types of Syntax say (02 R41, R43, and the encoding rules of each class). -/

namespace Sys2Proof

/-- Does the register name a link port (R47)? -/
def Reg.isPort : Reg → Bool
  | .link _ => true
  | _ => false

/-- Forward only from a link port (R41). -/
def Src.wf (s : Src) : Bool := !s.fwd || s.r.isPort
/-- A source or destination that may not be a link port. -/
def Src.noPort (s : Src) : Bool := !s.fwd && !s.r.isPort
/-- A source that may not be a link port. -/
def PSrc.noPort (s : PSrc) : Bool := !s.r.isPort
/-- A destination that may not be a link port. -/
def Reg.noPort (r : Reg) : Bool := !r.isPort

/-- Lane width in bits (R39); `w7` is I64 here. -/
def Ty.width : Ty → Nat
  | .b8 | .i8 => 8
  | .b16 | .i16 => 16
  | .b32 | .i32 => 32
  | .b64 | .w7 => 64

/-- Lanes of the CVT formats (R97). -/
def Fmt.lanes : Fmt → Nat
  | .f64 => 2
  | .f32 => 4
  | .bf16 => 8
  | .e4m3 | .int8 | .lns6 => 16
  | .hs4 => 32

/-- A stream register: c1 to c47 (R259). -/
def Reg.isStreamReg : Reg → Bool
  | .c n => n.val != 0
  | _ => false

/-- A field of a lane of width w (R124). -/
def fieldOk (t : Ty) (pos : BitVec 6) (len : BitVec 7) : Bool :=
  pos.toNat < t.width && len.toNat != 0 && len.toNat ≤ t.width

/-- A lane number (R128). -/
def laneOk (t : Ty) (k : BitVec 4) : Bool := k.toNat * t.width < 128

/-- INCA and INCB only with a descriptor pair (R185). -/
def incOk (inc : Bool) : MOperand → Bool
  | .pair _ _ => true
  | .port _ _ _ => !inc

/-- CSR numbers whose CSRSET is a constructor of its own (rows 195 to 201 of the table). -/
def csrWriteRow (csr : BitVec 12) : Bool :=
  csr == 0x009 || csr == 0x00C || csr == 0x004 || csr == 0x001 || csr == 0x100

/-- The limits of the entries. Steps that are no words of the program have none. -/
def Instr.wf : Instr → Bool
  | .bri _ a | .calli _ a | .ret _ a => a.noPort
  | .loop _ d _ => d.noPort && d != .c 0
  | .add _ _ _ a b | .sub _ _ _ a b | .adds _ _ _ a b | .subs _ _ _ a b | .mul _ _ _ a b | .mulh _ _ _ a b
  | .div _ _ _ a b | .rem _ _ _ a b | .min _ _ _ a b | .max _ _ _ a b | .and _ _ _ a b | .or _ _ _ a b
  | .xor _ _ _ a b | .andn _ _ _ a b | .shl _ _ _ a b | .shr _ _ _ a b | .rot _ _ _ a b | .shuf _ _ _ a b
  | .cmp _ _ _ _ _ a b | .sel _ _ a b _ => a.wf && b.wf
  | .addi _ _ _ a _ | .muli _ _ _ a _ | .andi _ _ _ a _ | .ori _ _ _ a _ | .xori _ _ _ a _ | .shli _ _ _ a _
  | .shri _ _ _ a _ | .roti _ _ _ a _ | .neg _ _ _ a | .abs _ _ _ a | .clz _ _ _ a | .popc _ _ _ a
  | .brev _ _ _ a | .cmpi _ _ _ _ _ a _ | .mov _ _ _ a => a.wf
  | .bfx _ t _ a pos len | .bfi _ t _ a pos len => a.wf && fieldOk t pos len
  | .laneget _ t _ a k | .laneset _ t _ a k | .bcast _ t _ a k => a.wf && laneOk t k
  | .capsub _ d _ _ | .capperm _ d _ _ | .capadd _ d _ _ | .capaddi _ d _ _ | .capset _ d _ _ => d.noPort
  | .capget _ _ _ field pol => field.toNat < 9 && (field == 0 || pol == 0)
  | .cvt _ _ _ part src dst d a =>
    d.noPort && a.wf && part.toNat * Nat.min src.lanes dst.lanes < Nat.max src.lanes dst.lanes
  | .ftoi _ _ _ _ _ d a | .itof _ _ _ _ d a | .blkset _ _ _ d a | .blkfit _ _ _ d a => d.noPort && a.wf
  | .blkput _ _ _ _ _ a _ => a.wf
  | .blkget _ _ _ d _ _ _ => d.noPort
  | .fadd _ _ _ _ a b | .fsub _ _ _ _ a b | .fmul _ _ _ _ a b | .fdiv _ _ _ _ a b | .fmin _ _ _ a b
  | .fmax _ _ _ a b | .fcmp _ _ _ _ _ a b | .fscale _ _ _ _ a b => a.wf && b.wf
  | .ffma _ _ _ d a b | .ffms _ _ _ d a b | .fnfma _ _ _ d a b => d.noPort && a.wf && b.wf
  | .fsqrt _ _ _ _ a | .fabs _ _ _ a | .fneg _ _ _ a | .fclass _ _ _ a | .frint _ _ _ _ _ a
  | .freduce _ _ _ _ a | .fexp _ _ _ _ a | .fexp2 _ _ _ _ a | .fexpm1 _ _ _ _ a | .flog _ _ _ _ a
  | .flog2 _ _ _ _ a | .flog1p _ _ _ _ a | .ferf _ _ _ _ a | .ferfc _ _ _ _ a | .frcp _ _ _ _ a
  | .frsqrt _ _ _ _ a => a.wf
  | .fcsrset _ _ a mask => a.wf && (mask &&& 0xFFF8E0E0#32) == 0
  | .mdot _ ia ib _ a b => incOk ia a && incOk ib b
  | .mscl _ _ _ a => a.wf
  | .rndstateW _ _ a => a.wf
  | .mstat _ d => d.noPort
  | .ld _ _ _ d a _ | .ldc _ _ d a _ | .lde _ d a _ | .ldf _ d a _ => d.noPort && a.noPort
  | .st _ _ _ a b _ | .stc _ _ a b _ | .stf _ a b _ => a.noPort && b.wf
  | .ldx _ _ _ d a b | .stx _ _ _ d a b => d.noPort && a.noPort && b.noPort
  | .feset _ _ a _ | .pref _ a _ | .linewb _ a _ | .lineinv _ a _ => a.noPort
  | .amo _ t fn d a b _ =>
    d.noPort && a.noPort && b.wf &&
      (match t with | .b32 => true | .b64 | .i32 | .w7 => fn != .fadd | _ => false)
  | .cas _ t d a b _ =>
    d.noPort && a.noPort && b.wf && (match t with | .b32 | .b64 | .w7 => true | _ => false)
  | .tmget _ d => d.noPort
  | .fenceh _ _ _ a => a.wf
  | .strm _ _ d a b => d.isStreamReg && a.noPort && b.noPort
  | .strmend _ d => d.isStreamReg
  | .strmq _ d a => d.noPort && a.noPort
  | .copy _ _ d a b | .copyc _ _ _ _ _ _ d a b => d.noPort && a.noPort && b.noPort
  | .gather _ t _ _ a b | .scatter _ t _ _ a b =>
    a.noPort && b.noPort && (match t with | .b8 | .b16 | .b32 | .b64 | .w7 => true | _ => false)
  | .txbinit _ a n => a.noPort && n != 0
  | .txbarr _ d a => d.noPort && a.noPort
  | .txbexp _ a _ => a.noPort
  | .txbwait _ d a b => d.noPort && a.noPort && b.noPort
  | .txbtest _ _ a b => a.noPort && b.noPort
  | .send _ _ a b => a.noPort && b.wf
  | .sendi _ _ a _ | .rtload _ a => a.noPort
  | .inpop _ d | .inpeek _ d | .rtlat _ d | .linkclr _ d _ | .oslot _ d => d.noPort
  | .osend _ _ d a b => d.noPort && a.noPort && b.noPort
  | .canemit _ d a => d.noPort && a.wf
  | .disclaim _ a => a.wf
  | .instant _ d | .rexcuseOn _ d | .rexcuseOff _ d => d.noPort
  | .fork _ _ a b _ => a.noPort && b.noPort
  | .launch _ d a | .lwait _ d a => d.noPort && a.noPort
  | .who _ d f => d.noPort && f.toNat < 9
  | .pinit _ d a b => d.noPort && a.noPort && b.noPort
  | .pput _ a b => a.noPort && b.wf
  | .ptakeWait _ _ _ a | .ptakeTry _ _ _ a | .ptakeX _ _ _ a | .psync _ a => a.noPort
  | .pbound _ d a | .psize _ d a | .pfree _ d a => d.noPort && a.noPort
  | .trap _ _ a => a.noPort
  | .csrget _ d _ | .ckpt _ d => d.noPort
  | .csrset _ d a n => d.noPort && a.noPort && !csrWriteRow n
  | .tlbinvPage _ a => a.noPort
  | .ctxsave _ d a | .ctxload _ d a | .notify _ d a _ => d.noPort && a.noPort
  | .mboxWrite _ d a | .canrldWrite _ d a | .watchstWrite _ d a | .fcsrWrite _ d a | .cpauseResume _ d a
  | .cpauseAbandon _ d a | .gstatDiscClear _ d a => d.noPort && a.noPort
  | _ => true

end Sys2Proof
end

