-- ==== Sys2Proof/Decode.lean ====
section
/-! DEFINITION. The word, its decode checks and its fields (02 R33 to R43), the encoding of every class, decoding of
bytes, and the encoder written from the same tables. A word the manual refuses is refused by the name of its ILLEGAL
detail. -/

namespace Sys2Proof

/-- The fields of the 96-bit word (R34). -/
structure Word96 where
  op : BitVec 10 := 0
  gn : Bool := false
  gp : BitVec 3 := 0
  d : BitVec 6 := 0
  a : BitVec 6 := 0
  b : BitVec 6 := 0
  pa : Bool := false
  pb : Bool := false
  rm : BitVec 3 := 0
  w : BitVec 3 := 0
  h : BitVec 8 := 0
  x : BitVec 16 := 0
  i : BitVec 32 := 0
  deriving DecidableEq, Repr

/-- Fields of word0, word1 and word2 (R33, R34). -/
def Word96.ofWords (w0 w1 w2 : BitVec 32) : Word96 where
  op := w2.extractLsb' 22 10
  gn := w2.getLsbD 21
  gp := w2.extractLsb' 18 3
  d := w2.extractLsb' 12 6
  a := w2.extractLsb' 6 6
  b := w2.extractLsb' 0 6
  pa := w1.getLsbD 31
  pb := w1.getLsbD 30
  rm := w1.extractLsb' 27 3
  w := w1.extractLsb' 24 3
  h := w1.extractLsb' 16 8
  x := w1.extractLsb' 0 16
  i := w0

/-- One bit as a one-bit vector. -/
def bit1 (b : Bool) : BitVec 1 := BitVec.ofBool b

/-- word2 of the fields. -/
def Word96.word2 (w : Word96) : BitVec 32 :=
  (((((w.op ++ bit1 w.gn : BitVec 11) ++ w.gp : BitVec 14) ++ w.d : BitVec 20) ++ w.a : BitVec 26) ++ w.b : BitVec 32)
/-- word1 of the fields. -/
def Word96.word1 (w : Word96) : BitVec 32 :=
  (((((bit1 w.pa ++ bit1 w.pb : BitVec 2) ++ w.rm : BitVec 5) ++ w.w : BitVec 8) ++ w.h : BitVec 16) ++ w.x : BitVec 32)

/-- Why a word is refused: the ILLEGAL details of R43's first table, and a text of fewer than 12 bytes. -/
inductive Illegal where
  | reservedField | unassigned | classF | rounding | fpType | pairOrQuad | regNumber | operandKind | forward | short
  deriving DecidableEq, Repr

/-- The ILLEGAL detail (R43). -/
def Illegal.detail : Illegal → Nat
  | .reservedField => 0x01
  | .unassigned => 0x02
  | .classF => 0x03
  | .rounding => 0x04
  | .fpType => 0x05
  | .pairOrQuad => 0x06
  | .regNumber => 0x07
  | .operandKind => 0x08
  | .forward => 0x0A
  | .short => 0x01

/-- What an entry lets a D, A or B field name. -/
inductive OpKind where
  | unused | reg | regPort | pred | acc | pair | pairPort | quad
  deriving DecidableEq, Repr

/-- What an entry lets W hold (R39). -/
inductive WUse where
  | reserved | any | fp | set (mask : BitVec 8)
  deriving DecidableEq, Repr

/-- One row of the encoding tables: which fields the entry uses, the bits of X and I it gives a meaning, the extra
limits that report 0x01 and 0x08, and how the fields read. -/
structure EncRow where
  op : Nat
  dk : OpKind := .unused
  ak : OpKind := .unused
  bk : OpKind := .unused
  pa : Bool := false
  pb : Bool := false
  fa : Bool := false
  fb : Bool := false
  rm : Bool := false
  w : WUse := .reserved
  xm : BitVec 16 := 0
  im : BitVec 32 := 0
  bad1 : Word96 → Bool := fun _ => false
  bad8 : Word96 → Bool := fun _ => false
  read : Word96 → Option Instr

/-! ### Fields to operands -/

/-- The register of a field (R47). -/
def regOf (f : BitVec 6) : Option Reg :=
  if h : f.toNat < 48 then some (.c ⟨f.toNat, h⟩)
  else if h : f.toNat - 48 < 8 then some (.s ⟨f.toNat - 48, h⟩)
  else if f = 56 then some .sp
  else if f = 57 then some .ra
  else if f = 60 then some (.link .north)
  else if f = 61 then some (.link .east)
  else if f = 62 then some (.link .south)
  else if f = 63 then some (.link .west)
  else none

/-- The number of a register (R47). -/
def Reg.num : Reg → Nat
  | .c n => n.val
  | .s n => 48 + n.val
  | .sp => 56
  | .ra => 57
  | .link .north => 60
  | .link .east => 61
  | .link .south => 62
  | .link .west => 63

/-- The field of a register. -/
def Reg.code (r : Reg) : BitVec 6 := BitVec.ofNat 6 r.num

/-- The port of a field. -/
def portOf (f : BitVec 6) : Option Port :=
  if f = 60 then some .north else if f = 61 then some .east else if f = 62 then some .south
  else if f = 63 then some .west else none

/-- The field of a port. -/
def Port.code (p : Port) : BitVec 6 := (Reg.link p).code

/-- The type of a W field. -/
def tyOf (w : BitVec 3) : Ty :=
  if w = 0 then .b8 else if w = 1 then .b16 else if w = 2 then .b32 else if w = 3 then .b64
  else if w = 4 then .i8 else if w = 5 then .i16 else if w = 6 then .i32 else .w7

/-- The W field of a type. -/
def Ty.code : Ty → BitVec 3
  | .b8 => 0 | .b16 => 1 | .b32 => 2 | .b64 => 3 | .i8 => 4 | .i16 => 5 | .i32 => 6 | .w7 => 7

/-- The floating-point type of a W field. -/
def ftyOf (w : BitVec 3) : Option FTy :=
  if w = 0 then some .f64 else if w = 1 then some .f32 else if w = 2 then some .bf16 else none

/-- The W field of a floating-point type. -/
def FTy.code : FTy → BitVec 3
  | .f64 => 0 | .f32 => 1 | .bf16 => 2

/-- The mode of an RM field (R38). -/
def rmodeOf (m : BitVec 3) : Option RMode :=
  if m = 0 then some .rne else if m = 1 then some .rtz else if m = 2 then some .rdn else if m = 3 then some .rup
  else if m = 4 then some .rna else if m = 7 then some .dyn else none

/-- The RM field of a mode. -/
def RMode.code : RMode → BitVec 3
  | .rne => 0 | .rtz => 1 | .rdn => 2 | .rup => 3 | .rna => 4 | .dyn => 7

/-- The conversion format of a code (R108). -/
def fmtOf (n : Nat) : Option Fmt :=
  match n with
  | 0 => some .f64 | 1 => some .f32 | 2 => some .bf16 | 3 => some .e4m3 | 4 => some .int8 | 5 => some .hs4
  | 6 => some .lns6 | _ => none
/-- The code of a conversion format. -/
def Fmt.code : Fmt → Nat
  | .f64 => 0 | .f32 => 1 | .bf16 => 2 | .e4m3 => 3 | .int8 => 4 | .hs4 => 5 | .lns6 => 6

/-- The block format of a code (R99). -/
def bfmtOf (n : Nat) : Option BFmt :=
  match n with
  | 1 => some .fp32 | 2 => some .bf16 | 3 => some .e4m3 | 4 => some .int8 | 5 => some .hs4 | 6 => some .lns6
  | _ => none
/-- The code of a block format. -/
def BFmt.code : BFmt → Nat
  | .fp32 => 1 | .bf16 => 2 | .e4m3 => 3 | .int8 => 4 | .hs4 => 5 | .lns6 => 6

/-- The condition of a CC field (R125). -/
def icondOf (n : Nat) : Option ICond :=
  match n with
  | 0 => some .eq | 1 => some .ne | 2 => some .lt | 3 => some .le | 4 => some .gt | 5 => some .ge | 6 => some .bl
  | 7 => some .be | 8 => some .ab | 9 => some .ae | _ => none
/-- The CC field of a condition. -/
def ICond.code : ICond → Nat
  | .eq => 0 | .ne => 1 | .lt => 2 | .le => 3 | .gt => 4 | .ge => 5 | .bl => 6 | .be => 7 | .ab => 8 | .ae => 9

/-- The condition of an FCMP CC field (R157). -/
def fcondOf (n : Nat) : Option FCond :=
  match n with
  | 0 => some .eq | 1 => some .ne | 2 => some .lt | 3 => some .le | 4 => some .gt | 5 => some .ge | 6 => some .un
  | 7 => some .or | _ => none
/-- The CC field of an FCMP condition. -/
def FCond.code : FCond → Nat
  | .eq => 0 | .ne => 1 | .lt => 2 | .le => 3 | .gt => 4 | .ge => 5 | .un => 6 | .or => 7

/-- The COMB field (R125). -/
def combOf (n : Nat) : Option Comb :=
  match n with
  | 0 => some .lane0 | 1 => some .all | 2 => some .any | _ => none
/-- The code of COMB. -/
def Comb.code : Comb → Nat
  | .lane0 => 0 | .all => 1 | .any => 2

/-- The FN field of AMO (R223). -/
def amoFnOf (n : Nat) : Option AmoFn :=
  match n with
  | 0 => some .add | 1 => some .and | 2 => some .or | 3 => some .xor | 4 => some .min | 5 => some .max
  | 6 => some .xchg | 7 => some .fadd | _ => none
/-- The code of an AMO function. -/
def AmoFn.code : AmoFn → Nat
  | .add => 0 | .and => 1 | .or => 2 | .xor => 3 | .min => 4 | .max => 5 | .xchg => 6 | .fadd => 7

/-- SCOPE (R236). -/
def scopeOf (n : Nat) : Option Scope :=
  match n with
  | 0 => some .tile | 1 => some .die | 2 => some .region | 3 => some .device | 4 => some .system | _ => none
/-- The code of a scope. -/
def Scope.code : Scope → Nat
  | .tile => 0 | .die => 1 | .region => 2 | .device => 3 | .system => 4

/-- KIND of a fence (R247). -/
def fkindOf (n : Nat) : Option FKind :=
  match n with
  | 1 => some .acq | 2 => some .rel | 3 => some .full | _ => none
/-- The code of a fence kind. -/
def FKind.code : FKind → Nat
  | .acq => 1 | .rel => 2 | .full => 3

/-- KIND of a watch (R326, R329). -/
def wkindOf (n : Nat) : Option WKind :=
  match n with
  | 1 => some .strong | 2 => some .weak | 3 => some .suspend | _ => none
/-- The code of a watch kind. -/
def WKind.code : WKind → Nat
  | .strong => 1 | .weak => 2 | .suspend => 3

/-- n bits of X from bit lo, as a number. -/
def Word96.xf (w : Word96) (lo n : Nat) : Nat := (w.x.extractLsb' lo n).toNat
/-- One bit of X. -/
def Word96.xb (w : Word96) (k : Nat) : Bool := w.x.getLsbD k
/-- n bits of I from bit lo. -/
def Word96.ib (w : Word96) (lo n : Nat) : BitVec n := w.i.extractLsb' lo n
/-- Guard and hints. -/
def Word96.head (w : Word96) : Head := { gn := w.gn, gp := ⟨w.gp.toNat, w.gp.isLt⟩, hint := w.h }
/-- D as a register. -/
def Word96.rd (w : Word96) : Option Reg := regOf w.d
/-- A without forward. -/
def Word96.pA (w : Word96) : Option PSrc := (regOf w.a).map (⟨·, w.pa⟩)
/-- B without forward. -/
def Word96.pB (w : Word96) : Option PSrc := (regOf w.b).map (⟨·, w.pb⟩)
/-- A with forward (X[47]). -/
def Word96.sA (w : Word96) : Option Src := (regOf w.a).map (⟨·, w.pa, w.xb 15⟩)
/-- B with forward (X[46]). -/
def Word96.sB (w : Word96) : Option Src := (regOf w.b).map (⟨·, w.pb, w.xb 14⟩)
/-- A predicate field. -/
def predOf (f : BitVec 6) : Option Pred := if h : f.toNat < 8 then some ⟨f.toNat, h⟩ else none
/-- An accumulator field. -/
def accOf (f : BitVec 6) : Option (Fin 4) := if h : f.toNat < 4 then some ⟨f.toNat, h⟩ else none
/-- A pair field (R54). -/
def pairOf (f : BitVec 6) : Option (Fin 24) :=
  if f.toNat % 2 = 0 then if h : f.toNat / 2 < 24 then some ⟨f.toNat / 2, h⟩ else none else none
/-- A quad field (R54). -/
def quadOf (f : BitVec 6) : Option (Fin 12) :=
  if f.toNat % 4 = 0 then if h : f.toNat / 4 < 12 then some ⟨f.toNat / 4, h⟩ else none else none
/-- An MDOT operand (R176). -/
def mopOf (f : BitVec 6) (p fwd : Bool) : Option MOperand :=
  match portOf f with
  | some q => some (.port q p fwd)
  | none => (pairOf f).map (.pair · p)
/-- The policy modifier (R216). -/
def Word96.pol (w : Word96) : PolMod := { polo := w.xb 6, pol := w.x.extractLsb' 4 2 }
/-- The route of SEND: X[38] ROUTE, X[37:32] n (R304). -/
def Word96.route (w : Word96) : Option (BitVec 6) := if w.xb 6 then some (w.x.extractLsb' 0 6) else none

/-! ### The encoding tables, class by class -/

/-- Class 0x0, control and predicates (R131). -/
def rows0 : List EncRow :=
  [ { op := 0x000, read := fun w => some (.nop w.head) }
  , { op := 0x001, im := 0xFFFFFFFF, read := fun w => do return .br w.head w.i }
  , { op := 0x002, ak := .reg, pa := true, read := fun w => do return .bri w.head (← w.pA) }
  , { op := 0x003, im := 0xFFFFFFFF, read := fun w => do return .call w.head w.i }
  , { op := 0x004, ak := .reg, pa := true, read := fun w => do return .calli w.head (← w.pA) }
  , { op := 0x005, ak := .reg, pa := true, read := fun w => do return .ret w.head (← w.pA) }
  , { op := 0x006, dk := .reg, im := 0xFFFFFFFF, bad8 := fun w => w.d == 0, read := fun w => do return .loop w.head (← w.rd) w.i }
  , { op := 0x007, dk := .pred, ak := .pred, bk := .pred, read := fun w => do return .pand w.head (← predOf w.d) (← predOf w.a) (← predOf w.b) }
  , { op := 0x008, dk := .pred, ak := .pred, bk := .pred, read := fun w => do return .por w.head (← predOf w.d) (← predOf w.a) (← predOf w.b) }
  , { op := 0x009, dk := .pred, ak := .pred, bk := .pred, read := fun w => do return .pxor w.head (← predOf w.d) (← predOf w.a) (← predOf w.b) }
  , { op := 0x00A, dk := .pred, ak := .pred, bk := .pred, read := fun w => do return .pandn w.head (← predOf w.d) (← predOf w.a) (← predOf w.b) }
  , { op := 0x00B, dk := .regPort, read := fun w => do return .pget w.head (← w.rd) }
  , { op := 0x00C, ak := .regPort, pa := true, im := 0xFF, read := fun w => do return .psetm w.head (← w.pA) (w.ib 0 8) }
  , { op := 0x00D, dk := .pred, im := 1, read := fun w => do return .pset w.head (← predOf w.d) (w.i.getLsbD 0) } ]

/-- Class 0x1, integer (R117, R121). -/
def rows1 : List EncRow :=
  [ { op := 0x040, dk := .regPort, ak := .regPort, pa := true, fa := true, bk := .regPort, pb := true, fb := true, w := .any, read := fun w => do return .add w.head (tyOf w.w) (← w.rd) (← w.sA) (← w.sB) }
  , { op := 0x041, dk := .regPort, ak := .regPort, pa := true, fa := true, w := .any, im := 0xFFFFFFFF, read := fun w => do return .addi w.head (tyOf w.w) (← w.rd) (← w.sA) w.i }
  , { op := 0x042, dk := .regPort, ak := .regPort, pa := true, fa := true, bk := .regPort, pb := true, fb := true, w := .any, read := fun w => do return .sub w.head (tyOf w.w) (← w.rd) (← w.sA) (← w.sB) }
  , { op := 0x043, dk := .regPort, ak := .regPort, pa := true, fa := true, bk := .regPort, pb := true, fb := true, w := .any, read := fun w => do return .adds w.head (tyOf w.w) (← w.rd) (← w.sA) (← w.sB) }
  , { op := 0x044, dk := .regPort, ak := .regPort, pa := true, fa := true, bk := .regPort, pb := true, fb := true, w := .any, read := fun w => do return .subs w.head (tyOf w.w) (← w.rd) (← w.sA) (← w.sB) }
  , { op := 0x045, dk := .regPort, ak := .regPort, pa := true, fa := true, bk := .regPort, pb := true, fb := true, w := .any, read := fun w => do return .mul w.head (tyOf w.w) (← w.rd) (← w.sA) (← w.sB) }
  , { op := 0x046, dk := .regPort, ak := .regPort, pa := true, fa := true, w := .any, im := 0xFFFFFFFF, read := fun w => do return .muli w.head (tyOf w.w) (← w.rd) (← w.sA) w.i }
  , { op := 0x047, dk := .regPort, ak := .regPort, pa := true, fa := true, bk := .regPort, pb := true, fb := true, w := .any, read := fun w => do return .mulh w.head (tyOf w.w) (← w.rd) (← w.sA) (← w.sB) }
  , { op := 0x048, dk := .regPort, ak := .regPort, pa := true, fa := true, bk := .regPort, pb := true, fb := true, w := .any, read := fun w => do return .div w.head (tyOf w.w) (← w.rd) (← w.sA) (← w.sB) }
  , { op := 0x049, dk := .regPort, ak := .regPort, pa := true, fa := true, bk := .regPort, pb := true, fb := true, w := .any, read := fun w => do return .rem w.head (tyOf w.w) (← w.rd) (← w.sA) (← w.sB) }
  , { op := 0x04A, dk := .regPort, ak := .regPort, pa := true, fa := true, w := .any, read := fun w => do return .neg w.head (tyOf w.w) (← w.rd) (← w.sA) }
  , { op := 0x04B, dk := .regPort, ak := .regPort, pa := true, fa := true, w := .any, read := fun w => do return .abs w.head (tyOf w.w) (← w.rd) (← w.sA) }
  , { op := 0x04C, dk := .regPort, ak := .regPort, pa := true, fa := true, bk := .regPort, pb := true, fb := true, w := .any, read := fun w => do return .min w.head (tyOf w.w) (← w.rd) (← w.sA) (← w.sB) }
  , { op := 0x04D, dk := .regPort, ak := .regPort, pa := true, fa := true, bk := .regPort, pb := true, fb := true, w := .any, read := fun w => do return .max w.head (tyOf w.w) (← w.rd) (← w.sA) (← w.sB) }
  , { op := 0x04E, dk := .regPort, ak := .regPort, pa := true, fa := true, bk := .regPort, pb := true, fb := true, w := .any, read := fun w => do return .and w.head (tyOf w.w) (← w.rd) (← w.sA) (← w.sB) }
  , { op := 0x04F, dk := .regPort, ak := .regPort, pa := true, fa := true, w := .any, im := 0xFFFFFFFF, read := fun w => do return .andi w.head (tyOf w.w) (← w.rd) (← w.sA) w.i }
  , { op := 0x050, dk := .regPort, ak := .regPort, pa := true, fa := true, bk := .regPort, pb := true, fb := true, w := .any, read := fun w => do return .or w.head (tyOf w.w) (← w.rd) (← w.sA) (← w.sB) }
  , { op := 0x051, dk := .regPort, ak := .regPort, pa := true, fa := true, w := .any, im := 0xFFFFFFFF, read := fun w => do return .ori w.head (tyOf w.w) (← w.rd) (← w.sA) w.i }
  , { op := 0x052, dk := .regPort, ak := .regPort, pa := true, fa := true, bk := .regPort, pb := true, fb := true, w := .any, read := fun w => do return .xor w.head (tyOf w.w) (← w.rd) (← w.sA) (← w.sB) }
  , { op := 0x053, dk := .regPort, ak := .regPort, pa := true, fa := true, w := .any, im := 0xFFFFFFFF, read := fun w => do return .xori w.head (tyOf w.w) (← w.rd) (← w.sA) w.i }
  , { op := 0x054, dk := .regPort, ak := .regPort, pa := true, fa := true, bk := .regPort, pb := true, fb := true, w := .any, read := fun w => do return .andn w.head (tyOf w.w) (← w.rd) (← w.sA) (← w.sB) }
  , { op := 0x055, dk := .regPort, ak := .regPort, pa := true, fa := true, bk := .regPort, pb := true, fb := true, w := .any, read := fun w => do return .shl w.head (tyOf w.w) (← w.rd) (← w.sA) (← w.sB) }
  , { op := 0x056, dk := .regPort, ak := .regPort, pa := true, fa := true, w := .any, im := 0x3F, read := fun w => do return .shli w.head (tyOf w.w) (← w.rd) (← w.sA) (w.ib 0 6) }
  , { op := 0x057, dk := .regPort, ak := .regPort, pa := true, fa := true, bk := .regPort, pb := true, fb := true, w := .any, read := fun w => do return .shr w.head (tyOf w.w) (← w.rd) (← w.sA) (← w.sB) }
  , { op := 0x058, dk := .regPort, ak := .regPort, pa := true, fa := true, w := .any, im := 0x3F, read := fun w => do return .shri w.head (tyOf w.w) (← w.rd) (← w.sA) (w.ib 0 6) }
  , { op := 0x059, dk := .regPort, ak := .regPort, pa := true, fa := true, bk := .regPort, pb := true, fb := true, w := .any, read := fun w => do return .rot w.head (tyOf w.w) (← w.rd) (← w.sA) (← w.sB) }
  , { op := 0x05A, dk := .regPort, ak := .regPort, pa := true, fa := true, w := .any, im := 0x3F, read := fun w => do return .roti w.head (tyOf w.w) (← w.rd) (← w.sA) (w.ib 0 6) }
  , { op := 0x05B, dk := .regPort, ak := .regPort, pa := true, fa := true, w := .any, read := fun w => do return .clz w.head (tyOf w.w) (← w.rd) (← w.sA) }
  , { op := 0x05C, dk := .regPort, ak := .regPort, pa := true, fa := true, w := .any, read := fun w => do return .popc w.head (tyOf w.w) (← w.rd) (← w.sA) }
  , { op := 0x05D, dk := .regPort, ak := .regPort, pa := true, fa := true, w := .any, read := fun w => do return .brev w.head (tyOf w.w) (← w.rd) (← w.sA) }
  , { op := 0x05E, dk := .regPort, ak := .regPort, pa := true, fa := true, w := .any, im := 0x7F3F, bad8 := fun w => !fieldOk (tyOf w.w) (w.ib 0 6) (w.ib 8 7), read := fun w => do return .bfx w.head (tyOf w.w) (← w.rd) (← w.sA) (w.ib 0 6) (w.ib 8 7) }
  , { op := 0x05F, dk := .regPort, ak := .regPort, pa := true, fa := true, w := .any, im := 0x7F3F, bad8 := fun w => !fieldOk (tyOf w.w) (w.ib 0 6) (w.ib 8 7), read := fun w => do return .bfi w.head (tyOf w.w) (← w.rd) (← w.sA) (w.ib 0 6) (w.ib 8 7) }
  , { op := 0x060, dk := .pred, ak := .regPort, pa := true, fa := true, bk := .regPort, pb := true, fb := true, w := .any, xm := 0x3F, bad1 := fun w => 9 < w.xf 0 4 || w.xf 4 2 == 3, read := fun w => do return .cmp w.head (tyOf w.w) (← icondOf (w.xf 0 4)) (← combOf (w.xf 4 2)) (← predOf w.d) (← w.sA) (← w.sB) }
  , { op := 0x061, dk := .pred, ak := .regPort, pa := true, fa := true, w := .any, xm := 0x3F, im := 0xFFFFFFFF, bad1 := fun w => 9 < w.xf 0 4 || w.xf 4 2 == 3, read := fun w => do return .cmpi w.head (tyOf w.w) (← icondOf (w.xf 0 4)) (← combOf (w.xf 4 2)) (← predOf w.d) (← w.sA) w.i }
  , { op := 0x062, dk := .regPort, ak := .regPort, pa := true, fa := true, bk := .regPort, pb := true, fb := true, xm := 7, read := fun w => do return .sel w.head (← w.rd) (← w.sA) (← w.sB) ⟨(w.x.extractLsb' 0 3).toNat, (w.x.extractLsb' 0 3).isLt⟩ }
  , { op := 0x063, dk := .regPort, w := .any, im := 0xFFFFFFFF, read := fun w => do return .movi w.head (tyOf w.w) (← w.rd) w.i }
  , { op := 0x064, dk := .regPort, im := 0xFFFFFFFF, read := fun w => do return .movhi w.head (← w.rd) w.i }
  , { op := 0x065, dk := .regPort, ak := .regPort, pa := true, fa := true, w := .any, read := fun w => do return .mov w.head (tyOf w.w) (← w.rd) (← w.sA) }
  , { op := 0x066, dk := .regPort, ak := .regPort, pa := true, fa := true, bk := .regPort, pb := true, fb := true, w := .any, read := fun w => do return .shuf w.head (tyOf w.w) (← w.rd) (← w.sA) (← w.sB) }
  , { op := 0x067, dk := .regPort, ak := .regPort, pa := true, fa := true, w := .any, im := 0xF, bad8 := fun w => !laneOk (tyOf w.w) (w.ib 0 4), read := fun w => do return .laneget w.head (tyOf w.w) (← w.rd) (← w.sA) (w.ib 0 4) }
  , { op := 0x068, dk := .regPort, ak := .regPort, pa := true, fa := true, w := .any, im := 0xF, bad8 := fun w => !laneOk (tyOf w.w) (w.ib 0 4), read := fun w => do return .laneset w.head (tyOf w.w) (← w.rd) (← w.sA) (w.ib 0 4) }
  , { op := 0x069, dk := .regPort, ak := .regPort, pa := true, fa := true, w := .any, im := 0xF, bad8 := fun w => !laneOk (tyOf w.w) (w.ib 0 4), read := fun w => do return .bcast w.head (tyOf w.w) (← w.rd) (← w.sA) (w.ib 0 4) } ]

/-- Class 0x2, capability (R135). That D of CAPLEN, CAPGET and CAPCLR may be a link port is DEDUCED (log 58). -/
def rows2 : List EncRow :=
  [ { op := 0x080, dk := .reg, ak := .regPort, pa := true, bk := .regPort, pb := true, read := fun w => do return .capsub w.head (← w.rd) (← w.pA) (← w.pB) }
  , { op := 0x081, dk := .regPort, ak := .regPort, pa := true, read := fun w => do return .caplen w.head (← w.rd) (← w.pA) }
  , { op := 0x082, dk := .reg, ak := .regPort, pa := true, im := 0xFF, read := fun w => do return .capperm w.head (← w.rd) (← w.pA) (w.ib 0 8) }
  , { op := 0x083, dk := .reg, ak := .regPort, pa := true, bk := .regPort, pb := true, read := fun w => do return .capadd w.head (← w.rd) (← w.pA) (← w.pB) }
  , { op := 0x084, dk := .reg, ak := .regPort, pa := true, im := 0xFFFFFFFF, read := fun w => do return .capaddi w.head (← w.rd) (← w.pA) w.i }
  , { op := 0x085, dk := .reg, ak := .regPort, pa := true, bk := .regPort, pb := true, read := fun w => do return .capset w.head (← w.rd) (← w.pA) (← w.pB) }
  , { op := 0x086, dk := .regPort, ak := .regPort, pa := true, im := 0x3F, bad8 := fun w => 8 < (w.ib 0 4).toNat, bad1 := fun w => (w.ib 0 4) != 0 && (w.ib 4 2) != 0, read := fun w => do return .capget w.head (← w.rd) (← w.pA) (w.ib 0 4) (w.ib 4 2) }
  , { op := 0x087, dk := .pred, ak := .regPort, pa := true, bk := .regPort, pb := true, im := 0xFF, read := fun w => do return .captst w.head (← predOf w.d) (← w.pA) (← w.pB) (w.ib 0 8) }
  , { op := 0x088, dk := .regPort, ak := .regPort, pa := true, read := fun w => do return .capclr w.head (← w.rd) (← w.pA) } ]

/-- PART names no group of the wider register (R109). -/
def cvtPartBad (part src dst : Nat) : Bool :=
  match fmtOf src, fmtOf dst with
  | some s, some t => Nat.max s.lanes t.lanes ≤ part * Nat.min s.lanes t.lanes
  | _, _ => false

/-- Class 0x3, conversion and blocks (R108 to R113). That D of FTOI, ITOF, BLKSET, BLKFIT and BLKGET is no link port, as CVT's
is not, is DEDUCED (log 58). -/
def rows3 : List EncRow :=
  [ { op := 0x0C0, dk := .reg, ak := .regPort, pa := true, fa := true, rm := true, xm := 0x1FFF, bad1 := fun w => 6 < w.xf 4 4 || 6 < w.xf 0 4, bad8 := fun w => cvtPartBad (w.xf 9 4) (w.xf 4 4) (w.xf 0 4), read := fun w => do return .cvt w.head (← rmodeOf w.rm) (w.xb 8) (w.x.extractLsb' 9 4) (← fmtOf (w.xf 4 4)) (← fmtOf (w.xf 0 4)) (← w.rd) (← w.sA) }
  , { op := 0x0C1, dk := .reg, ak := .regPort, pa := true, fa := true, rm := true, w := .fp, xm := 3, read := fun w => do return .ftoi w.head (← ftyOf w.w) (← rmodeOf w.rm) (w.xb 0) (w.xb 1) (← w.rd) (← w.sA) }
  , { op := 0x0C2, dk := .reg, ak := .regPort, pa := true, fa := true, rm := true, w := .fp, xm := 1, read := fun w => do return .itof w.head (← ftyOf w.w) (← rmodeOf w.rm) (w.xb 0) (← w.rd) (← w.sA) }
  , { op := 0x0C3, dk := .reg, ak := .regPort, pa := true, fa := true, rm := true, xm := 0xF, bad1 := fun w => (bfmtOf (w.xf 0 4)).isNone, read := fun w => do return .blkset w.head (← rmodeOf w.rm) (← bfmtOf (w.xf 0 4)) (← w.rd) (← w.sA) }
  , { op := 0x0C4, dk := .quad, ak := .regPort, pa := true, fa := true, rm := true, w := .fp, xm := 0x100, im := 0xFFFFFFFF, bad8 := fun w => 63 < w.i.toNat, read := fun w => do return .blkput w.head (← ftyOf w.w) (← rmodeOf w.rm) (w.xb 8) (← quadOf w.d) (← w.sA) (w.ib 0 6) }
  , { op := 0x0C5, dk := .reg, ak := .quad, pa := true, rm := true, w := .fp, im := 0xFFFFFFFF, bad8 := fun w => 63 < w.i.toNat, read := fun w => do return .blkget w.head (← ftyOf w.w) (← rmodeOf w.rm) (← w.rd) (← quadOf w.a) w.pa (w.ib 0 6) }
  , { op := 0x0C6, dk := .reg, ak := .regPort, pa := true, fa := true, w := .fp, xm := 0xF, bad1 := fun w => (bfmtOf (w.xf 0 4)).isNone, read := fun w => do return .blkfit w.head (← ftyOf w.w) (← bfmtOf (w.xf 0 4)) (← w.rd) (← w.sA) } ]

/-- Class 0x4, vector floating point (R152). -/
def rows4 : List EncRow :=
  [ { op := 0x100, dk := .regPort, ak := .regPort, pa := true, fa := true, bk := .regPort, pb := true, fb := true, w := .fp, rm := true, read := fun w => do return .fadd w.head (← ftyOf w.w) (← rmodeOf w.rm) (← w.rd) (← w.sA) (← w.sB) }
  , { op := 0x101, dk := .regPort, ak := .regPort, pa := true, fa := true, bk := .regPort, pb := true, fb := true, w := .fp, rm := true, read := fun w => do return .fsub w.head (← ftyOf w.w) (← rmodeOf w.rm) (← w.rd) (← w.sA) (← w.sB) }
  , { op := 0x102, dk := .regPort, ak := .regPort, pa := true, fa := true, bk := .regPort, pb := true, fb := true, w := .fp, rm := true, read := fun w => do return .fmul w.head (← ftyOf w.w) (← rmodeOf w.rm) (← w.rd) (← w.sA) (← w.sB) }
  , { op := 0x103, dk := .reg, ak := .regPort, pa := true, fa := true, bk := .regPort, pb := true, fb := true, w := .fp, rm := true, read := fun w => do return .ffma w.head (← ftyOf w.w) (← rmodeOf w.rm) (← w.rd) (← w.sA) (← w.sB) }
  , { op := 0x104, dk := .reg, ak := .regPort, pa := true, fa := true, bk := .regPort, pb := true, fb := true, w := .fp, rm := true, read := fun w => do return .ffms w.head (← ftyOf w.w) (← rmodeOf w.rm) (← w.rd) (← w.sA) (← w.sB) }
  , { op := 0x105, dk := .reg, ak := .regPort, pa := true, fa := true, bk := .regPort, pb := true, fb := true, w := .fp, rm := true, read := fun w => do return .fnfma w.head (← ftyOf w.w) (← rmodeOf w.rm) (← w.rd) (← w.sA) (← w.sB) }
  , { op := 0x106, dk := .regPort, ak := .regPort, pa := true, fa := true, bk := .regPort, pb := true, fb := true, w := .fp, rm := true, read := fun w => do return .fdiv w.head (← ftyOf w.w) (← rmodeOf w.rm) (← w.rd) (← w.sA) (← w.sB) }
  , { op := 0x107, dk := .regPort, ak := .regPort, pa := true, fa := true, w := .fp, rm := true, read := fun w => do return .fsqrt w.head (← ftyOf w.w) (← rmodeOf w.rm) (← w.rd) (← w.sA) }
  , { op := 0x108, dk := .regPort, ak := .regPort, pa := true, fa := true, bk := .regPort, pb := true, fb := true, w := .fp, read := fun w => do return .fmin w.head (← ftyOf w.w) (← w.rd) (← w.sA) (← w.sB) }
  , { op := 0x109, dk := .regPort, ak := .regPort, pa := true, fa := true, bk := .regPort, pb := true, fb := true, w := .fp, read := fun w => do return .fmax w.head (← ftyOf w.w) (← w.rd) (← w.sA) (← w.sB) }
  , { op := 0x10A, dk := .regPort, ak := .regPort, pa := true, fa := true, w := .fp, read := fun w => do return .fabs w.head (← ftyOf w.w) (← w.rd) (← w.sA) }
  , { op := 0x10B, dk := .regPort, ak := .regPort, pa := true, fa := true, w := .fp, read := fun w => do return .fneg w.head (← ftyOf w.w) (← w.rd) (← w.sA) }
  , { op := 0x10C, dk := .pred, ak := .regPort, pa := true, fa := true, bk := .regPort, pb := true, fb := true, w := .fp, xm := 0x3F, bad1 := fun w => 7 < w.xf 0 4 || w.xf 4 2 == 3, read := fun w => do return .fcmp w.head (← ftyOf w.w) (← fcondOf (w.xf 0 4)) (← combOf (w.xf 4 2)) (← predOf w.d) (← w.sA) (← w.sB) }
  , { op := 0x10D, dk := .regPort, ak := .regPort, pa := true, fa := true, w := .fp, read := fun w => do return .fclass w.head (← ftyOf w.w) (← w.rd) (← w.sA) }
  , { op := 0x10E, dk := .regPort, ak := .regPort, pa := true, fa := true, w := .fp, rm := true, xm := 1, read := fun w => do return .frint w.head (← ftyOf w.w) (← rmodeOf w.rm) (w.xb 0) (← w.rd) (← w.sA) }
  , { op := 0x10F, dk := .regPort, ak := .regPort, pa := true, fa := true, bk := .regPort, pb := true, fb := true, w := .fp, rm := true, read := fun w => do return .fscale w.head (← ftyOf w.w) (← rmodeOf w.rm) (← w.rd) (← w.sA) (← w.sB) }
  , { op := 0x110, dk := .regPort, ak := .regPort, pa := true, fa := true, w := .fp, rm := true, read := fun w => do return .freduce w.head (← ftyOf w.w) (← rmodeOf w.rm) (← w.rd) (← w.sA) } ]

/-- Class 0x5, special functions and environment (R162, R165, R171, R172). -/
def rows5 : List EncRow :=
  [ { op := 0x140, dk := .regPort, ak := .regPort, pa := true, fa := true, rm := true, w := .fp, read := fun w => do return .fexp w.head (← ftyOf w.w) (← rmodeOf w.rm) (← w.rd) (← w.sA) }
  , { op := 0x141, dk := .regPort, ak := .regPort, pa := true, fa := true, rm := true, w := .fp, read := fun w => do return .fexp2 w.head (← ftyOf w.w) (← rmodeOf w.rm) (← w.rd) (← w.sA) }
  , { op := 0x142, dk := .regPort, ak := .regPort, pa := true, fa := true, rm := true, w := .fp, read := fun w => do return .fexpm1 w.head (← ftyOf w.w) (← rmodeOf w.rm) (← w.rd) (← w.sA) }
  , { op := 0x143, dk := .regPort, ak := .regPort, pa := true, fa := true, rm := true, w := .fp, read := fun w => do return .flog w.head (← ftyOf w.w) (← rmodeOf w.rm) (← w.rd) (← w.sA) }
  , { op := 0x144, dk := .regPort, ak := .regPort, pa := true, fa := true, rm := true, w := .fp, read := fun w => do return .flog2 w.head (← ftyOf w.w) (← rmodeOf w.rm) (← w.rd) (← w.sA) }
  , { op := 0x145, dk := .regPort, ak := .regPort, pa := true, fa := true, rm := true, w := .fp, read := fun w => do return .flog1p w.head (← ftyOf w.w) (← rmodeOf w.rm) (← w.rd) (← w.sA) }
  , { op := 0x146, dk := .regPort, ak := .regPort, pa := true, fa := true, rm := true, w := .fp, read := fun w => do return .ferf w.head (← ftyOf w.w) (← rmodeOf w.rm) (← w.rd) (← w.sA) }
  , { op := 0x147, dk := .regPort, ak := .regPort, pa := true, fa := true, rm := true, w := .fp, read := fun w => do return .ferfc w.head (← ftyOf w.w) (← rmodeOf w.rm) (← w.rd) (← w.sA) }
  , { op := 0x148, dk := .regPort, ak := .regPort, pa := true, fa := true, rm := true, w := .fp, read := fun w => do return .frcp w.head (← ftyOf w.w) (← rmodeOf w.rm) (← w.rd) (← w.sA) }
  , { op := 0x149, dk := .regPort, ak := .regPort, pa := true, fa := true, rm := true, w := .fp, read := fun w => do return .frsqrt w.head (← ftyOf w.w) (← rmodeOf w.rm) (← w.rd) (← w.sA) }
  , { op := 0x14A, dk := .regPort, read := fun w => do return .fcsrget w.head (← w.rd) }
  , { op := 0x14B, dk := .regPort, ak := .regPort, pa := true, fa := true, im := 0x00071F1F, read := fun w => do return .fcsrset w.head (← w.rd) (← w.sA) w.i }
  , { op := 0x14C, dk := .regPort, im := 0x1F, read := fun w => do return .fflagclr w.head (← w.rd) (w.ib 0 5) }
  , { op := 0x14D, dk := .regPort, read := fun w => do return .rnd w.head (← w.rd) }
  , { op := 0x14E, dk := .regPort, ak := .regPort, pa := true, fa := true, xm := 1, bad1 := fun w => !w.xb 0 && (w.a != 0 || w.pa || w.xb 15), read := fun w => do
        let d ← w.rd
        let a ← w.sA
        return if w.xb 0 then .rndstateW w.head d a else .rndstate w.head d } ]

/-- Class 0x6, matrix (R184, R190). -/
def rows6 : List EncRow :=
  [ { op := 0x180, dk := .acc, read := fun w => do return .mzero w.head (← accOf w.d) }
  , { op := 0x181, dk := .acc, ak := .pairPort, pa := true, fa := true, bk := .pairPort, pb := true, fb := true, xm := 3, bad8 := fun w => (w.xb 0 && 47 < w.a.toNat) || (w.xb 1 && 47 < w.b.toNat), read := fun w => do return .mdot w.head (w.xb 0) (w.xb 1) (← accOf w.d) (← mopOf w.a w.pa (w.xb 15)) (← mopOf w.b w.pb (w.xb 14)) }
  , { op := 0x182, dk := .pair, ak := .acc, xm := 1, im := 7, read := fun w => do return .mrd w.head (w.xb 0) (← pairOf w.d) (← accOf w.a) (w.ib 0 3) }
  , { op := 0x183, dk := .acc, ak := .pair, pa := true, xm := 1, im := 7, read := fun w => do return .mwr w.head (w.xb 0) (← accOf w.d) (← pairOf w.a) w.pa (w.ib 0 3) }
  , { op := 0x184, dk := .acc, ak := .acc, rm := true, read := fun w => do return .madd w.head (← rmodeOf w.rm) (← accOf w.d) (← accOf w.a) }
  , { op := 0x185, dk := .acc, ak := .regPort, pa := true, fa := true, rm := true, read := fun w => do return .mscl w.head (← rmodeOf w.rm) (← accOf w.d) (← w.sA) }
  , { op := 0x186, dk := .reg, read := fun w => do return .mstat w.head (← w.rd) } ]

/-- Class 0x7, memory (R216). -/
def rows7 : List EncRow :=
  [ { op := 0x1C0, dk := .reg, ak := .reg, pa := true, w := .any, xm := 0x70, im := 0xFFFFFFFF, read := fun w => do return .ld w.head (tyOf w.w) w.pol (← w.rd) (← w.pA) w.i }
  , { op := 0x1C1, ak := .reg, pa := true, bk := .regPort, pb := true, fb := true, w := .any, xm := 0x70, im := 0xFFFFFFFF, read := fun w => do return .st w.head (tyOf w.w) w.pol (← w.pA) (← w.sB) w.i }
  , { op := 0x1C2, dk := .reg, ak := .reg, pa := true, bk := .reg, pb := true, w := .any, xm := 0x70, read := fun w => do return .ldx w.head (tyOf w.w) w.pol (← w.rd) (← w.pA) (← w.pB) }
  , { op := 0x1C3, dk := .reg, ak := .reg, pa := true, bk := .reg, pb := true, w := .any, xm := 0x70, read := fun w => do return .stx w.head (tyOf w.w) w.pol (← w.rd) (← w.pA) (← w.pB) }
  , { op := 0x1C4, dk := .reg, ak := .reg, pa := true, xm := 0x70, im := 0xFFFFFFFF, read := fun w => do return .ldc w.head w.pol (← w.rd) (← w.pA) w.i }
  , { op := 0x1C5, ak := .reg, pa := true, bk := .regPort, pb := true, fb := true, xm := 0x70, im := 0xFFFFFFFF, read := fun w => do return .stc w.head w.pol (← w.pA) (← w.sB) w.i }
  , { op := 0x1C6, dk := .reg, ak := .reg, pa := true, w := .set 0x08, im := 0xFFFFFFFF, read := fun w => do return .lde w.head (← w.rd) (← w.pA) w.i }
  , { op := 0x1C7, dk := .reg, ak := .reg, pa := true, w := .set 0x08, im := 0xFFFFFFFF, read := fun w => do return .ldf w.head (← w.rd) (← w.pA) w.i }
  , { op := 0x1C8, ak := .reg, pa := true, bk := .regPort, pb := true, fb := true, w := .set 0x08, im := 0xFFFFFFFF, read := fun w => do return .stf w.head (← w.pA) (← w.sB) w.i }
  , { op := 0x1C9, ak := .reg, pa := true, xm := 1, im := 0xFFFFFFFF, read := fun w => do return .feset w.head (w.xb 0) (← w.pA) w.i }
  , { op := 0x1CA, dk := .reg, ak := .reg, pa := true, bk := .regPort, pb := true, fb := true, w := .set 0xCC, xm := 0xF, im := 0xFFFFFFFF, bad1 := fun w => 7 < w.xf 0 4, bad8 := fun w => w.xf 0 4 == 7 && w.w != 2, read := fun w => do return .amo w.head (tyOf w.w) (← amoFnOf (w.xf 0 4)) (← w.rd) (← w.pA) (← w.sB) w.i }
  , { op := 0x1CB, dk := .reg, ak := .reg, pa := true, bk := .regPort, pb := true, fb := true, w := .set 0x8C, im := 0xFFFFFFFF, read := fun w => do return .cas w.head (tyOf w.w) (← w.rd) (← w.pA) (← w.sB) w.i }
  , { op := 0x1CC, ak := .reg, pa := true, im := 0xFFFFFFFF, read := fun w => do return .pref w.head (← w.pA) w.i }
  , { op := 0x1CD, ak := .reg, pa := true, im := 0xFFFFFFFF, read := fun w => do return .linewb w.head (← w.pA) w.i }
  , { op := 0x1CE, ak := .reg, pa := true, im := 0xFFFFFFFF, read := fun w => do return .lineinv w.head (← w.pA) w.i } ]

/-- Class 0x8, ordering (R247). -/
def rows8 : List EncRow :=
  [ { op := 0x200, xm := 0x1F, bad8 := fun w => w.xf 0 2 == 0 || 4 < w.xf 2 3, read := fun w => do return .fence w.head (← scopeOf (w.xf 2 3)) (← fkindOf (w.xf 0 2)) }
  , { op := 0x201, dk := .reg, read := fun w => do return .tmget w.head (← w.rd) }
  , { op := 0x202, read := fun w => some (.tmclr w.head) }
  , { op := 0x203, ak := .regPort, pa := true, fa := true, xm := 0x1F, bad8 := fun w => w.xf 0 2 == 0 || 4 < w.xf 2 3, read := fun w => do return .fenceh w.head (← scopeOf (w.xf 2 3)) (← fkindOf (w.xf 0 2)) (← w.sA) } ]

/-- Class 0x9, copies, streams and barriers (R259). -/
def rows9 : List EncRow :=
  [ { op := 0x240, dk := .reg, ak := .reg, pa := true, bk := .reg, pb := true, xm := 1, bad8 := fun w => w.d == 0 || 47 < w.d.toNat, read := fun w => do return .strm w.head (w.xb 0) (← w.rd) (← w.pA) (← w.pB) }
  , { op := 0x241, dk := .reg, bad8 := fun w => w.d == 0 || 47 < w.d.toNat, read := fun w => do return .strmend w.head (← w.rd) }
  , { op := 0x242, dk := .reg, ak := .reg, read := fun w => do return .strmq w.head (← w.rd) (← regOf w.a) }
  , { op := 0x243, dk := .reg, ak := .reg, pa := true, bk := .reg, pb := true, xm := 0x1000, read := fun w => do return .copy w.head (w.xb 12) (← w.rd) (← w.pA) (← w.pB) }
  , { op := 0x244, dk := .reg, ak := .reg, pa := true, bk := .reg, pb := true, rm := true, xm := 0x11FF, bad1 := fun w => (bfmtOf (w.xf 4 4)).isNone || (bfmtOf (w.xf 0 4)).isNone, read := fun w => do return .copyc w.head (← rmodeOf w.rm) (w.xb 8) (w.xb 12) (← bfmtOf (w.xf 4 4)) (← bfmtOf (w.xf 0 4)) (← w.rd) (← w.pA) (← w.pB) }
  , { op := 0x245, dk := .pair, ak := .reg, pa := true, bk := .reg, pb := true, w := .set 0x8F, xm := 0x1000, read := fun w => do return .gather w.head (tyOf w.w) (w.xb 12) (← pairOf w.d) (← w.pA) (← w.pB) }
  , { op := 0x246, dk := .pair, ak := .reg, pa := true, bk := .reg, pb := true, w := .set 0x8F, xm := 0x1000, read := fun w => do return .scatter w.head (tyOf w.w) (w.xb 12) (← pairOf w.d) (← w.pA) (← w.pB) }
  , { op := 0x247, ak := .reg, pa := true, im := 0xFFFFF, bad8 := fun w => w.ib 0 20 == 0, read := fun w => do return .txbinit w.head (← w.pA) (w.ib 0 20) }
  , { op := 0x248, dk := .reg, ak := .reg, pa := true, read := fun w => do return .txbarr w.head (← w.rd) (← w.pA) }
  , { op := 0x249, ak := .reg, pa := true, im := 0xFFFFFFFF, read := fun w => do return .txbexp w.head (← w.pA) w.i }
  , { op := 0x24A, dk := .reg, ak := .reg, pa := true, bk := .reg, pb := true, read := fun w => do return .txbwait w.head (← w.rd) (← w.pA) (← w.pB) }
  , { op := 0x24B, dk := .pred, ak := .reg, pa := true, bk := .reg, pb := true, read := fun w => do return .txbtest w.head (← predOf w.d) (← w.pA) (← w.pB) } ]

/-- Class 0xA, messages and the optical core (R304). -/
def rowsA : List EncRow :=
  [ { op := 0x280, ak := .reg, pa := true, bk := .regPort, pb := true, fb := true, xm := 0x7F, bad1 := fun w => !w.xb 6 && w.xf 0 6 != 0, read := fun w => do return .send w.head w.route (← w.pA) (← w.sB) }
  , { op := 0x281, ak := .reg, pa := true, xm := 0x7F, im := 0xFFFFFFFF, bad1 := fun w => !w.xb 6 && w.xf 0 6 != 0, read := fun w => do return .sendi w.head w.route (← w.pA) w.i }
  , { op := 0x282, dk := .reg, read := fun w => do return .inpop w.head (← w.rd) }
  , { op := 0x283, dk := .reg, read := fun w => do return .inpeek w.head (← w.rd) }
  , { op := 0x284, dk := .reg, read := fun w => do return .rtlat w.head (← w.rd) }
  , { op := 0x285, ak := .reg, pa := true, read := fun w => do return .rtload w.head (← w.pA) }
  , { op := 0x286, dk := .reg, im := 0xF, read := fun w => do return .linkclr w.head (← w.rd) (w.ib 0 4) }
  , { op := 0x287, dk := .reg, ak := .reg, pa := true, bk := .reg, pb := true, xm := 3, bad8 := fun w => 1 < w.xf 0 2, read := fun w => do return .osend w.head (w.xb 0) (← w.rd) (← w.pA) (← w.pB) }
  , { op := 0x288, dk := .reg, read := fun w => do return .oslot w.head (← w.rd) }
  , { op := 0x289, read := fun w => some (.ofence w.head) } ]

/-- Class 0xB, reactive (R329). -/
def rowsB : List EncRow :=
  [ { op := 0x2C0, read := fun w => some (.pause w.head) }
  , { op := 0x2C1, xm := 1, im := 0x3F, read := fun w => do return .emit w.head (w.xb 0) (w.ib 0 6) }
  , { op := 0x2C2, dk := .pred, im := 0x3F, read := fun w => do return .present w.head (← predOf w.d) (w.ib 0 6) }
  , { op := 0x2C3, dk := .pred, im := 0x3F, read := fun w => do return .prev w.head (← predOf w.d) (w.ib 0 6) }
  , { op := 0x2C4, xm := 0x3F3, im := 0xFFFFFFFF, bad8 := fun w => w.xf 0 2 == 0, read := fun w => do return .watch w.head (← wkindOf (w.xf 0 2)) (w.x.extractLsb' 4 6) w.i }
  , { op := 0x2C5, read := fun w => some (.unwatch w.head) }
  , { op := 0x2C6, dk := .reg, ak := .regPort, pa := true, fa := true, read := fun w => do return .canemit w.head (← w.rd) (← w.sA) }
  , { op := 0x2C7, ak := .regPort, pa := true, fa := true, read := fun w => do return .disclaim w.head (← w.sA) }
  , { op := 0x2C8, dk := .reg, read := fun w => do return .instant w.head (← w.rd) }
  , { op := 0x2C9, read := fun w => some (.rbar w.head) }
  , { op := 0x2CA, dk := .reg, xm := 1, read := fun w => do
        let d ← w.rd
        return if w.xb 0 then .rexcuseOn w.head d else .rexcuseOff w.head d }
  , { op := 0x2CB, im := 0x3F, read := fun w => do return .await w.head (w.ib 0 6) } ]

/-- Class 0xC, groups and tasks (R362). -/
def rowsC : List EncRow :=
  [ { op := 0x300, dk := .pred, ak := .reg, pa := true, bk := .reg, pb := true, im := 0xFFFFFFFF, read := fun w => do return .fork w.head (← predOf w.d) (← w.pA) (← w.pB) w.i }
  , { op := 0x301, read := fun w => some (.join w.head) }
  , { op := 0x302, read := fun w => some (.yield w.head) }
  , { op := 0x303, xm := 1, im := 0xFFFF, bad1 := fun w => !w.xb 0 && w.i != 0, read := fun w => some (.halt w.head (if w.xb 0 then some (w.ib 0 16) else none)) }
  , { op := 0x304, dk := .reg, ak := .reg, pa := true, read := fun w => do return .launch w.head (← w.rd) (← w.pA) }
  , { op := 0x305, read := fun w => some (.trigger w.head) }
  , { op := 0x306, dk := .reg, im := 0xF, bad8 := fun w => 8 < (w.ib 0 4).toNat, read := fun w => do return .who w.head (← w.rd) (w.ib 0 4) }
  , { op := 0x307, dk := .reg, ak := .reg, pa := true, read := fun w => do return .lwait w.head (← w.rd) (← w.pA) }
  , { op := 0x308, read := fun w => some (.gbar w.head) } ]

/-- Class 0xD, pool (R391). -/
def rowsD : List EncRow :=
  [ { op := 0x340, dk := .reg, ak := .reg, pa := true, bk := .reg, pb := true, read := fun w => do return .pinit w.head (← w.rd) (← w.pA) (← w.pB) }
  , { op := 0x341, ak := .reg, pa := true, bk := .regPort, pb := true, fb := true, read := fun w => do return .pput w.head (← w.pA) (← w.sB) }
  , { op := 0x342, dk := .pair, ak := .reg, pa := true, xm := 0x3B, bad8 := fun w => w.xf 0 2 == 3, read := fun w => do
        let p : Pred := ⟨(w.x.extractLsb' 3 3).toNat, (w.x.extractLsb' 3 3).isLt⟩
        let d ← pairOf w.d
        let a ← w.pA
        if w.xf 0 2 = 0 then return .ptakeWait w.head p d a
        else if w.xf 0 2 = 1 then return .ptakeTry w.head p d a
        else if w.xf 0 2 = 2 then return .ptakeX w.head p d a
        else none }
  , { op := 0x343, dk := .reg, ak := .reg, pa := true, read := fun w => do return .pbound w.head (← w.rd) (← w.pA) }
  , { op := 0x344, dk := .reg, ak := .reg, pa := true, read := fun w => do return .psize w.head (← w.rd) (← w.pA) }
  , { op := 0x345, dk := .reg, ak := .reg, pa := true, read := fun w => do return .pfree w.head (← w.rd) (← w.pA) }
  , { op := 0x346, ak := .reg, pa := true, read := fun w => do return .psync w.head (← w.pA) } ]

/-- CSRSET of a register that has a row of its own in the opcode table (rows 195 to 201), or plain CSRSET. A write of
CPAUSE (0x107) stays `csrset`: whether it resumes or abandons is in the operand (R274). -/
def csrsetOf (h : Head) (d : Reg) (a : PSrc) (n : BitVec 12) : Instr :=
  if n = 0x009 then .mboxWrite h d a
  else if n = 0x00C then .canrldWrite h d a
  else if n = 0x004 then .watchstWrite h d a
  else if n = 0x001 then .fcsrWrite h d a
  else if n = 0x100 then .gstatDiscClear h d a
  else .csrset h d a n

/-- Class 0xE, system (R424). -/
def rowsE : List EncRow :=
  [ { op := 0x380, ak := .reg, pa := true, im := 0xFF, read := fun w => do return .trap w.head (w.ib 0 8) (← w.pA) }
  , { op := 0x381, xm := 1, read := fun w => do return .eret w.head (w.xb 0) }
  , { op := 0x382, dk := .reg, im := 0xFFF, read := fun w => do return .csrget w.head (← w.rd) (w.ib 0 12) }
  , { op := 0x383, dk := .reg, ak := .reg, pa := true, im := 0xFFF, read := fun w => do
        let d ← w.rd
        let a ← w.pA
        return csrsetOf w.head d a (w.ib 0 12) }
  , { op := 0x384, im := 0xFFFF, read := fun w => do return .brk w.head (w.ib 0 16) }
  , { op := 0x385, dk := .reg, read := fun w => do return .ckpt w.head (← w.rd) }
  , { op := 0x386, ak := .reg, pa := true, xm := 1, bad1 := fun w => w.xb 0 && (w.a != 0 || w.pa), read := fun w => do
        let a ← w.pA
        return if w.xb 0 then .tlbinvAll w.head else .tlbinvPage w.head a }
  , { op := 0x387, dk := .reg, ak := .reg, pa := true, read := fun w => do return .ctxsave w.head (← w.rd) (← w.pA) }
  , { op := 0x388, dk := .reg, ak := .reg, pa := true, read := fun w => do return .ctxload w.head (← w.rd) (← w.pA) }
  , { op := 0x389, dk := .reg, ak := .reg, pa := true, im := 0xFF, read := fun w => do return .notify w.head (← w.rd) (← w.pA) (w.ib 0 8) } ]

/-- The encoding tables of the classes 0x0 to 0xE (R63). -/
def classRows : Nat → List EncRow
  | 0x0 => rows0 | 0x1 => rows1 | 0x2 => rows2 | 0x3 => rows3 | 0x4 => rows4 | 0x5 => rows5 | 0x6 => rows6
  | 0x7 => rows7 | 0x8 => rows8 | 0x9 => rows9 | 0xA => rowsA | 0xB => rowsB | 0xC => rowsC | 0xD => rowsD
  | 0xE => rowsE | _ => []

/-- The row of an OP value. -/
def rowOf (op : BitVec 10) : Option EncRow := (classRows (op.toNat / 64)).find? (fun r => r.op == op.toNat)

/-! ### The decode checks (R43), in their order -/

/-- A field is used and holds 58 or 59. -/
def OpKind.badNumber (k : OpKind) (f : BitVec 6) : Bool := k != .unused && (f == 58 || f == 59)
/-- A pair or quad field that names none (detail 0x06). -/
def OpKind.badPair (k : OpKind) (f : BitVec 6) : Bool :=
  match k with
  | .pair => 47 < f.toNat || f.toNat % 2 != 0
  | .pairPort => !(59 < f.toNat) && (47 < f.toNat || f.toNat % 2 != 0)
  | .quad => 47 < f.toNat || f.toNat % 4 != 0
  | _ => false
/-- A field that names a kind the entry does not allow (detail 0x08). -/
def OpKind.badKind (k : OpKind) (f : BitVec 6) : Bool :=
  match k with
  | .reg => 57 < f.toNat
  | .pred => 7 < f.toNat
  | .acc => 3 < f.toNat
  | _ => false
/-- A register field outside its use is nonzero. -/
def OpKind.reservedSet (k : OpKind) (f : BitVec 6) : Bool := k == .unused && f != 0

/-- The X bits an entry gives a meaning, the forward bits among them. -/
def EncRow.xAll (r : EncRow) : BitVec 16 :=
  r.xm ||| (if r.fa then 0x8000 else 0) ||| (if r.fb then 0x4000 else 0)

/-- Detail 0x01 (R35, R43). -/
def EncRow.reserved (r : EncRow) (w : Word96) : Bool :=
  r.dk.reservedSet w.d || r.ak.reservedSet w.a || r.bk.reservedSet w.b || (w.pa && !r.pa) || (w.pb && !r.pb)
    || (r.w == .reserved && w.w != 0) || (w.x &&& ~~~r.xAll) != 0 || (w.i &&& ~~~r.im) != 0 || r.bad1 w

/-- Detail 0x04 (R38). -/
def EncRow.badRM (r : EncRow) (w : Word96) : Bool := w.rm == 5 || w.rm == 6 || (!r.rm && w.rm != 0)

/-- The W field is outside the entry's set (detail 0x08). -/
def EncRow.badW (r : EncRow) (w : Word96) : Bool :=
  match r.w with
  | .set m => !m.getLsbD w.w.toNat
  | _ => false

/-- Detail 0x0A (R41). -/
def EncRow.badForward (r : EncRow) (w : Word96) : Bool :=
  (r.fa && w.xb 15 && w.a.toNat < 60) || (r.fb && w.xb 14 && w.b.toNat < 60)

/-- The first decode check that fails, in the order of R43. -/
def EncRow.check (r : EncRow) (w : Word96) : Option Illegal :=
  if r.reserved w then some .reservedField
  else if r.badRM w then some .rounding
  else if r.w == .fp && 2 < w.w.toNat then some .fpType
  else if r.dk.badNumber w.d || r.ak.badNumber w.a || r.bk.badNumber w.b then some .regNumber
  else if r.dk.badPair w.d || r.ak.badPair w.a || r.bk.badPair w.b then some .pairOrQuad
  else if r.dk.badKind w.d || r.ak.badKind w.a || r.bk.badKind w.b || r.badW w || r.bad8 w then some .operandKind
  else if r.badForward w then some .forward
  else none

/-- The instruction of a word, or the name of the check it fails (R43). -/
def decode (w : Word96) : Except Illegal Instr :=
  if w.op.toNat / 64 = 15 then .error .classF
  else
    match rowOf w.op with
    | none => .error .unassigned
    | some r =>
      match r.check w with
      | some e => .error e
      | none =>
        match r.read w with
        | some i => .ok i
        | none => .error .operandKind

/-- Four bytes in little-endian order (R33). -/
def le32 (b0 b1 b2 b3 : Byte) : BitVec 32 := (b3 ++ b2 : BitVec 16) ++ (b1 ++ b0 : BitVec 16)

/-- Decoding of a text: the instruction of its first 12 bytes and the bytes that follow. Total on any bytes. -/
def decodeBytes : List Byte → Except Illegal (Instr × List Byte)
  | b0 :: b1 :: b2 :: b3 :: b4 :: b5 :: b6 :: b7 :: b8 :: b9 :: b10 :: b11 :: rest =>
    match decode (Word96.ofWords (le32 b0 b1 b2 b3) (le32 b4 b5 b6 b7) (le32 b8 b9 b10 b11)) with
    | .ok i => .ok (i, rest)
    | .error e => .error e
  | _ => .error .short

/-- The bytes of a word, lowest address first (R33). -/
def Word96.bytes (w : Word96) : List Byte :=
  let le (x : BitVec 32) : List Byte :=
    [x.extractLsb' 0 8, x.extractLsb' 8 8, x.extractLsb' 16 8, x.extractLsb' 24 8]
  le w.i ++ le w.word1 ++ le w.word2

/-- The n bytes of a number, least significant first. -/
def bytesOfNat : Nat → Nat → List Byte
  | 0, _ => []
  | n + 1, v => BitVec.ofNat 8 v :: bytesOfNat n (v / 256)

/-- The instruction that the decoder reads from a word numbered as spec/opcode_table.json numbers it: bits 31:0 are
word0, 63:32 word1, 95:64 word2; bits above nbits are zero. -/
def decodeTableWord (nbits w : Nat) : Option Instr :=
  match decodeBytes (bytesOfNat 12 (w % 2 ^ nbits)) with
  | .ok (i, _) => some i
  | .error _ => none

/-! ### The encoder, from the same tables -/

/-- A word with its OP, guard and hints (R34). -/
def word (op : BitVec 10) (h : Head) : Word96 :=
  { op := op, gn := h.gn, gp := BitVec.ofNat 3 h.gp.val, h := h.hint }
/-- One bit of X. -/
def bx (k : Nat) (v : Bool) : BitVec 16 := if v then 1#16 <<< k else 0
/-- A field of X from a number. -/
def nx (k n : Nat) : BitVec 16 := BitVec.ofNat 16 n <<< k
/-- A field of X from bits. -/
def vx (k : Nat) {n : Nat} (v : BitVec n) : BitVec 16 := v.setWidth 16 <<< k
/-- A field of I from bits. -/
def bi (k : Nat) {n : Nat} (v : BitVec n) : BitVec 32 := v.setWidth 32 <<< k
/-- The field of a predicate. -/
def predCode (p : Pred) : BitVec 6 := BitVec.ofNat 6 p.val
/-- The field of an accumulator. -/
def accCode (a : Fin 4) : BitVec 6 := BitVec.ofNat 6 a.val
/-- The field of a pair (R54). -/
def pairCode (k : Fin 24) : BitVec 6 := BitVec.ofNat 6 (2 * k.val)
/-- The field of a quad (R54). -/
def quadCode (k : Fin 12) : BitVec 6 := BitVec.ofNat 6 (4 * k.val)
/-- The field of an MDOT operand (R176). -/
def MOperand.code : MOperand → BitVec 6
  | .pair k _ => pairCode k
  | .port p _ _ => p.code
/-- The policy bit of an MDOT operand. -/
def MOperand.policy : MOperand → Bool
  | .pair _ q => q
  | .port _ q _ => q
/-- The forward bit of an MDOT operand. -/
def MOperand.fwd : MOperand → Bool
  | .pair _ _ => false
  | .port _ _ f => f
/-- POLO and POL in X (R216). -/
def polX (m : PolMod) : BitVec 16 := bx 6 m.polo ||| vx 4 m.pol
/-- ROUTE and n in X (R304). -/
def routeX : Option (BitVec 6) → BitVec 16
  | none => 0
  | some n => bx 6 true ||| vx 0 n

/-- The fields of an instruction's word; none for the steps that are no words of a program. -/
def encode (i : Instr) : Option Word96 :=
  match i with
  | .nop h => some (word 0x000 h)
  | .br h i => some { word 0x001 h with i := i }
  | .bri h a => some { word 0x002 h with a := a.r.code, pa := a.trapEmpty }
  | .call h i => some { word 0x003 h with i := i }
  | .calli h a => some { word 0x004 h with a := a.r.code, pa := a.trapEmpty }
  | .ret h a => some { word 0x005 h with a := a.r.code, pa := a.trapEmpty }
  | .loop h d i => some { word 0x006 h with d := d.code, i := i }
  | .pand h p q r => some { word 0x007 h with d := predCode p, a := predCode q, b := predCode r }
  | .por h p q r => some { word 0x008 h with d := predCode p, a := predCode q, b := predCode r }
  | .pxor h p q r => some { word 0x009 h with d := predCode p, a := predCode q, b := predCode r }
  | .pandn h p q r => some { word 0x00A h with d := predCode p, a := predCode q, b := predCode r }
  | .pget h d => some { word 0x00B h with d := d.code }
  | .psetm h a m => some { word 0x00C h with a := a.r.code, pa := a.trapEmpty, i := (m).setWidth 32 }
  | .pset h p v => some { word 0x00D h with d := predCode p, i := (bit1 v).setWidth 32 }
  | .add h t d a b => some { word 0x040 h with w := t.code, d := d.code, a := a.r.code, pa := a.trapEmpty, b := b.r.code, pb := b.trapEmpty, x := bx 15 a.fwd ||| bx 14 b.fwd }
  | .addi h t d a i => some { word 0x041 h with w := t.code, d := d.code, a := a.r.code, pa := a.trapEmpty, i := i, x := bx 15 a.fwd }
  | .sub h t d a b => some { word 0x042 h with w := t.code, d := d.code, a := a.r.code, pa := a.trapEmpty, b := b.r.code, pb := b.trapEmpty, x := bx 15 a.fwd ||| bx 14 b.fwd }
  | .adds h t d a b => some { word 0x043 h with w := t.code, d := d.code, a := a.r.code, pa := a.trapEmpty, b := b.r.code, pb := b.trapEmpty, x := bx 15 a.fwd ||| bx 14 b.fwd }
  | .subs h t d a b => some { word 0x044 h with w := t.code, d := d.code, a := a.r.code, pa := a.trapEmpty, b := b.r.code, pb := b.trapEmpty, x := bx 15 a.fwd ||| bx 14 b.fwd }
  | .mul h t d a b => some { word 0x045 h with w := t.code, d := d.code, a := a.r.code, pa := a.trapEmpty, b := b.r.code, pb := b.trapEmpty, x := bx 15 a.fwd ||| bx 14 b.fwd }
  | .muli h t d a i => some { word 0x046 h with w := t.code, d := d.code, a := a.r.code, pa := a.trapEmpty, i := i, x := bx 15 a.fwd }
  | .mulh h t d a b => some { word 0x047 h with w := t.code, d := d.code, a := a.r.code, pa := a.trapEmpty, b := b.r.code, pb := b.trapEmpty, x := bx 15 a.fwd ||| bx 14 b.fwd }
  | .div h t d a b => some { word 0x048 h with w := t.code, d := d.code, a := a.r.code, pa := a.trapEmpty, b := b.r.code, pb := b.trapEmpty, x := bx 15 a.fwd ||| bx 14 b.fwd }
  | .rem h t d a b => some { word 0x049 h with w := t.code, d := d.code, a := a.r.code, pa := a.trapEmpty, b := b.r.code, pb := b.trapEmpty, x := bx 15 a.fwd ||| bx 14 b.fwd }
  | .neg h t d a => some { word 0x04A h with w := t.code, d := d.code, a := a.r.code, pa := a.trapEmpty, x := bx 15 a.fwd }
  | .abs h t d a => some { word 0x04B h with w := t.code, d := d.code, a := a.r.code, pa := a.trapEmpty, x := bx 15 a.fwd }
  | .min h t d a b => some { word 0x04C h with w := t.code, d := d.code, a := a.r.code, pa := a.trapEmpty, b := b.r.code, pb := b.trapEmpty, x := bx 15 a.fwd ||| bx 14 b.fwd }
  | .max h t d a b => some { word 0x04D h with w := t.code, d := d.code, a := a.r.code, pa := a.trapEmpty, b := b.r.code, pb := b.trapEmpty, x := bx 15 a.fwd ||| bx 14 b.fwd }
  | .and h t d a b => some { word 0x04E h with w := t.code, d := d.code, a := a.r.code, pa := a.trapEmpty, b := b.r.code, pb := b.trapEmpty, x := bx 15 a.fwd ||| bx 14 b.fwd }
  | .andi h t d a i => some { word 0x04F h with w := t.code, d := d.code, a := a.r.code, pa := a.trapEmpty, i := i, x := bx 15 a.fwd }
  | .or h t d a b => some { word 0x050 h with w := t.code, d := d.code, a := a.r.code, pa := a.trapEmpty, b := b.r.code, pb := b.trapEmpty, x := bx 15 a.fwd ||| bx 14 b.fwd }
  | .ori h t d a i => some { word 0x051 h with w := t.code, d := d.code, a := a.r.code, pa := a.trapEmpty, i := i, x := bx 15 a.fwd }
  | .xor h t d a b => some { word 0x052 h with w := t.code, d := d.code, a := a.r.code, pa := a.trapEmpty, b := b.r.code, pb := b.trapEmpty, x := bx 15 a.fwd ||| bx 14 b.fwd }
  | .xori h t d a i => some { word 0x053 h with w := t.code, d := d.code, a := a.r.code, pa := a.trapEmpty, i := i, x := bx 15 a.fwd }
  | .andn h t d a b => some { word 0x054 h with w := t.code, d := d.code, a := a.r.code, pa := a.trapEmpty, b := b.r.code, pb := b.trapEmpty, x := bx 15 a.fwd ||| bx 14 b.fwd }
  | .shl h t d a b => some { word 0x055 h with w := t.code, d := d.code, a := a.r.code, pa := a.trapEmpty, b := b.r.code, pb := b.trapEmpty, x := bx 15 a.fwd ||| bx 14 b.fwd }
  | .shli h t d a n => some { word 0x056 h with w := t.code, d := d.code, a := a.r.code, pa := a.trapEmpty, i := (n).setWidth 32, x := bx 15 a.fwd }
  | .shr h t d a b => some { word 0x057 h with w := t.code, d := d.code, a := a.r.code, pa := a.trapEmpty, b := b.r.code, pb := b.trapEmpty, x := bx 15 a.fwd ||| bx 14 b.fwd }
  | .shri h t d a n => some { word 0x058 h with w := t.code, d := d.code, a := a.r.code, pa := a.trapEmpty, i := (n).setWidth 32, x := bx 15 a.fwd }
  | .rot h t d a b => some { word 0x059 h with w := t.code, d := d.code, a := a.r.code, pa := a.trapEmpty, b := b.r.code, pb := b.trapEmpty, x := bx 15 a.fwd ||| bx 14 b.fwd }
  | .roti h t d a n => some { word 0x05A h with w := t.code, d := d.code, a := a.r.code, pa := a.trapEmpty, i := (n).setWidth 32, x := bx 15 a.fwd }
  | .clz h t d a => some { word 0x05B h with w := t.code, d := d.code, a := a.r.code, pa := a.trapEmpty, x := bx 15 a.fwd }
  | .popc h t d a => some { word 0x05C h with w := t.code, d := d.code, a := a.r.code, pa := a.trapEmpty, x := bx 15 a.fwd }
  | .brev h t d a => some { word 0x05D h with w := t.code, d := d.code, a := a.r.code, pa := a.trapEmpty, x := bx 15 a.fwd }
  | .bfx h t d a n m => some { word 0x05E h with w := t.code, d := d.code, a := a.r.code, pa := a.trapEmpty, i := bi 0 n ||| bi 8 m, x := bx 15 a.fwd }
  | .bfi h t d a n m => some { word 0x05F h with w := t.code, d := d.code, a := a.r.code, pa := a.trapEmpty, i := bi 0 n ||| bi 8 m, x := bx 15 a.fwd }
  | .cmp h t cc m p a b => some { word 0x060 h with w := t.code, d := predCode p, a := a.r.code, pa := a.trapEmpty, b := b.r.code, pb := b.trapEmpty, x := bx 15 a.fwd ||| bx 14 b.fwd ||| nx 0 cc.code ||| nx 4 m.code }
  | .cmpi h t cc m p a i => some { word 0x061 h with w := t.code, d := predCode p, a := a.r.code, pa := a.trapEmpty, i := i, x := bx 15 a.fwd ||| nx 0 cc.code ||| nx 4 m.code }
  | .sel h d a b q => some { word 0x062 h with d := d.code, a := a.r.code, pa := a.trapEmpty, b := b.r.code, pb := b.trapEmpty, x := bx 15 a.fwd ||| bx 14 b.fwd ||| nx 0 q.val }
  | .movi h t d i => some { word 0x063 h with w := t.code, d := d.code, i := i }
  | .movhi h d i => some { word 0x064 h with d := d.code, i := i }
  | .mov h t d a => some { word 0x065 h with w := t.code, d := d.code, a := a.r.code, pa := a.trapEmpty, x := bx 15 a.fwd }
  | .shuf h t d a b => some { word 0x066 h with w := t.code, d := d.code, a := a.r.code, pa := a.trapEmpty, b := b.r.code, pb := b.trapEmpty, x := bx 15 a.fwd ||| bx 14 b.fwd }
  | .laneget h t d a n => some { word 0x067 h with w := t.code, d := d.code, a := a.r.code, pa := a.trapEmpty, i := (n).setWidth 32, x := bx 15 a.fwd }
  | .laneset h t d a n => some { word 0x068 h with w := t.code, d := d.code, a := a.r.code, pa := a.trapEmpty, i := (n).setWidth 32, x := bx 15 a.fwd }
  | .bcast h t d a n => some { word 0x069 h with w := t.code, d := d.code, a := a.r.code, pa := a.trapEmpty, i := (n).setWidth 32, x := bx 15 a.fwd }
  | .capsub h d a b => some { word 0x080 h with d := d.code, a := a.r.code, pa := a.trapEmpty, b := b.r.code, pb := b.trapEmpty }
  | .caplen h d a => some { word 0x081 h with d := d.code, a := a.r.code, pa := a.trapEmpty }
  | .capperm h d a m => some { word 0x082 h with d := d.code, a := a.r.code, pa := a.trapEmpty, i := (m).setWidth 32 }
  | .capadd h d a b => some { word 0x083 h with d := d.code, a := a.r.code, pa := a.trapEmpty, b := b.r.code, pb := b.trapEmpty }
  | .capaddi h d a i => some { word 0x084 h with d := d.code, a := a.r.code, pa := a.trapEmpty, i := i }
  | .capset h d a b => some { word 0x085 h with d := d.code, a := a.r.code, pa := a.trapEmpty, b := b.r.code, pb := b.trapEmpty }
  | .capget h d a f q => some { word 0x086 h with d := d.code, a := a.r.code, pa := a.trapEmpty, i := bi 0 f ||| bi 4 q }
  | .captst h p a b m => some { word 0x087 h with d := predCode p, a := a.r.code, pa := a.trapEmpty, b := b.r.code, pb := b.trapEmpty, i := (m).setWidth 32 }
  | .capclr h d a => some { word 0x088 h with d := d.code, a := a.r.code, pa := a.trapEmpty }
  | .cvt h rm sat part sf tf d a => some { word 0x0C0 h with rm := rm.code, d := d.code, a := a.r.code, pa := a.trapEmpty, x := bx 15 a.fwd ||| bx 8 sat ||| vx 9 part ||| nx 4 sf.code ||| nx 0 tf.code }
  | .ftoi h t rm sg sat d a => some { word 0x0C1 h with w := t.code, rm := rm.code, d := d.code, a := a.r.code, pa := a.trapEmpty, x := bx 15 a.fwd ||| bx 0 sg ||| bx 1 sat }
  | .itof h t rm sg d a => some { word 0x0C2 h with w := t.code, rm := rm.code, d := d.code, a := a.r.code, pa := a.trapEmpty, x := bx 15 a.fwd ||| bx 0 sg }
  | .blkset h rm f d a => some { word 0x0C3 h with rm := rm.code, d := d.code, a := a.r.code, pa := a.trapEmpty, x := bx 15 a.fwd ||| nx 0 f.code }
  | .blkput h t rm sat q a n => some { word 0x0C4 h with w := t.code, rm := rm.code, d := quadCode q, a := a.r.code, pa := a.trapEmpty, x := bx 15 a.fwd ||| bx 8 sat, i := (n).setWidth 32 }
  | .blkget h t rm d q pe n => some { word 0x0C5 h with w := t.code, rm := rm.code, d := d.code, a := quadCode q, pa := pe, i := (n).setWidth 32 }
  | .blkfit h t f d a => some { word 0x0C6 h with w := t.code, d := d.code, a := a.r.code, pa := a.trapEmpty, x := bx 15 a.fwd ||| nx 0 f.code }
  | .fadd h t rm d a b => some { word 0x100 h with w := t.code, rm := rm.code, d := d.code, a := a.r.code, pa := a.trapEmpty, b := b.r.code, pb := b.trapEmpty, x := bx 15 a.fwd ||| bx 14 b.fwd }
  | .fsub h t rm d a b => some { word 0x101 h with w := t.code, rm := rm.code, d := d.code, a := a.r.code, pa := a.trapEmpty, b := b.r.code, pb := b.trapEmpty, x := bx 15 a.fwd ||| bx 14 b.fwd }
  | .fmul h t rm d a b => some { word 0x102 h with w := t.code, rm := rm.code, d := d.code, a := a.r.code, pa := a.trapEmpty, b := b.r.code, pb := b.trapEmpty, x := bx 15 a.fwd ||| bx 14 b.fwd }
  | .ffma h t rm d a b => some { word 0x103 h with w := t.code, rm := rm.code, d := d.code, a := a.r.code, pa := a.trapEmpty, b := b.r.code, pb := b.trapEmpty, x := bx 15 a.fwd ||| bx 14 b.fwd }
  | .ffms h t rm d a b => some { word 0x104 h with w := t.code, rm := rm.code, d := d.code, a := a.r.code, pa := a.trapEmpty, b := b.r.code, pb := b.trapEmpty, x := bx 15 a.fwd ||| bx 14 b.fwd }
  | .fnfma h t rm d a b => some { word 0x105 h with w := t.code, rm := rm.code, d := d.code, a := a.r.code, pa := a.trapEmpty, b := b.r.code, pb := b.trapEmpty, x := bx 15 a.fwd ||| bx 14 b.fwd }
  | .fdiv h t rm d a b => some { word 0x106 h with w := t.code, rm := rm.code, d := d.code, a := a.r.code, pa := a.trapEmpty, b := b.r.code, pb := b.trapEmpty, x := bx 15 a.fwd ||| bx 14 b.fwd }
  | .fsqrt h t rm d a => some { word 0x107 h with w := t.code, rm := rm.code, d := d.code, a := a.r.code, pa := a.trapEmpty, x := bx 15 a.fwd }
  | .fmin h t d a b => some { word 0x108 h with w := t.code, d := d.code, a := a.r.code, pa := a.trapEmpty, b := b.r.code, pb := b.trapEmpty, x := bx 15 a.fwd ||| bx 14 b.fwd }
  | .fmax h t d a b => some { word 0x109 h with w := t.code, d := d.code, a := a.r.code, pa := a.trapEmpty, b := b.r.code, pb := b.trapEmpty, x := bx 15 a.fwd ||| bx 14 b.fwd }
  | .fabs h t d a => some { word 0x10A h with w := t.code, d := d.code, a := a.r.code, pa := a.trapEmpty, x := bx 15 a.fwd }
  | .fneg h t d a => some { word 0x10B h with w := t.code, d := d.code, a := a.r.code, pa := a.trapEmpty, x := bx 15 a.fwd }
  | .fcmp h t cc m p a b => some { word 0x10C h with w := t.code, d := predCode p, a := a.r.code, pa := a.trapEmpty, b := b.r.code, pb := b.trapEmpty, x := bx 15 a.fwd ||| bx 14 b.fwd ||| nx 0 cc.code ||| nx 4 m.code }
  | .fclass h t d a => some { word 0x10D h with w := t.code, d := d.code, a := a.r.code, pa := a.trapEmpty, x := bx 15 a.fwd }
  | .frint h t rm ex d a => some { word 0x10E h with w := t.code, rm := rm.code, d := d.code, a := a.r.code, pa := a.trapEmpty, x := bx 15 a.fwd ||| bx 0 ex }
  | .fscale h t rm d a b => some { word 0x10F h with w := t.code, rm := rm.code, d := d.code, a := a.r.code, pa := a.trapEmpty, b := b.r.code, pb := b.trapEmpty, x := bx 15 a.fwd ||| bx 14 b.fwd }
  | .freduce h t rm d a => some { word 0x110 h with w := t.code, rm := rm.code, d := d.code, a := a.r.code, pa := a.trapEmpty, x := bx 15 a.fwd }
  | .fexp h t rm d a => some { word 0x140 h with w := t.code, rm := rm.code, d := d.code, a := a.r.code, pa := a.trapEmpty, x := bx 15 a.fwd }
  | .fexp2 h t rm d a => some { word 0x141 h with w := t.code, rm := rm.code, d := d.code, a := a.r.code, pa := a.trapEmpty, x := bx 15 a.fwd }
  | .fexpm1 h t rm d a => some { word 0x142 h with w := t.code, rm := rm.code, d := d.code, a := a.r.code, pa := a.trapEmpty, x := bx 15 a.fwd }
  | .flog h t rm d a => some { word 0x143 h with w := t.code, rm := rm.code, d := d.code, a := a.r.code, pa := a.trapEmpty, x := bx 15 a.fwd }
  | .flog2 h t rm d a => some { word 0x144 h with w := t.code, rm := rm.code, d := d.code, a := a.r.code, pa := a.trapEmpty, x := bx 15 a.fwd }
  | .flog1p h t rm d a => some { word 0x145 h with w := t.code, rm := rm.code, d := d.code, a := a.r.code, pa := a.trapEmpty, x := bx 15 a.fwd }
  | .ferf h t rm d a => some { word 0x146 h with w := t.code, rm := rm.code, d := d.code, a := a.r.code, pa := a.trapEmpty, x := bx 15 a.fwd }
  | .ferfc h t rm d a => some { word 0x147 h with w := t.code, rm := rm.code, d := d.code, a := a.r.code, pa := a.trapEmpty, x := bx 15 a.fwd }
  | .frcp h t rm d a => some { word 0x148 h with w := t.code, rm := rm.code, d := d.code, a := a.r.code, pa := a.trapEmpty, x := bx 15 a.fwd }
  | .frsqrt h t rm d a => some { word 0x149 h with w := t.code, rm := rm.code, d := d.code, a := a.r.code, pa := a.trapEmpty, x := bx 15 a.fwd }
  | .fcsrget h d => some { word 0x14A h with d := d.code }
  | .fcsrset h d a i => some { word 0x14B h with d := d.code, a := a.r.code, pa := a.trapEmpty, i := i, x := bx 15 a.fwd }
  | .fflagclr h d m => some { word 0x14C h with d := d.code, i := (m).setWidth 32 }
  | .rnd h d => some { word 0x14D h with d := d.code }
  | .rndstate h d => some { word 0x14E h with d := d.code }
  | .rndstateW h d a => some { word 0x14E h with d := d.code, a := a.r.code, pa := a.trapEmpty, x := bx 0 true ||| bx 15 a.fwd }
  | .mzero h q => some { word 0x180 h with d := accCode q }
  | .mdot h ia ib q m n => some { word 0x181 h with d := accCode q, a := m.code, pa := m.policy, b := n.code, pb := n.policy, x := bx 0 ia ||| bx 1 ib ||| bx 15 m.fwd ||| bx 14 n.fwd }
  | .mrd h col d q n => some { word 0x182 h with d := pairCode d, a := accCode q, x := bx 0 col, i := (n).setWidth 32 }
  | .mwr h col q d pe n => some { word 0x183 h with d := accCode q, a := pairCode d, pa := pe, x := bx 0 col, i := (n).setWidth 32 }
  | .madd h rm q r => some { word 0x184 h with rm := rm.code, d := accCode q, a := accCode r }
  | .mscl h rm q a => some { word 0x185 h with rm := rm.code, d := accCode q, a := a.r.code, pa := a.trapEmpty, x := bx 15 a.fwd }
  | .mstat h d => some { word 0x186 h with d := d.code }
  | .ld h t pol d a i => some { word 0x1C0 h with w := t.code, d := d.code, a := a.r.code, pa := a.trapEmpty, i := i, x := polX pol }
  | .st h t pol a b i => some { word 0x1C1 h with w := t.code, a := a.r.code, pa := a.trapEmpty, b := b.r.code, pb := b.trapEmpty, i := i, x := polX pol ||| bx 14 b.fwd }
  | .ldx h t pol d a b => some { word 0x1C2 h with w := t.code, d := d.code, a := a.r.code, pa := a.trapEmpty, b := b.r.code, pb := b.trapEmpty, x := polX pol }
  | .stx h t pol d a b => some { word 0x1C3 h with w := t.code, d := d.code, a := a.r.code, pa := a.trapEmpty, b := b.r.code, pb := b.trapEmpty, x := polX pol }
  | .ldc h pol d a i => some { word 0x1C4 h with d := d.code, a := a.r.code, pa := a.trapEmpty, i := i, x := polX pol }
  | .stc h pol a b i => some { word 0x1C5 h with a := a.r.code, pa := a.trapEmpty, b := b.r.code, pb := b.trapEmpty, i := i, x := polX pol ||| bx 14 b.fwd }
  | .lde h d a i => some { word 0x1C6 h with w := 3, d := d.code, a := a.r.code, pa := a.trapEmpty, i := i }
  | .ldf h d a i => some { word 0x1C7 h with w := 3, d := d.code, a := a.r.code, pa := a.trapEmpty, i := i }
  | .stf h a b i => some { word 0x1C8 h with w := 3, a := a.r.code, pa := a.trapEmpty, b := b.r.code, pb := b.trapEmpty, i := i, x := bx 14 b.fwd }
  | .feset h full a i => some { word 0x1C9 h with a := a.r.code, pa := a.trapEmpty, i := i, x := bx 0 full }
  | .amo h t fn d a b i => some { word 0x1CA h with w := t.code, d := d.code, a := a.r.code, pa := a.trapEmpty, b := b.r.code, pb := b.trapEmpty, i := i, x := bx 14 b.fwd ||| nx 0 fn.code }
  | .cas h t d a b i => some { word 0x1CB h with w := t.code, d := d.code, a := a.r.code, pa := a.trapEmpty, b := b.r.code, pb := b.trapEmpty, i := i, x := bx 14 b.fwd }
  | .pref h a i => some { word 0x1CC h with a := a.r.code, pa := a.trapEmpty, i := i }
  | .linewb h a i => some { word 0x1CD h with a := a.r.code, pa := a.trapEmpty, i := i }
  | .lineinv h a i => some { word 0x1CE h with a := a.r.code, pa := a.trapEmpty, i := i }
  | .fence h sc k => some { word 0x200 h with x := nx 2 sc.code ||| nx 0 k.code }
  | .tmget h d => some { word 0x201 h with d := d.code }
  | .tmclr h => some (word 0x202 h)
  | .fenceh h sc k a => some { word 0x203 h with a := a.r.code, pa := a.trapEmpty, x := bx 15 a.fwd ||| nx 2 sc.code ||| nx 0 k.code }
  | .strm h out d a b => some { word 0x240 h with d := d.code, a := a.r.code, pa := a.trapEmpty, b := b.r.code, pb := b.trapEmpty, x := bx 0 out }
  | .strmend h d => some { word 0x241 h with d := d.code }
  | .strmq h d a => some { word 0x242 h with d := d.code, a := a.code }
  | .copy h ex d a b => some { word 0x243 h with d := d.code, a := a.r.code, pa := a.trapEmpty, b := b.r.code, pb := b.trapEmpty, x := bx 12 ex }
  | .copyc h rm sat ex sf tf d a b => some { word 0x244 h with rm := rm.code, d := d.code, a := a.r.code, pa := a.trapEmpty, b := b.r.code, pb := b.trapEmpty, x := bx 12 ex ||| bx 8 sat ||| nx 4 sf.code ||| nx 0 tf.code }
  | .gather h t ex d a b => some { word 0x245 h with w := t.code, d := pairCode d, a := a.r.code, pa := a.trapEmpty, b := b.r.code, pb := b.trapEmpty, x := bx 12 ex }
  | .scatter h t ex d a b => some { word 0x246 h with w := t.code, d := pairCode d, a := a.r.code, pa := a.trapEmpty, b := b.r.code, pb := b.trapEmpty, x := bx 12 ex }
  | .txbinit h a n => some { word 0x247 h with a := a.r.code, pa := a.trapEmpty, i := (n).setWidth 32 }
  | .txbarr h d a => some { word 0x248 h with d := d.code, a := a.r.code, pa := a.trapEmpty }
  | .txbexp h a i => some { word 0x249 h with a := a.r.code, pa := a.trapEmpty, i := i }
  | .txbwait h d a b => some { word 0x24A h with d := d.code, a := a.r.code, pa := a.trapEmpty, b := b.r.code, pb := b.trapEmpty }
  | .txbtest h p a b => some { word 0x24B h with d := predCode p, a := a.r.code, pa := a.trapEmpty, b := b.r.code, pb := b.trapEmpty }
  | .send h rt a b => some { word 0x280 h with a := a.r.code, pa := a.trapEmpty, b := b.r.code, pb := b.trapEmpty, x := bx 14 b.fwd ||| routeX rt }
  | .sendi h rt a i => some { word 0x281 h with a := a.r.code, pa := a.trapEmpty, i := i, x := routeX rt }
  | .inpop h d => some { word 0x282 h with d := d.code }
  | .inpeek h d => some { word 0x283 h with d := d.code }
  | .rtlat h d => some { word 0x284 h with d := d.code }
  | .rtload h a => some { word 0x285 h with a := a.r.code, pa := a.trapEmpty }
  | .linkclr h d m => some { word 0x286 h with d := d.code, i := (m).setWidth 32 }
  | .osend h u d a b => some { word 0x287 h with d := d.code, a := a.r.code, pa := a.trapEmpty, b := b.r.code, pb := b.trapEmpty, x := bx 0 u }
  | .oslot h d => some { word 0x288 h with d := d.code }
  | .ofence h => some (word 0x289 h)
  | .pause h => some (word 0x2C0 h)
  | .emit h rel s => some { word 0x2C1 h with x := bx 0 rel, i := (s).setWidth 32 }
  | .present h p s => some { word 0x2C2 h with d := predCode p, i := (s).setWidth 32 }
  | .prev h p s => some { word 0x2C3 h with d := predCode p, i := (s).setWidth 32 }
  | .watch h k s i => some { word 0x2C4 h with i := i, x := nx 0 k.code ||| vx 4 s }
  | .unwatch h => some (word 0x2C5 h)
  | .canemit h d a => some { word 0x2C6 h with d := d.code, a := a.r.code, pa := a.trapEmpty, x := bx 15 a.fwd }
  | .disclaim h a => some { word 0x2C7 h with a := a.r.code, pa := a.trapEmpty, x := bx 15 a.fwd }
  | .instant h d => some { word 0x2C8 h with d := d.code }
  | .rbar h => some (word 0x2C9 h)
  | .rexcuseOn h d => some { word 0x2CA h with d := d.code, x := bx 0 true }
  | .rexcuseOff h d => some { word 0x2CA h with d := d.code }
  | .await h s => some { word 0x2CB h with i := (s).setWidth 32 }
  | .fork h p a b i => some { word 0x300 h with d := predCode p, a := a.r.code, pa := a.trapEmpty, b := b.r.code, pb := b.trapEmpty, i := i }
  | .join h => some (word 0x301 h)
  | .yield h => some (word 0x302 h)
  | .halt h none => some (word 0x303 h)
  | .halt h (some g) => some { word 0x303 h with x := bx 0 true, i := (g).setWidth 32 }
  | .launch h d a => some { word 0x304 h with d := d.code, a := a.r.code, pa := a.trapEmpty }
  | .trigger h => some (word 0x305 h)
  | .who h d f => some { word 0x306 h with d := d.code, i := (f).setWidth 32 }
  | .lwait h d a => some { word 0x307 h with d := d.code, a := a.r.code, pa := a.trapEmpty }
  | .gbar h => some (word 0x308 h)
  | .pinit h d a b => some { word 0x340 h with d := d.code, a := a.r.code, pa := a.trapEmpty, b := b.r.code, pb := b.trapEmpty }
  | .pput h a b => some { word 0x341 h with a := a.r.code, pa := a.trapEmpty, b := b.r.code, pb := b.trapEmpty, x := bx 14 b.fwd }
  | .ptakeWait h p d a => some { word 0x342 h with d := pairCode d, a := a.r.code, pa := a.trapEmpty, x := nx 3 p.val ||| nx 0 0 }
  | .ptakeTry h p d a => some { word 0x342 h with d := pairCode d, a := a.r.code, pa := a.trapEmpty, x := nx 3 p.val ||| nx 0 1 }
  | .ptakeX h p d a => some { word 0x342 h with d := pairCode d, a := a.r.code, pa := a.trapEmpty, x := nx 3 p.val ||| nx 0 2 }
  | .pbound h d a => some { word 0x343 h with d := d.code, a := a.r.code, pa := a.trapEmpty }
  | .psize h d a => some { word 0x344 h with d := d.code, a := a.r.code, pa := a.trapEmpty }
  | .pfree h d a => some { word 0x345 h with d := d.code, a := a.r.code, pa := a.trapEmpty }
  | .psync h a => some { word 0x346 h with a := a.r.code, pa := a.trapEmpty }
  | .trap h c a => some { word 0x380 h with a := a.r.code, pa := a.trapEmpty, i := (c).setWidth 32 }
  | .eret h sk => some { word 0x381 h with x := bx 0 sk }
  | .csrget h d n => some { word 0x382 h with d := d.code, i := (n).setWidth 32 }
  | .csrset h d a n => some { word 0x383 h with d := d.code, a := a.r.code, pa := a.trapEmpty, i := (n).setWidth 32 }
  | .brk h n => some { word 0x384 h with i := (n).setWidth 32 }
  | .ckpt h d => some { word 0x385 h with d := d.code }
  | .tlbinvAll h => some { word 0x386 h with x := bx 0 true }
  | .tlbinvPage h a => some { word 0x386 h with a := a.r.code, pa := a.trapEmpty }
  | .ctxsave h d a => some { word 0x387 h with d := d.code, a := a.r.code, pa := a.trapEmpty }
  | .ctxload h d a => some { word 0x388 h with d := d.code, a := a.r.code, pa := a.trapEmpty }
  | .notify h d a v => some { word 0x389 h with d := d.code, a := a.r.code, pa := a.trapEmpty, i := (v).setWidth 32 }
  | .mboxWrite h d a => some { word 0x383 h with d := d.code, a := a.r.code, pa := a.trapEmpty, i := 0x009 }
  | .canrldWrite h d a => some { word 0x383 h with d := d.code, a := a.r.code, pa := a.trapEmpty, i := 0x00C }
  | .watchstWrite h d a => some { word 0x383 h with d := d.code, a := a.r.code, pa := a.trapEmpty, i := 0x004 }
  | .fcsrWrite h d a => some { word 0x383 h with d := d.code, a := a.r.code, pa := a.trapEmpty, i := 0x001 }
  | .cpauseResume h d a => some { word 0x383 h with d := d.code, a := a.r.code, pa := a.trapEmpty, i := 0x107 }
  | .cpauseAbandon h d a => some { word 0x383 h with d := d.code, a := a.r.code, pa := a.trapEmpty, i := 0x107 }
  | .gstatDiscClear h d a => some { word 0x383 h with d := d.code, a := a.r.code, pa := a.trapEmpty, i := 0x100 }
  | .strandWake ..
  | .resultArrival ..
  | .longCommit ..
  | .perform ..
  | .returnValue ..
  | .echo ..
  | .evict ..
  | .syncResend ..
  | .tlbWalkDone ..
  | .linkWordArrival ..
  | .mdotCommit ..
  | .accumulatorCommit ..
  | .copyUnitEnter ..
  | .streamDelivery ..
  | .copyUnitLanding ..
  | .messageArrival ..
  | .messageAck ..
  | .msglost ..
  | .headerResend ..
  | .subnetworkOn ..
  | .subnetworkOff ..
  | .omcWindow ..
  | .relayAck ..
  | .waveSample ..
  | .waveRelease ..
  | .exactTakeService ..
  | .groupSaveOut ..
  | .launchQueue ..
  | .priorityAgeing ..
  | .groupPlacement ..
  | .taskStart ..
  | .stealRequest ..
  | .stealReply ..
  | .joinStoreReturn ..
  | .joinDeadlock ..
  | .watchdog ..
  | .groupRetire ..
  | .dependentLaunchRelease ..
  | .launchCancel ..
  | .rotationInterval ..
  | .swap ..
  | .done ..
  | .skip ..
  | .poolExchangeRound ..
  | .poolSummaryArrival ..
  | .forwardedTakeArrival ..
  | .takeReplyArrival ..
  | .leaseAck ..
  | .stopRequest ..
  | .stopDeadline ..
  | .groupResume ..
  | .errorDetected ..
  | .debugHalt ..
  | .freeze ..
  | .freezeRelease ..
  | .recoveryPoint ..
  | .drainPoint ..
  | .rollback ..
  | .regionDrain ..
  | .governorStep ..
  | .powerCheck
  | .floorLower
  | .droopAlarm ..
  | .throttleEnd ..
  | .powerGood
  | .stage1
  | .regionJoin ..
  | .stage3
  | .spdmMeasurement ..
  | .hostRead ..
  | .hostWrite ..
  | .dmaAccess ..
  | .notifyTake ..
  | .ndbgLoad ..
  | .break_ ..
  | .istop ..
  | .run ..
  | .cont
  | .regs ..
  | .csr ..
  | .tree
  | .group ..
  | .mem ..
  | .memf ..
  | .ptrace
  | .ptracePrint ..
  | .rounds ..
  | .dmem ..
  | .wavetrace
  | .streams ..
  | .streamsPrint
  | .regions
  | .rbarPrint ..
  | .where_
  | .acc ..
  | .accmatch ..
  | .ndas ..
  | .ndld ..
  | .managementMessage ..
  | .tenantRectangle ..
  | .hotPlug ..
  | .aerError ..
  | .descriptorCopied ..
  | .portCopyDone .. => none

end Sys2Proof
end

