-- ==== Sys2Proof/Machine/Num.lean ====
section
/-! DEFINITION. Number formats, rounding and conversion, exactly and over the rationals (04 R90 to R106), and the
floating-point lane operations (06 R149 to R161). -/

namespace Sys2Proof.Machine

/-! ### Rationals -/

/-- An exact rational: num / den, den positive. -/
structure Q where
  num : Int
  den : Nat
  deriving DecidableEq, Repr

/-- An integer. -/
def Q.ofInt (n : Int) : Q := ⟨n, 1⟩
/-- 2 to a power. -/
def Q.pow2 (k : Int) : Q := match k with
  | .ofNat n => ⟨2 ^ n, 1⟩
  | .negSucc n => ⟨1, 2 ^ (n + 1)⟩
/-- Sum. -/
def Q.add (a b : Q) : Q := ⟨a.num * b.den + b.num * a.den, a.den * b.den⟩
/-- Product. -/
def Q.mul (a b : Q) : Q := ⟨a.num * b.num, a.den * b.den⟩
/-- Negation. -/
def Q.neg (a : Q) : Q := ⟨-a.num, a.den⟩
/-- Quotient by a value that is not zero. -/
def Q.div (a b : Q) : Q := ⟨a.num * b.den * b.num.sign, a.den * b.num.natAbs⟩
/-- Magnitude. -/
def Q.abs (a : Q) : Q := ⟨a.num.natAbs, a.den⟩
/-- Less. -/
def Q.lt (a b : Q) : Bool := a.num * b.den < b.num * a.den
/-- Less or equal. -/
def Q.le (a b : Q) : Bool := a.num * b.den ≤ b.num * a.den
/-- Equal as numbers. -/
def Q.eq (a b : Q) : Bool := a.num * b.den == b.num * a.den
/-- Is it zero? -/
def Q.isZero (a : Q) : Bool := a.num == 0
/-- Greatest integer at most. -/
def Q.floor (a : Q) : Int := a.num / a.den
/-- The power of two at or below a positive value. -/
def Q.log2 (a : Q) : Int :=
  let n := a.num.natAbs
  let k : Int := (n.log2 : Int) - (a.den.log2 : Int)
  if (Q.pow2 k).le ⟨n, a.den⟩ then k else k - 1

/-! ### Formats (R90, R92) -/

/-- A binary format: fraction bits, bias, and the code of its largest finite value without the sign. -/
structure BFormat where
  frac : Nat
  bias : Nat
  width : Nat
  maxCode : Nat
  deriving DecidableEq, Repr

/-- FP64. -/
def f64 : BFormat := ⟨52, 1023, 64, 0x7FEFFFFFFFFFFFFF⟩
/-- FP32. -/
def f32 : BFormat := ⟨23, 127, 32, 0x7F7FFFFF⟩
/-- BF16. -/
def bf16 : BFormat := ⟨7, 127, 16, 0x7F7F⟩
/-- E4M3. -/
def e4m3 : BFormat := ⟨3, 7, 8, 0x7E⟩

end Sys2Proof.Machine

namespace Sys2Proof
open Machine

/-- The format of a floating-point type (R39). -/
def FTy.fmt : FTy → BFormat
  | .f64 => Machine.f64 | .f32 => Machine.f32 | .bf16 => Machine.bf16
/-- The lanes of a floating-point type. -/
def FTy.lanes : FTy → Nat
  | .f64 => 2 | .f32 => 4 | .bf16 => 8

end Sys2Proof

namespace Sys2Proof.Machine

/-- Exponent of the least step of a format. -/
def BFormat.least (f : BFormat) : Int := 1 - (f.bias : Int) - f.frac
/-- The code of infinity in a format that has one. -/
def BFormat.inf (f : BFormat) : Nat := f.maxCode + 1
/-- The sign bit as a number. -/
def BFormat.sgn (f : BFormat) (neg : Bool) : Nat := if neg then 2 ^ (f.width - 1) else 0
/-- The default NaN (R150). -/
def BFormat.defNan (f : BFormat) : Nat := f.inf + 2 ^ (f.frac - 1)
/-- The value of a code without sign. -/
def BFormat.mag (f : BFormat) (c : Nat) : Q :=
  let e := c / 2 ^ f.frac
  let m := c % 2 ^ f.frac
  if e = 0 then (Q.ofInt m).mul (Q.pow2 f.least)
  else (Q.ofInt (m + 2 ^ f.frac : Nat)).mul (Q.pow2 (f.least + e - 1))

/-- A decoded value: NaN with its sign and its fraction bits at the top of 52, infinity, or a finite number; a zero
keeps its sign. -/
inductive FVal where
  | nan (neg : Bool) (frac : Nat)
  | inf (neg : Bool)
  | fin (neg : Bool) (mag : Q)
  deriving DecidableEq, Repr

/-- Is it NaN? -/
def FVal.isNan : FVal → Bool | .nan _ _ => true | _ => false
/-- Is it a signalling NaN (R90)? -/
def FVal.isSig : FVal → Bool | .nan _ fr => fr / 2 ^ 51 % 2 == 0 | _ => false
/-- The signed value of a finite number. -/
def FVal.q : FVal → Q
  | .fin neg m => if neg then m.neg else m
  | _ => Q.ofInt 0
/-- The sign bit. -/
def FVal.neg : FVal → Bool | .nan n _ => n | .inf n => n | .fin n _ => n
/-- Is it a zero? -/
def FVal.isZero : FVal → Bool | .fin _ m => m.isZero | _ => false
/-- Is it an infinity? -/
def FVal.isInf : FVal → Bool | .inf _ => true | _ => false
/-- A rational as a finite value. -/
def FVal.ofQ (q : Q) : FVal := .fin (decide (q.num < 0)) q.abs

/-- Decode a code of a binary interchange format (R90). -/
def BFormat.decode (f : BFormat) (c : Nat) : FVal :=
  let neg := c / 2 ^ (f.width - 1) % 2 == 1
  let m := c % 2 ^ (f.width - 1)
  if m < f.inf then .fin neg (f.mag m)
  else if m = f.inf then .inf neg
  else .nan neg (m % 2 ^ f.frac * 2 ^ (52 - f.frac))

/-- Decode E4M3 (R92). -/
def decodeE4M3 (c : Nat) : FVal :=
  let neg := c / 128 % 2 == 1
  if c % 128 = 127 then .nan neg (2 ^ 51) else .fin neg (e4m3.mag (c % 128))

/-- T[f] of R96, exactly. -/
def lnsT (f : Nat) : Q :=
  f32.mag (match f with | 0 => 0x3F800000 | 1 => 0x3F9837F0 | 2 => 0x3FB504F3 | _ => 0x3FD744FD)
/-- T[f] * 2^i for e = 16 + 4i + f, any integer e (R95). -/
def lnsMag (e : Int) : Q :=
  let f := (e - 16) % 4
  (lnsT f.toNat).mul (Q.pow2 ((e - 16 - f) / 4))
/-- Decode LNS6 (R95). -/
def decodeLNS6 (c : Nat) : FVal :=
  if c % 64 = 0x20 then .fin false (Q.ofInt 0) else .fin (c / 32 % 2 == 1) (lnsMag (c % 32 : Nat))
/-- Decode HS4 (R94). -/
def decodeHS4 (c : Nat) : FVal := .ofQ ⟨2 * (BitVec.ofNat 4 c).toInt + 1, 2⟩
/-- Decode a two's complement integer. -/
def decodeInt (w c : Nat) : FVal := .ofQ (Q.ofInt (BitVec.ofNat w c).toInt)

/-! ### Rounding (R101, R102) -/

/-- Flags as FCSR [4:0]. -/
abbrev Flags := Nat
def NV : Flags := 16
def DZ : Flags := 8
def OF : Flags := 4
def UF : Flags := 2
def NX : Flags := 1
/-- Union of flags. -/
def orf (a b : Flags) : Flags := Nat.lor a b

/-- Round a magnitude n / d to an integer for a sign and a mode, and whether it differs. -/
def roundNat (mode : RMode) (neg : Bool) (n d : Nat) : Nat × Bool :=
  let q := n / d
  let r := n % d
  let up := match mode with
    | .rtz => false
    | .rdn => neg && r != 0
    | .rup => !neg && r != 0
    | .rna => d ≤ 2 * r
    | .rne | .dyn => d < 2 * r || (2 * r == d && q % 2 == 1)
  (if up then q + 1 else q, r != 0)

/-- Does the mode send overflow to infinity for a sign (R104)? -/
def overInf (mode : RMode) (neg : Bool) : Bool :=
  match mode with
  | .rne | .rna | .dyn => true
  | .rtz => false
  | .rdn => neg
  | .rup => !neg

/-- The code without sign, above the largest finite code when out of range, and whether it differs: candidates are
the format's values with its exponent unbounded above. -/
def BFormat.round (f : BFormat) (mode : RMode) (neg : Bool) (v : Q) : Nat × Bool :=
  if v.isZero then (0, false)
  else
    let e := max (v.log2 - f.frac) f.least
    let s := v.mul (Q.pow2 (-e))
    let r := roundNat mode neg s.num.natAbs s.den
    (r.1 + ((e - f.least).toNat) * 2 ^ f.frac, r.2)

/-- Round an exact magnitude into a binary interchange format with its overflow result (R102, R104 without SAT).
`inexact` says that the value is known to lie off every candidate. -/
def BFormat.put (f : BFormat) (mode : RMode) (neg : Bool) (v : Q) (inexact : Bool := false) : Nat × Flags :=
  let r := f.round mode neg v
  let nx := r.2 || inexact
  if f.maxCode < r.1 then
    (f.sgn neg + (if overInf mode neg then f.inf else f.maxCode), orf OF NX)
  else
    (f.sgn neg + r.1, if nx then (if r.1 < 2 ^ f.frac then orf UF NX else NX) else 0)

/-- The level n of HS4 that stands for n + 0.5 (R101), with the sign bit of the value, and whether it differs. -/
def roundHS4 (mode : RMode) (neg : Bool) (v : Q) : Int × Bool :=
  let t := v.add ⟨-1, 2⟩
  let lo := t.floor
  let exact := (Q.ofInt lo).eq t
  if exact then (lo, false)
  else
    let d := t.add (Q.ofInt (-lo))        -- in (0, 1)
    let tie := d.eq ⟨1, 2⟩
    let near := if d.lt ⟨1, 2⟩ then lo else lo + 1
    let big := if neg then lo else lo + 1
    let n := match mode with
      | .rne | .dyn => if tie then (if lo % 2 = 0 then lo else lo + 1) else near
      | .rna => if tie then big else near
      | .rtz => if v.abs.lt ⟨1, 2⟩ then (if neg then -1 else 0) else if neg then lo + 1 else lo
      | .rdn => lo
      | .rup => lo + 1
    (n, true)

/-- The e of the greatest LNS6 magnitude at most v, among those of its sign; none stands for zero (R101). -/
def lnsBelow (least : Int) (v : Q) : Option Int :=
  if v.lt (lnsMag least) then none
  else
    let k := 16 + 4 * v.log2
    some (if (lnsMag (k + 3)).le v then k + 3 else if (lnsMag (k + 2)).le v then k + 2
          else if (lnsMag (k + 1)).le v then k + 1 else k)

/-- Round a magnitude to LNS6 (R101): the e chosen, none for zero, and whether it differs. -/
def roundLNS6 (mode : RMode) (neg : Bool) (v : Q) : Option Int × Bool :=
  if v.isZero then (none, false)
  else
    let least : Int := if neg then 1 else 0
    let lo := lnsBelow least v
    let loQ := (lo.map lnsMag).getD (Q.ofInt 0)
    let hi : Int := (lo.map (· + 1)).getD least
    if loQ.eq v then (lo, false)
    else
      let dl := v.add loQ.neg
      let dh := (lnsMag hi).add v.neg
      let pick := match mode with
        | .rtz => lo
        | .rdn => if neg then some hi else lo
        | .rup => if neg then lo else some hi
        | .rna => if dl.lt dh then lo else some hi
        | .rne | .dyn =>
          if dl.lt dh then lo
          else if dh.lt dl then some hi
          else match lo with
            | none => none
            | some e => if e % 2 = 0 then lo else some hi
      (pick, true)

/-- NaN in a binary format (R105): sign, the fraction bits that fit, quiet. -/
def BFormat.nan (f : BFormat) (neg : Bool) (fr : Nat) : Nat :=
  f.sgn neg + f.inf + Nat.lor (fr / 2 ^ (52 - f.frac)) (2 ^ (f.frac - 1))

/-- Convert a value into a binary interchange format (R104). -/
def convBin (f : BFormat) (mode : RMode) (sat : Bool) (x : FVal) : Nat × Flags :=
  match x with
  | .nan neg fr => (f.nan neg fr, if x.isSig then NV else 0)
  | .inf neg => if sat then (f.sgn neg + f.maxCode, NX) else (f.sgn neg + f.inf, 0)
  | .fin neg v =>
    let r := f.round mode neg v
    if sat && f.maxCode < r.1 then (f.sgn neg + f.maxCode, NX) else f.put mode neg v

/-- Convert a value into E4M3 (R104, R105). -/
def convE4M3 (mode : RMode) (sat : Bool) (x : FVal) : Nat × Flags :=
  match x with
  | .nan neg _ => (e4m3.sgn neg + 0x7F, if x.isSig then NV else 0)
  | .inf neg => if sat then (e4m3.sgn neg + 0x7E, NX) else (e4m3.sgn neg + 0x7F, NV)
  | .fin neg v =>
    let r := e4m3.round mode neg v
    if e4m3.maxCode < r.1 then
      (if sat then (e4m3.sgn neg + 0x7E, NX)
       else (e4m3.sgn neg + (if overInf mode neg then 0x7F else 0x7E), orf OF NX))
    else (e4m3.sgn neg + r.1, if r.2 then (if r.1 < 8 then orf UF NX else NX) else 0)

/-- Convert a value into an integer lane of w bits (R104). -/
def convInt (w : Nat) (signed : Bool) (mode : RMode) (sat : Bool) (x : FVal) : Nat × Flags :=
  let lo : Int := if signed then -(2 ^ (w - 1) : Nat) else 0
  let hi : Int := if signed then (2 ^ (w - 1) : Nat) - 1 else (2 ^ w : Nat) - 1
  let code (n : Int) : Nat := (BitVec.ofInt w n).toNat
  let outOf (neg : Bool) : Nat × Flags := (code (if neg then lo else hi), if sat then NX else orf OF NX)
  match x with
  | .nan _ _ => (0, NV)
  | .inf neg => outOf neg
  | .fin neg v =>
    let r := roundNat mode neg v.num.natAbs v.den
    let n : Int := if neg then -(r.1 : Int) else r.1
    if n < lo || hi < n then outOf neg else (code n, if r.2 then NX else 0)

/-- Convert a value into HS4 (R104). -/
def convHS4 (mode : RMode) (sat : Bool) (x : FVal) : Nat × Flags :=
  let outOf (neg : Bool) : Nat × Flags := (if neg then 8 else 7, if sat then NX else orf OF NX)
  match x with
  | .nan _ _ => (0, NV)
  | .inf neg => outOf neg
  | .fin neg _ =>
    let r := roundHS4 mode neg x.q
    if r.1 < -8 then outOf true else if 7 < r.1 then outOf false
    else ((BitVec.ofInt 4 r.1).toNat, if r.2 then NX else 0)

/-- Convert a value into LNS6 (R104). -/
def convLNS6 (mode : RMode) (sat : Bool) (x : FVal) : Nat × Flags :=
  let sg (neg : Bool) : Nat := if neg then 32 else 0
  let outOf (neg : Bool) : Nat × Flags := (sg neg + 31, if sat then NX else orf OF NX)
  match x with
  | .nan _ _ => (0x20, NV)
  | .inf neg => outOf neg
  | .fin neg v =>
    let r := roundLNS6 mode neg v
    match r.1 with
    | none => (0x20, if r.2 then orf UF NX else 0)
    | some e => if 31 < e then outOf neg else (sg neg + e.toNat, if r.2 then NX else 0)

/-! ### CVT's formats (R97, R108) -/

end Sys2Proof.Machine

namespace Sys2Proof
open Machine

/-- Bits of a lane (R97). -/
def Fmt.lane : Fmt → Nat
  | .f64 => 64 | .f32 => 32 | .bf16 => 16 | .e4m3 | .int8 | .lns6 => 8 | .hs4 => 4
/-- Decode a lane. -/
def Fmt.decode (f : Fmt) (c : Nat) : FVal :=
  match f with
  | .f64 => Machine.f64.decode c | .f32 => Machine.f32.decode c | .bf16 => Machine.bf16.decode c
  | .e4m3 => decodeE4M3 c | .int8 => decodeInt 8 c | .hs4 => decodeHS4 c | .lns6 => decodeLNS6 c
/-- Conv of R104. -/
def Fmt.conv (f : Fmt) (mode : RMode) (sat : Bool) (x : FVal) : Nat × Flags :=
  match f with
  | .f64 => convBin Machine.f64 mode sat x | .f32 => convBin Machine.f32 mode sat x
  | .bf16 => convBin Machine.bf16 mode sat x | .e4m3 => convE4M3 mode sat x
  | .int8 => convInt 8 true mode sat x | .hs4 => convHS4 mode sat x | .lns6 => convLNS6 mode sat x

end Sys2Proof

namespace Sys2Proof.Machine

/-! ### Blocks (R98 to R100) -/

end Sys2Proof.Machine

namespace Sys2Proof
open Machine

/-- A block format as a CVT format. -/
def BFmt.fmt : BFmt → Fmt
  | .fp32 => .f32 | .bf16 => .bf16 | .e4m3 => .e4m3 | .int8 => .int8 | .hs4 => .hs4 | .lns6 => .lns6
/-- Bits of an element (R99). -/
def BFmt.bits : BFmt → Nat
  | .fp32 => 32 | .bf16 => 16 | .e4m3 | .int8 => 8 | .hs4 => 4 | .lns6 => 6
/-- Elements of a block (R99). -/
def BFmt.count (f : BFmt) : Nat := 480 / f.bits
end Sys2Proof

namespace Sys2Proof.Machine

/-- The format of an FMT code. -/
def bfmtOf : Nat → Option BFmt
  | 1 => some .fp32 | 2 => some .bf16 | 3 => some .e4m3 | 4 => some .int8 | 5 => some .hs4 | 6 => some .lns6
  | _ => none

/-- A header as checked by R100. -/
inductive Header where
  | bad (detail : Nat)
  | empty
  | ok (f : BFmt) (scale : Q)
  deriving DecidableEq, Repr

/-- Is a BF16 code positive and finite? -/
def scaleOk (c : Nat) : Bool := 0 < c && c ≤ 0x7F7F

/-- Check a header (R100). -/
def header (h : Nat) : Header :=
  if h / 512 % 128 != 0 then .bad 0x02
  else if h / 256 % 2 = 0 then .empty
  else
    match bfmtOf (h % 256) with
    | none => .bad 0x01
    | some f => if scaleOk (h / 65536) then .ok f (bf16.mag (h / 65536)) else .bad 0x04

/-- The header of a format and a BF16 scale code. -/
def mkHeader (f : BFmt) (scale : Nat) : Nat := scale * 65536 + 256 + f.code

end Sys2Proof.Machine

namespace Sys2Proof
open Machine

/-- Element i of a block as a number of its 512 bits (R99). -/
def BFmt.element (f : BFmt) (block i : Nat) : Nat := block / 2 ^ (32 + f.bits * i) % 2 ^ f.bits
/-- A block with element i replaced. -/
def BFmt.setElement (f : BFmt) (block i v : Nat) : Nat :=
  block - f.element block i * 2 ^ (32 + f.bits * i) + v % 2 ^ f.bits * 2 ^ (32 + f.bits * i)
/-- The decoded element. -/
def BFmt.value (f : BFmt) (block i : Nat) : FVal := f.fmt.decode (f.element block i)

end Sys2Proof

namespace Sys2Proof.Machine

/-- A value times a positive rational. -/
def FVal.scale (x : FVal) (s : Q) : FVal :=
  match x with
  | .fin neg m => .fin neg (m.mul s)
  | y => y

/-! ### Floating-point lane operations (R150 to R161) -/

/-- The quieted first NaN of a list, in order (R150). -/
def BFormat.firstNan (f : BFormat) (l : List FVal) : Option Nat :=
  l.findSome? (fun x => match x with | .nan neg fr => some (f.nan neg fr) | _ => none)
/-- NV for a signalling operand. -/
def sigFlag (l : List FVal) : Flags := if l.any FVal.isSig then NV else 0

/-- A result with the NaN rule first (R150): the NaN among the operands, or the operation's own result. -/
def BFormat.withNan (f : BFormat) (ops : List FVal) (r : Nat × Flags) : Nat × Flags :=
  match f.firstNan ops with
  | some c => (c, sigFlag ops)
  | none => r

/-- Rounding of a signed exact value that is not zero, or a zero with a given sign. -/
def BFormat.putQ (f : BFormat) (mode : RMode) (v : Q) (zeroNeg : Bool) : Nat × Flags :=
  if v.isZero then (f.sgn zeroNeg, 0) else f.put mode (decide (v.num < 0)) v.abs

/-- The sum of two values that are not NaN (R151, R153). -/
def BFormat.sum (f : BFormat) (mode : RMode) (a b : FVal) : Nat × Flags :=
  match a, b with
  | .inf x, .inf y => if x = y then (f.sgn x + f.inf, 0) else (f.defNan, NV)
  | .inf x, _ => (f.sgn x + f.inf, 0)
  | _, .inf y => (f.sgn y + f.inf, 0)
  | _, _ =>
    let zn := if a.isZero && b.isZero && a.neg == b.neg then a.neg else mode == .rdn
    f.putQ mode (a.q.add b.q) zn

/-- The same value with the other sign. -/
def FVal.flip : FVal → FVal
  | .nan n fr => .nan n fr
  | .inf n => .inf (!n)
  | .fin n m => .fin (!n) m

/-- FADD (R153). -/
def BFormat.fadd (f : BFormat) (mode : RMode) (a b : Nat) : Nat × Flags :=
  let x := f.decode a
  let y := f.decode b
  f.withNan [x, y] (f.sum mode x y)
/-- FSUB. -/
def BFormat.fsub (f : BFormat) (mode : RMode) (a b : Nat) : Nat × Flags :=
  let x := f.decode a
  let y := f.decode b
  f.withNan [x, y] (f.sum mode x y.flip)
/-- The exact product of two values that are not NaN; none when invalid. -/
def FVal.prod (a b : FVal) : Option FVal :=
  let s := a.neg != b.neg
  match a, b with
  | .fin _ x, .fin _ y => some (.fin s (x.mul y))
  | _, _ => if a.isZero || b.isZero then none else some (.inf s)
/-- FMUL. -/
def BFormat.fmul (f : BFormat) (mode : RMode) (a b : Nat) : Nat × Flags :=
  let x := f.decode a
  let y := f.decode b
  f.withNan [x, y] (match x.prod y with
    | none => (f.defNan, NV)
    | some (.fin s m) => f.putQ mode (if s then m.neg else m) s
    | some z => (f.sgn z.neg + f.inf, 0))
/-- FDIV. -/
def BFormat.fdiv (f : BFormat) (mode : RMode) (a b : Nat) : Nat × Flags :=
  let x := f.decode a
  let y := f.decode b
  let s := x.neg != y.neg
  f.withNan [x, y] (match x, y with
    | .inf _, .inf _ => (f.defNan, NV)
    | .inf _, _ => (f.sgn s + f.inf, 0)
    | _, .inf _ => (f.sgn s, 0)
    | _, _ =>
      if y.isZero then (if x.isZero then (f.defNan, NV) else (f.sgn s + f.inf, DZ))
      else f.putQ mode (x.q.div y.q) s)

/-- How a fused multiply-add takes its terms (R154). -/
inductive Fused where | fma | fms | nfma
  deriving DecidableEq, Repr

/-- FFMA, FFMS, FNFMA (R154): one rounding; 0 × inf is invalid whatever d is. -/
def BFormat.fused (f : BFormat) (k : Fused) (mode : RMode) (a b d : Nat) : Nat × Flags :=
  let x := f.decode a
  let y := f.decode b
  let z := f.decode d
  if !x.isNan && !y.isNan && (x.prod y).isNone then (f.defNan, NV)
  else
    f.withNan [x, y, z] (match x.prod y with
      | none => (f.defNan, NV)
      | some p => match k with
        | .fma => f.sum mode z p
        | .fms => f.sum mode z p.flip
        | .nfma => f.sum mode z.flip p.flip)

/-- Integer square root by Newton's steps from above. -/
def isqrtStep (n : Nat) : Nat → Nat → Nat
  | 0, x => x
  | fuel + 1, x => if x = 0 then 0 else
      let y := (x + n / x) / 2
      if x ≤ y then x else isqrtStep n fuel y
/-- The greatest integer whose square is at most n. -/
def isqrt (n : Nat) : Nat := isqrtStep n (2 * n.log2 + 8) (2 ^ (n.log2 / 2 + 1))

/-- The square root of a positive rational to 1,200 places, and whether it is exact there: otherwise a value strictly
between the neighbours at that place. Every midpoint and candidate of the formats is a multiple of 2^-1200. -/
def sqrtQ (v : Q) : Q × Bool :=
  let n := v.num.natAbs * 2 ^ 2400
  let r := isqrt (n / v.den)
  if r * r * v.den = n then (⟨r, 2 ^ 1200⟩, true) else (⟨2 * r + 1, 2 ^ 1201⟩, false)

/-- FSQRT (R153). -/
def BFormat.fsqrt (f : BFormat) (mode : RMode) (a : Nat) : Nat × Flags :=
  let x := f.decode a
  f.withNan [x] (match x with
    | .inf neg => if neg then (f.defNan, NV) else (f.inf, 0)
    | .fin neg v =>
      if v.isZero then (f.sgn neg, 0) else if neg then (f.defNan, NV)
      else let r := sqrtQ v; f.put mode false r.1 (!r.2)
    | .nan _ _ => (a, 0))

/-- Is a before b, with −0 before +0? Neither is NaN. -/
def FVal.before (a b : FVal) : Bool :=
  match a, b with
  | .inf x, .inf y => x && !y
  | .inf x, _ => x
  | _, .inf y => !y
  | _, _ => if a.isZero && b.isZero then a.neg && !b.neg else a.q.lt b.q

/-- FMIN and FMAX (R155). -/
def BFormat.fminmax (f : BFormat) (greater : Bool) (a b : Nat) : Nat × Flags :=
  let x := f.decode a
  let y := f.decode b
  let fl := sigFlag [x, y]
  match x.isNan, y.isNan with
  | true, true => f.withNan [x, y] (a, 0)
  | true, false => (b, fl)
  | false, true => (a, fl)
  | false, false => (if greater then (if x.before y then b else a) else (if y.before x then b else a), fl)

/-- Numeric order of two values that are not NaN, with −0 = +0 (R157). -/
def FVal.less (a b : FVal) : Bool :=
  match a, b with
  | .inf x, .inf y => x && !y
  | .inf x, _ => x
  | _, .inf y => !y
  | _, _ => a.q.lt b.q

/-- One lane of FCMP (R157). -/
def BFormat.fcmp (f : BFormat) (cc : FCond) (a b : Nat) : Bool × Flags :=
  let x := f.decode a
  let y := f.decode b
  let un := x.isNan || y.isNan
  let sig := sigFlag [x, y]
  let any := if un then NV else 0
  match cc with
  | .eq => (!un && !x.less y && !y.less x, sig)
  | .ne => (un || x.less y || y.less x, sig)
  | .lt => (!un && x.less y, any)
  | .le => (!un && !y.less x, any)
  | .gt => (!un && y.less x, any)
  | .ge => (!un && !x.less y, any)
  | .un => (un, sig)
  | .or => (!un, sig)

/-- FCLASS (R158). -/
def BFormat.fclass (f : BFormat) (a : Nat) : Nat :=
  match f.decode a with
  | .nan neg fr => if (FVal.nan neg fr).isSig then 256 else 512
  | .inf neg => if neg then 1 else 128
  | .fin neg m =>
    if m.isZero then (if neg then 8 else 16)
    else if a % 2 ^ (f.width - 1) < 2 ^ f.frac then (if neg then 4 else 32)
    else if neg then 2 else 64

/-- FRINT (R159). -/
def BFormat.frint (f : BFormat) (mode : RMode) (exact : Bool) (a : Nat) : Nat × Flags :=
  match f.decode a with
  | .nan neg fr => (f.nan neg fr, sigFlag [.nan neg fr])
  | .inf _ => (a, 0)
  | .fin neg m =>
    let r := roundNat mode neg m.num.natAbs m.den
    if r.2 then ((f.put .rne neg (Q.ofInt r.1)).1, if exact then NX else 0) else (a, 0)

/-- FSCALE (R160). A power beyond ±5000 gives what ±5000 gives: out of range either way. -/
def BFormat.fscale (f : BFormat) (mode : RMode) (a : Nat) (b : Int) : Nat × Flags :=
  match f.decode a with
  | .nan neg fr => (f.nan neg fr, sigFlag [.nan neg fr])
  | .inf _ => (a, 0)
  | .fin neg m =>
    if m.isZero then (a, 0) else f.put mode neg (m.mul (Q.pow2 (max (-5000) (min 5000 b))))

/-- RoundTo with R150 and R151 for AMO.FADD: round to nearest even, no flags kept (R223). -/
def fadd32 (a b : BitVec 32) : BitVec 32 := BitVec.ofNat 32 (f32.fadd .rne a.toNat b.toNat).1

end Sys2Proof.Machine
end

