-- ==== Sys2Proof/Machine/State.lean ====
section
/-! DEFINITION. The state of the module: every register, mark, queue, memory and table that the manual names, as plain
data, with the reasons a step can stop and the state after reset. -/

namespace Sys2Proof.Machine

/-- Memory: address and byte, addresses strictly rising, no entry equal to what an unlisted address reads as. -/
abbrev Memory := List Host.Cell

/-! ### Registers and traps -/

/-- A register with its state bits (R47, R48, R50, R402). -/
structure RegCell where
  v : Quad := 0
  tag : Bool := false
  full : Bool := true
  stream : Bool := false
  out : Bool := false
  poison : Option Lane := none
  deriving DecidableEq, Repr

/-- A capability held outside the numbered registers (FCAP, RCAP, a handler). -/
structure CapReg where
  v : Quad := 0
  tag : Bool := false
  deriving DecidableEq, Repr

/-- The trap causes (R62). -/
inductive Cause where
  | illegal | priv | captag | capbound | capperm | xlate | align | fpe | empty | syncretry | watchdog | causality
  | undeclared | conflict | msglost | pool | copy | mformat | software | machine | break_ | outside
  deriving DecidableEq, Repr

/-- What a trap reports (R61). -/
structure Trap where
  cause : Cause
  lanes : Nat := 0
  detail : Nat := 0
  val : Lane := 0
  deriving DecidableEq, Repr

/-- The one-entry trap save record (R399). -/
structure TrapSave where
  pc : Lane
  info : Lane
  val : Lane
  rcap : CapReg
  pl : Bool
  deriving DecidableEq, Repr

/-! ### What a strand waits for -/

/-- What a parked strand waits for (R45, R351, R404, and the parks each entry names). -/
inductive Why where
  | operands | walk | absent | sync | check | fence | engineSlot | drain | barrier | messages | inbox | inpeek | rtlat
  | value | portCopy | ofence | signal (s : Sig) (entry : Option (Fin 4)) | rbar | gbar | join | dequeFull | launchCopy
  | lwait | take | put | stage3 | psync | pinit | tlbinv | ctx | notify | commit | rejoin | undoLog | escrow
  | yieldFence      -- a fence inside an instruction that is a yield point wherever it parks (R329, R351)
  | yieldMessages   -- HALT waits for its messages (R351, R366)
  deriving DecidableEq, Repr

/-- Whether a strand runs (R314, R348). A paused strand at an AWAIT keeps its signal (R333). -/
inductive Run where
  | idle
  | ready
  | parked (w : Why)
  | paused (await : Option Sig)
  deriving DecidableEq, Repr

/-- A translation that a strand misses in its tile's TLB: what for, and its place in the order of arrival (R215). -/
structure WalkReq where
  space : Nat
  va : Nat
  rd : Bool := false
  wr : Bool := false
  exec : Bool := false
  num : Nat := 0
  deriving DecidableEq, Repr

/-- A source operand: a register, its policy, whether it forwards, and how many words a port gives. -/
structure Opnd where
  r : Reg
  trapEmpty : Bool := false
  fwd : Bool := false
  words : Nat := 1
  /-- The number of the operand's field, where the register is a member of a pair or quad. -/
  field : Option Nat := none
  /-- A source that raises no trap (PREF, R225). -/
  lax : Bool := false
  deriving DecidableEq, Repr

/-- How far a strand has come in an instruction of several phases; it issues again from the start (R45).
DEDUCED (log 21). -/
inductive Prog where
  | none
  | probing (sc : Scope) (k : FKind) (mask : Lane) (ids : List Nat)       -- a fence's probes to the homes
  | writingBack (sc : Scope) (k : FKind) (mask : Lane) (ids : List Nat)   -- and from the slices on
  | fenced (n : Nat)                                                      -- n fences of the instruction are done
  | waiting (id n : Nat)                                                  -- an access or reply with that number; n retries
  | answered (v w : Quad) (tag ok : Bool)                                 -- it came
  | refused (n since word : Nat) (changed : Bool)                         -- refused at the word, n retries; a change is reported (R204)
  | failed (cause : Cause) (detail : Nat) (val : Lane)                    -- it ends in a trap at the instruction
  | copied (bytes : List Byte)                                            -- a descriptor or source copied (R367, R310)
  | untilFull (g : GroupId) (word marks : Nat)                            -- parked at a barrier until that word is next marked full (R272)
  | walksOut (l : List StrandId)                                          -- TLBINV: strands whose walks had begun before it (R429)
  | starting                                                              -- an instant has begun and is not yet evaluated (R458)
  | committing                                                            -- issued, waits for its commit (R146, R184)
  deriving DecidableEq, Repr

/-- Who moved a strand's order clock: strand index in the launch and a count (R228). DEDUCED (log 24). -/
abbrev OrderClock := List (Nat × Nat)

/-- One watch entry (R326) with its handler (R327). -/
structure Watch where
  kind : BitVec 2 := 0
  sig : Sig := 0
  fired : Bool := false
  armed : Bool := false
  handler : CapReg := {}
  deriving DecidableEq, Repr

/-- An outstanding message (R295): its number, whether it is an OSEND, whether the optical core carries it
and to which die, and its timer: cycles of its strand's tile counted (R450), and since when it runs (none while its source holds a HOLD). -/
structure Outstanding where
  seq : Nat
  osend : Bool
  omc : Bool
  die : Nat
  counted : Nat := 0
  since : Option Nat
  deriving DecidableEq, Repr

/-- The last SEND for RTLAT (R307): number, accepted or lost, latency, hops, over the OMC. -/
structure LastMsg where
  seq : Nat
  settled : Bool
  lost : Bool
  latency : Nat
  hops : Nat
  omc : Bool
  deriving DecidableEq, Repr

/-- A strand (R22, R47, and the strand CSRs of each chapter). DESIGN CHOICE (log 4). -/
structure Strand where
  run : Run := .idle
  prog : Prog := .none
  consumed : Bool := false
  again : Option Why := none                     -- why the instruction that stands at pc has parked (R45)
  kept : List RegCell := []                      -- the operand values of an access that is under way (R204, R228)
  took : List Opnd := []                         -- and the operands it has consumed
  spared : Option (Reg × RegCell) := none        -- the destination that a checked access has marked, as it was (R228)
  walkWant : Option WalkReq := none              -- a walk in flight (R215)
  walkFault : Option (Nat × Nat × Nat) := none   -- detail, space and address of a walk that failed (R214)
  c : Vector RegCell 48 := Vector.replicate 48 {}
  sp : RegCell := {}
  ra : RegCell := {}
  p : Vector Bool 8 := Vector.replicate 8 false
  fcap : CapReg := {}
  rcap : CapReg := {}
  kernel : Bool := false
  pl : Bool := false
  depth : Nat := 0
  save : Option TrapSave := none
  fcsr : Lane := 0
  tmask : Lane := 0
  ae : Nat := 0
  canemit : Lane := BitVec.allOnes 64
  canrld : Lane := BitVec.allOnes 64
  awaitSig : Option Sig := none   -- the signal of the AWAIT at which it paused (R333)
  wdepth : Nat := 0
  watch : Vector Watch 4 := Vector.replicate 4 {}
  trappc : Lane := 0
  trapinfo : Lane := 0
  trapval : Lane := 0
  path : Lane := 0
  mbox : Lane := 0
  wdlim : Lane := 0x1000000
  wdcount : Nat := 0
  wdFrom : Option Nat := none     -- since when the watchdog count runs; none while it stands
  ringFrom : Option Nat := none   -- since when it stands in its tile's ring (R23); none while it does not
  whNext : Bool := false
  excused : Bool := false
  rejoin : Bool := false
  lease : Option Nat := none
  gen0 : Lane := 0
  gen1 : Lane := 0x9E3779B97F4A7C15
  nchild : Nat := 0
  outc : Nat := 0
  task : Bool := false
  parent : Option StrandId := none
  parentTag : Nat := 0
  serial : Nat := 0
  msgSeq : Nat := 0
  outstanding : List Outstanding := []
  lastMsg : Option LastMsg := none
  ackLost : List Trap := []
  clock : OrderClock := []
  kidClock : OrderClock := []     -- what its children have published (R364)
  ofences : Nat := 0              -- OFENCEs and fences at DEVICE and above that it has completed (R246)
  bars : List Nat := []           -- the RBARs and GBARs that the strand has completed in its instant, by number (R175)
  nextIssue : Nat := 0
  stopped : Bool := false
  held : Bool := false
  passBreak : Bool := false       -- stands at a breakpoint that has already stopped it
  brk : Bool := false             -- stands at a BRK that has halted its group
  joinDead : Bool := false
  poolFault : Option Trap := none
  cycleDue : Option (Trap × Bool) := none   -- CAUSALITY with its WH, for when its group is resident again (R323)
  deriving DecidableEq, Repr

/-! ### Groups -/

/-- Where a group runs: virtual die and tile 12y + x. -/
structure Place where
  die : Nat
  tile : Nat
  deriving DecidableEq, Repr

/-- The state of a group (R343, R357, R407, R350). -/
inductive GState where
  | queued | resident | swapping | saved | retired
  deriving DecidableEq, Repr

/-- A write to s0 to s7 that other strands see later (R51). -/
structure SWrite where
  due : Nat
  idx : Fin 8
  cell : RegCell
  deriving DecidableEq, Repr

/-- Where a late result goes: one register, or the pair of MRD. -/
inductive ResDst where
  | reg (r : Reg)
  | pair (k : Fin 24)
  | none
  deriving DecidableEq, Repr

/-- A long result on its way (R50): earliest and latest arrival, destination, value, flags and the trap it raises at
its commit (R146); `owner` is its strand's serial, and `waits` says that the strand waits for it as its commit. -/
structure Late where
  slot : Fin 8
  owner : Nat := 0
  lo : Nat
  due : Nat
  dst : ResDst
  v : Quad
  v2 : Quad
  flags : Nat
  trap : Option Trap
  fp : Bool
  waits : Bool := false
  deriving DecidableEq, Repr

/-- An accumulator: 64 FP32 elements, element 8i + j (R173). -/
abbrev Acc := Vector (BitVec 32) 64

/-- An instruction in the block-dot unit (R174, R187, R193). -/
inductive MxOp where
  | mdot (acc : Fin 4) (inc : List (Fin 24 × Int))   -- the pairs whose cursors move at the commit, and by how much
  | madd (acc src : Fin 4) (v : Acc) (mode : RMode)   -- v: the source as it stood at the issue (R45, R174)
  | mscl (acc : Fin 4) (factor : BitVec 32) (mode : RMode)
  deriving DecidableEq, Repr

/-- An instruction in flight in the block-dot unit: its number, issuer, what it does, and an MDOT's operand words, each
none until its home has performed the read (R188). -/
structure MxFlight where
  num : Nat
  slot : Fin 8
  op : MxOp
  wa : List (Option Lane)
  wb : List (Option Lane)
  due : Nat
  since : Nat := 0              -- when it issued
  trap : Option Trap := none
  deriving DecidableEq, Repr

/-- A write of an accumulator in a deterministic launch (R175): strand slot and serial, instant, and the last barrier
number before it. -/
structure AccWrite where
  slot : Fin 8
  serial : Nat
  instant : Lane
  after : Nat
  deriving DecidableEq, Repr

/-- A task record (R347). -/
structure TaskRec where
  target : Lane
  a : CapReg
  b : CapReg
  path : Lane
  parent : StrandId
  parentTag : Nat
  cur : Lane
  rld : Lane
  clock : OrderClock
  deriving DecidableEq, Repr

/-- A stored strand of the join store (R353): the strand and whether it returns to trap. -/
structure Stored where
  st : Strand
  dead : Bool
  deriving DecidableEq, Repr

/-- A static route entry (R81, R283): the hop codes. -/
abbrev Route := List (Fin 8)

/-- An entry of the inbox (R290). -/
structure InEntry where
  payload : Quad
  desc : Lane
  deriving DecidableEq, Repr

/-- The router in which a packet's flits hold permits (R279): virtual die, tile, subnetwork, and whether it travels the second
leg of a detour (R282). -/
structure MeshSpot where
  die : Nat
  tile : Nat
  sub : Nat
  lane : Bool := false
  deriving DecidableEq, Repr

/-- A stretch of the way of a packet (R280 to R285, R466): over a die's mesh from a tile to another by default routing, or behind a
detour's intermediate tile in its lane; the hops of a static route, each router with its cost; a memory die; the optical core
between the ports of two dies, `queued` once the packet has joined the send queue. -/
inductive Leg where
  | mesh (die src dst : Nat) (lane : Bool)
  | named (die src : Nat) (hops : List (Nat × Nat))
  | memory
  | omc (src dst : Nat) (queued : Bool)
  deriving DecidableEq, Repr

/-- The way of a packet: the legs that are left, the router that holds its flits (none before it enters a mesh), the subnetwork of its
pair and the choice of path (R238: firmware's routing, and whether the optical core is in use), the hops and cycles so far (R285), the
length of its sender's cycle in ticks, when it is where it stands, and whether a full pool holds it back there (R279). -/
structure Trail where
  legs : List Leg := []
  spot : Option MeshSpot := none
  sub : Option Nat := none
  path : Nat × Bool := (0, false)
  hops : Nat := 0
  cost : Nat := 2
  cyc : Nat := 0
  due : Nat := 0
  held : Bool := false
  lost : Bool := false
  deriving DecidableEq, Repr

/-- What names a message in flight (R295): the strand that sent it, its serial number, and the message's number. -/
structure MsgKey where
  who : StrandId
  owner : Nat := 0
  seq : Nat
  deriving DecidableEq, Repr

/-- A message at or before a tile (R289, R291): payload, target, sender and its serial number, whether it crosses the optical core,
the OFENCEs that the sender had completed (R246), and the hops and cycles of its way once it has come (R285). -/
structure Mail where
  payload : Quad
  inbox : Bool
  slot : Fin 8
  reg : Nat
  sender : StrandId
  vdie : Nat
  seq : Nat
  clock : OrderClock
  instant : Lane
  sentAt : Nat
  owner : Nat := 0
  fences : Nat := 0
  hops : Nat := 0
  cost : Nat := 0
  omc : Bool
  done : Bool := false            -- accepted into an absent mailbox already (R292)
  deriving DecidableEq, Repr

/-- A pause of a copy-unit operation (R273): the cause its waiter takes, detail and pointer. -/
structure Pause where
  cause : Cause
  detail : Nat
  ptr : Lane
  deriving DecidableEq, Repr

/-- What a bulk operation still owes the STATUS field of its barrier (R255, R268, R269). -/
structure BarStat where
  skip : Nat := 0
  oor : Bool := false
  conv : Bool := false
  badhdr : Bool := false
  deriving DecidableEq, Repr

/-- Where an access acts: a scratchpad byte of a group, or a byte of panel memory, module memory or the control die
by the model's address. -/
inductive Target where
  | sp (g : GroupId) (off : Nat)
  | mem (key : Nat)
  deriving DecidableEq, Repr

/-- A word of an engine: position in its range, length, and where it lies. -/
structure EngWord where
  pos : Nat
  len : Nat
  target : Target
  pa : Nat
  chk : Bool
  ptr : Lane
  deriving DecidableEq, Repr

/-- How far the copy unit is with a piece: its index is read, its data are read, its writes are under way. -/
inductive PieceAt where
  | index | reading | writing
  deriving DecidableEq, Repr

/-- A piece of an operation that has entered: a destination unit of COPY, a block of COPYC, an element of GATHER or
SCATTER, a unit of a stream. `need` counts messages not yet performed; `got` holds the bytes read, by position. -/
structure Piece where
  num : Nat
  at_ : PieceAt
  idx : Option Nat := none
  need : Nat := 0
  got : List (Nat × Byte) := []
  out : List EngWord := []
  deriving DecidableEq, Repr

/-- A stream descriptor (R252, R261, R263). Units are elements or strips. -/
structure StreamD where
  uid : Nat
  num : Nat
  slot : Fin 8
  owner : Nat := 0            -- the serial of its strand
  reg : Fin 48
  output : Bool
  cap : Quad
  count0 : Nat
  count1 : Nat
  stride0 : Int
  stride1 : Int
  strip : Bool
  size : Nat
  moved : Nat := 0            -- units that the strand has popped, or pushed
  next : Nat := 0             -- units that have entered
  buffer : List Quad := []    -- input: delivered and not popped; output: pushed and not entered
  pieces : List Piece := []
  exhausted : Bool := false
  pause : Option Pause := none
  clock : OrderClock := []
  deriving DecidableEq, Repr

/-- The kinds of bulk operations (R267 to R269). -/
inductive BulkKind where
  | copy | copyc (src dst : BFmt) (mode : RMode) (sat : Bool) | gather | scatter
  deriving DecidableEq, Repr

/-- A bulk operation (R252): its pieces enter in order, `next` of `total` so far; `n` counts the bytes of COPY. An
abandoned operation enters no more and holds no slot. -/
structure BulkOp where
  uid : Nat
  num : Nat
  slot : Fin 8
  owner : Nat := 0            -- the serial of its strand
  kind : BulkKind
  dst : Quad
  src : Quad
  idx : Quad
  bar : GroupId × Nat
  size : Nat
  n : Nat
  total : Nat
  next : Nat := 0
  pieces : List Piece := []
  pause : Option Pause := none
  stat : BarStat := {}
  abandoned : Bool := false
  clock : OrderClock := []
  deriving DecidableEq, Repr

/-- A stop request (R403): why, when it was made, and the strand that asked (CTXSAVE, CTXLOAD). -/
structure Stop where
  why : StopWhy
  since : Nat
  by_ : Option (Fin 8)
  deriving DecidableEq, Repr

/-- A recorded access of a deterministic launch (R228). DEDUCED (log 24). -/
structure AccRec where
  word : Nat × Nat × Nat     -- launch group + 1 or 0 for memory, word address, instant
  who : Nat
  comp : Nat                 -- the component of an order clock that dates it: the strand's, or the engine operation's
  stamp : Nat
  write : Bool
  commut : Option AmoFn
  deriving DecidableEq, Repr

/-- A group (R22, R407). DESIGN CHOICE (log 4). -/
structure Group where
  gid : GroupId := ⟨0, 0⟩
  state : GState := .retired
  place : Option Place := none
  logical : Nat := 0
  homeDie : Nat := 0
  st : Vector Strand 8 := Vector.replicate 8 {}
  sr : Vector RegCell 8 := Vector.replicate 8 {}
  swrites : List SWrite := []
  late : List Late := []
  acc : Vector Acc 4 := Vector.replicate 4 (Vector.replicate 64 0)
  mx : List MxFlight := []
  mxLast : Nat := 0
  mxGap : Nat := 4
  mxDone : Nat := 0
  fmtA : Nat := 0
  fmtB : Nat := 0
  accW : Vector (List AccWrite) 4 := Vector.replicate 4 []
  goneBars : List (Nat × List Nat) := []      -- by serial: the barriers of the instant that a halted strand had completed (R175)
  saves : Nat := 0
  trig : Bool := false
  resumed : Bool := false
  frozen : Bool := false
  dhalt : Bool := false
  hitBreak : Option Nat := none           -- the breakpoint at which it stands halted (R460)
  disc : Bool := false
  tvec : Lane := 0
  log2 : Nat := 12
  discard : BitVec 32 := 0
  skips : Nat := 0
  swaps : Nat := 0
  instant : Lane := 0
  synclim : Nat := 65536
  cpsel : Nat := 0
  msgtim : Nat := 0x200000
  dbgbp : Vector Lane 4 := Vector.replicate 4 0
  csrWrites : List (Nat × Nat × Lane) := []   -- group CSR writes not yet in force: due, csr, value (R427)
  spad : Memory := []
  spTags : List Nat := []
  spEmpty : List Nat := []
  marks : List (Nat × Nat) := []              -- by word: how often it has been marked full (R272)
  wordClocks : List (Nat × OrderClock) := []
  badWords : List Nat := []
  barPend : List (Nat × OrderClock) := []     -- by barrier: engine work landed since its last phase change (R257)
  barClocks : List (Nat × OrderClock) := []   -- and up to it
  deque : List TaskRec := []
  store : List Stored := []
  routes : List (Nat × Route) := []
  links : Vector (List Quad) 4 := Vector.replicate 4 []
  inbox : List InEntry := []
  arrivals : List Mail := []
  absent : List Mail := []
  inboxQ : List (Fin 8) := []        -- slots that wait at INPOP, in the order in which they issued (R306)
  refusals : List Agent := []        -- senders whose messages wait refused, in order (R291)
  portCopies : List (Fin 8 × Trail) := []     -- by slot: an OSEND's source bytes on their way to the port (R310)
  streams : List StreamD := []
  ops : List BulkOp := []
  em : Lane := 0
  emits : List (Nat × Sig × Bool) := []   -- emissions of the instant: from when the tile's tests see them, signal, REL
  present : Lane := 0                     -- decided present, and absent, by waves of the instant
  absentS : Lane := 0
  relSeen : Lane := 0                     -- signals of which a wave has brought an EMIT.REL
  prevEm : Lane := 0
  prevSlot : Nat := 7
  lastIssue : Nat := 0
  turnEnds : Nat := 0           -- when the ring may come round again: a turn takes 4 cycles at least (R23)
  stop : Option Stop := none
  outWhy : Option StopWhy := none         -- why a saved group was stopped
  begun : Bool := false                   -- its first instruction has issued (R344)
  stealAt : Nat := 0                      -- groups of its steal domain asked since it fell idle (R349)
  stealing : Bool := false                -- a request of it is on its way
  inherit : Nat := 0                      -- 1 + the group whose allocation it inherits (R366)
  handTile : Option Nat := none           -- the tile that a hand-over keeps for it
  clockNote : Nat × Nat := (0, 0)         -- since when its tile's cycle is as long as it is, and how many ticks (R352)
  left : Option Place := none             -- the tile that it has left, where its emissions of the instant stay (R317, R320)
  deriving DecidableEq, Repr

/-! ### The Easel: channels, slices and values in flight -/

/-- The classes of the mesh (R279). -/
inductive MeshClass where
  | request | response | bulk | reactive | system
  deriving DecidableEq, Repr

/-- What a message does when its home performs it (R232). -/
inductive Act where
  | load (t : Ty) (dst : Reg)
  | loadQ (dst : Reg) (hi : Bool)                        -- one word of LD.Q128 (R233)
  | loadRest (dst : Reg) (hi : Bool) (got : Lane)        -- the second word of an LD.Q128 that is waited for, with the first
  | loadCap (dst : Reg) (cld : Bool)
  | store (n : Nat) (v : Quad)
  | storeCap (v : Quad) (tag : Bool)
  | amo (t : Ty) (fn : AmoFn) (b : Quad) (dst : Reg)
  | cas (t : Ty) (expect b : Quad) (dst : Reg)
  | lde (take : Bool)
  | stf (v : Lane)
  | feset (full : Bool)
  | record                                               -- RTLOAD's 16 bytes
  | probe
  | put (bytes : List Byte)                              -- what a pool engine, an OMC port or the control die stores (R230)
  | writeBack (bytes : List Byte) (mask : BitVec 64) (tags : BitVec 4)
  | opRead (uid piece pos n : Nat)                       -- a word that the copy unit reads, by operation and piece
  | opWrite (uid piece : Nat) (bytes : List Byte)
  | mxLoad (flight : Nat) (isB : Bool) (word : Nat)      -- a word of an MDOT operand (R188)
  | mail (m : Mail)
  deriving DecidableEq, Repr

/-- A message in a channel. `also` is the second bank of a granule access, which holds the same message. -/
structure Msg where
  id : Nat
  who : Option StrandId
  owner : Nat := 0              -- the serial of its strand
  act : Act
  target : Target
  pol : Nat := 0
  chk : Bool := false
  /-- The pointer form of the address as the sender names it. -/
  ptr : Lane := 0
  clock : OrderClock := []
  also : Option Home := none
  trail : Trail := {}              -- its way (R279 to R285)
  deriving DecidableEq, Repr

/-- What a home sends back (R232 Return, Echo): a value for a register, the answer for which a strand is parked (R228), bytes that
a copy unit has read (R252), the echo of a probe. -/
inductive Back where
  | value
  | answer (p : Prog)
  | data (uid piece pos : Nat) (bytes : List Byte)
  | echo
  deriving DecidableEq, Repr

/-- A response on its way back. `dst`, `v`, `tag`, `bad` and `half` are those of a value. -/
structure InFlight where
  id : Nat
  who : StrandId
  owner : Nat := 0              -- the serial of its strand, which may have left its slot (R353, R366)
  dst : Reg
  v : Quad
  tag : Bool
  bad : Option Lane
  half : Option Bool
  home : Home
  back : Back := .value
  trail : Trail := {}
  deriving DecidableEq, Repr

/-- The acknowledgement of a message, or a HOLD notice for it, on its way to its source tile (R291, R295). -/
structure Ack where
  key : MsgKey
  hold : Bool := false
  trail : Trail := {}
  deriving DecidableEq, Repr

/-- A line that a slice fills (R197, R235): its request is on its way to the memory home, or the bytes on their way back. -/
structure Fill where
  key : Nat
  slice : Nat
  back : Bool := false
  trail : Trail
  deriving DecidableEq, Repr

/-- A line of an edge slice (R206, R234, R235). -/
structure Line where
  key : Nat
  slice : Nat
  bytes : List Byte
  dirty : BitVec 64
  tags : BitVec 4
  epoch : Nat
  deriving DecidableEq, Repr

/-- A cached translation (R213 to R215). -/
structure TlbEntry where
  tenant : Nat
  space : Nat
  page : Nat
  level : Nat
  pa : Nat
  chk : Bool
  pol : Nat
  exec : Bool
  wr : Bool
  rd : Bool
  deriving DecidableEq, Repr

/-! ### The optical core, pools -/

/-- A block that an OSEND carries (R310): where it lands, how many of its 64-byte units have landed, when it has reached the
destination die, and whether the absent mailbox refused it there (R411) and which relay die brought it. DEDUCED (log 25). -/
structure Block where
  uid : Nat
  who : StrandId
  owner : Nat := 0
  seq : Nat
  dst : GroupId
  off : Nat
  bar : Nat
  bytes : List Byte
  ordered : Bool
  die : Nat
  src : Nat := 0                  -- the die that sent it
  sentAt : Nat := 0
  cost : Nat := 0                 -- the cycles of its way to the port (R285)
  fences : Nat := 0               -- the OFENCEs that its strand had completed (R246)
  trail : Trail := {}             -- the way of the unit that comes next to the tile, or of the block over its own die
  coming : Bool := false          -- it is on that way over its own die, and not accepted yet (R310)
  arrived : Nat := 0
  landed : Nat := 0
  refused : Bool := false
  relay : Option Nat := none
  pause : Option Pause := none
  clock : OrderClock
  deriving DecidableEq, Repr

/-- What an OMC message carries. -/
inductive OmcLoad where
  | block (b : Block)
  | reply (id : Nat)          -- an element that a pool returns (R382)
  | access (ch : ChanId) (id : Nat)   -- an access or a message that waits in its channel (R284)
  | value (id : Nat)                  -- a response on its way back
  | ack (key : MsgKey) (hold : Bool)
  | fill (die key : Nat)
  deriving DecidableEq, Repr

/-- A message in a port's send queue or in a relay buffer (R299 to R301); dies are virtual. -/
structure OmcMsg where
  src : Nat
  dst : Nat
  flits : Nat
  ordered : Bool
  relayed : Bool
  key : MsgKey
  body : OmcLoad
  joined : Nat
  deriving DecidableEq, Repr

/-- A probe of an OFENCE (R312): the die whose port holds it and the die to which it goes, behind the strand's messages up to a
number; `sent` once it has travelled. -/
structure OProbe where
  who : StrandId
  owner : Nat := 0
  src : Nat
  dst : Nat
  seq : Nat
  sent : Bool := false
  deriving DecidableEq, Repr

/-- A relay acknowledgement that its die still has to send (R301). -/
structure RelayAck where
  relay : Nat
  key : MsgKey
  at_ : Nat
  deriving DecidableEq, Repr

/-- A destination unit that is complete and has not yet taken its 1 from SECT (R256): its operation, barrier and what
the operation owes STATUS. -/
structure Landed where
  g : GroupId
  uid : Nat
  slot : Fin 8
  bar : GroupId × Nat
  stat : BarStat
  clock : OrderClock
  owner : Nat := 0            -- the serial of the strand that issued the operation
  stuck : Bool := false       -- a conflict has turned its decrement away (R257); it waits for RESUME or ABANDON
  deriving DecidableEq, Repr

/-- A pool element (R373). -/
structure Elem where
  key : Lane
  payload : Lane
  round : Nat
  seq : Nat
  spilled : Bool
  deriving DecidableEq, Repr

/-- A summary (R379). -/
structure Summary where
  keys : List Lane
  leases : Nat
  applied : Nat
  issued : Nat
  size : Nat
  round : Nat
  deriving DecidableEq, Repr

/-- A take that waits or travels (R382): its strand, destination pair and predicate, handle register, origin die, and the
shards that it has visited. -/
structure Take where
  who : StrandId
  pool : Nat
  pair : Fin 24
  pred : Pred
  a : Reg
  origin : Nat
  issuedAt : Nat
  visited : List Nat := []
  hops : Nat := 0
  deriving DecidableEq, Repr

/-- A put that its shard has not yet applied (R383, R393), with the operands of its PPUT. -/
structure Put where
  who : StrandId
  key : Lane
  payload : Lane
  a : PSrc
  b : Src
  deriving DecidableEq, Repr

/-- A recorded exact take (R390), with its handle's low lane for a trap (R376) and the instant in which it was recorded. -/
structure XTake where
  who : StrandId
  pair : Fin 24
  pred : Pred
  a : Lane := 0
  instant : Lane := 0
  deriving DecidableEq, Repr

/-- One shard of a pool (R372 to R383). -/
structure Shard where
  die : Nat
  elems : List Elem := []
  seq : Nat := 0
  issued : Nat := 0
  applied : Nat := 0
  appliedNow : Nat := 0       -- puts applied in the current interval
  appliedPrev : Nat := 0      -- and in the one before
  puts : List Put := []
  held : List Take := []
  unacked : List Nat := []                -- replies that the origin has not yet acknowledged
  snap : Option Summary := none
  seen : List (Nat × Summary) := []       -- the round's summaries that have arrived, by die
  missed : List Nat := []                 -- the dies whose summary of the round a header error has lost (R294, R381)
  formed : List (Nat × Summary) := []     -- the summaries that formed the G in force
  g : Option Lane := none
  ground : Nat := 0
  spillFrom : Nat := 0                    -- its part of the spill area, in elements
  spillLen : Nat := 0
  startSize : Nat := 0
  deriving DecidableEq, Repr

/-- A pool (R372, R378): `round` counts the snapshots taken, `installed` the rounds up to the last whose G was installed;
`maker` is the strand that its PINIT holds parked, `lastPut` the round in which each strand's last put was applied, by its
serial. -/
structure Pool where
  num : Nat
  launch : Nat
  tenant : Nat
  k : Nat
  w : Nat
  ageMax : Nat
  t0 : Nat
  round : Nat := 0
  installed : Nat := 0
  shards : List Shard
  poolSize : Nat := 0
  startPool : Nat := 0
  spillCap : Quad
  exact : List XTake := []
  maker : Option (StrandId × Reg) := none
  lastPut : List (Nat × Nat) := []
  deriving DecidableEq, Repr

/-- A forwarded take, or one on its way back to its origin (R380, R382), and when the window that carries it opens. -/
structure TakeFly where
  take : Take
  src : Nat
  dst : Nat
  home : Bool
  opens : Nat
  deriving DecidableEq, Repr

/-- An element on its way to the origin of its take (R382, R387): the die that served it, the G and round in force there,
and when the optical core has brought it. -/
structure ReplyFly where
  id : Nat
  take : Take
  server : Nat
  elem : Elem
  aged : Bool
  g : Lane
  round : Lane
  crossed : Option Nat := none
  via : Option Nat := none      -- the relay die that has carried it
  deriving DecidableEq, Repr

/-- The acknowledgement of an element (R387): its pool, reply, serving and accepting dies, and since when it waits. -/
structure LeaseAck where
  pool : Nat
  id : Nat
  server : Nat
  origin : Nat
  since : Nat
  deriving DecidableEq, Repr

/-! ### Launches, tenants, dies, regions -/

/-- A park on a signal test or at RBAR as a wave has sampled it: strand, serial, position, and the park. DEDUCED (log 23). -/
structure ParkSeen where
  who : StrandId
  serial : Nat
  pos : Nat
  run : Run
  deriving DecidableEq, Repr

/-- The summary of a group that a wave samples (R317, R322); `rel` the signals emitted with REL, `rclock` what the strands at
RBAR publish (R228), `parks` the parks that it counts. -/
structure TileSum where
  group : Nat
  act : Nat := 0
  ce : Lane := 0
  em : Lane := 0
  blk : Nat := 0
  rbn : Nat := 0
  tst : Lane := 0
  rel : Lane := 0
  rclock : OrderClock := []
  parks : List ParkSeen := []
  deriving DecidableEq, Repr

/-- A combined wave sample (R317 to R319), `since` when its first tile was sampled; `waiting` the groups that the release has
not reached, `first` when it reached the first, and `next` the samples for the wave that follows (R318). DEDUCED (log 23). -/
structure Wave where
  num : Nat
  inst : Lane
  act : Nat
  ce : Lane
  em : Lane
  blk : Nat
  rbn : Nat
  tst : Lane
  rel : Lane
  rclock : OrderClock
  waiting : List Nat
  parks : List ParkSeen := []
  since : Nat := 0
  first : Option Nat := none
  next : List TileSum := []
  deriving DecidableEq, Repr

/-- A 4 KiB granule of memory in an undo log: its bytes and granule tags as they were (R419). -/
structure UndoRec where
  granule : Nat
  cells : Memory
  tags : List Nat
  deriving DecidableEq, Repr

/-- A launch (R339 to R355). -/
structure Launch where
  num : Nat
  tnum : Nat
  tenant : Nat
  entry : Nat
  groups : Nat
  strands : Nat
  log2 : Nat
  prio : Nat
  stealdom : Nat
  det : Bool
  stagger : Nat
  px : Nat
  py : Nat
  pw : Nat
  ph : Nat
  discard : BitVec 32
  seed : Lane
  sigtab : Lane
  codeBase : Nat
  codeLen : Nat
  code : Option (List Byte) := none   -- its code as it stood when the launch began (R130)
  dataRoot : Option (Nat × Nat)
  sdata : List Byte
  dies : List Nat
  after : Option Nat
  started : Bool
  queuedAt : Nat
  firstPlace : Option Nat
  status : Option Nat
  cancelling : Bool
  debugged : Bool
  recov : Bool
  ckpt : Bool
  points : Nat
  wave : Option Wave
  recs : List AccRec
  notifySeq : Nat
  undo : List UndoRec
  escrow : List (Nat × Byte)
  rollbacks : Nat
  kids : List Nat
  band : Nat := 3                     -- the band of the tree that serves its reaction (R313)
  sampled : Nat := 0                  -- when a wave of it last sampled a tile (R318)
  deriving DecidableEq, Repr

/-- A context image that CTXSAVE has made (R407 to R409, R430): the group as it stood, the number of the free values of
its control part, the strand that made it, where that strand's D stands, and the engine messages that a conflict held.
DESIGN CHOICE (log 13). -/
structure Image where
  group : Group
  seed : Nat
  by_ : Fin 8
  d : Reg
  held : List (ChanId × Msg)
  landed : List Landed := []      -- units whose decrement a conflict has turned away (R276)
  deriving DecidableEq, Repr

/-- A notification (R432, R421). -/
structure Notice where
  vec : Nat
  payload : Lane
  point : Nat
  seq : Nat
  deriving DecidableEq, Repr

/-- What the control die tells the host (R241, R422, R435, R394), and its management port the outside (R438, R439). -/
inductive HostEvent where
  | ended (launch status : Nat)
  | rolledBack (launch point : Nat)
  | value (bytes : List Byte)
  | aborted
  | taken (n : Notice)
  | signed (index : Nat) (version : Nat) (slot : Option Nat) (digest : BitVec 256) (sig : BitVec 512)
  | slotRefused (slot : Nat)
  deriving DecidableEq, Repr

/-- A record of a tenant's fault log: a fatal trap with its cause, TRAPPC and group (R399), an uncorrectable error of a
PCI function (R434), a DMA access that faulted (R435). -/
inductive FaultLog where
  | fatal (cause : Nat) (pc : Lane) (group : Nat)
  | aer (fn code : Nat)
  | dma (fn detail : Nat) (ptr : Lane)
  deriving DecidableEq, Repr

/-- A tenant (R443 to R445). -/
structure Tenant where
  num : Nat
  vx0 : Nat
  vy0 : Nat
  width : Nat
  height : Nat
  roots : List (Nat × Nat) := []      -- space, placed address of the level-0 table
  handler : Nat := 0
  nextLaunch : Nat := 1
  notices : List Notice := []
  log : List FaultLog := []
  functions : List Nat := []
  panel : List (Nat × Nat × Nat) := []    -- granted panel memory: space, base and length (R445)
  saveArea : List (Nat × Nat) := []       -- the save area: base and length
  deriving DecidableEq, Repr

/-- A steal on its way back (R349): thief, victim and the record handed over. -/
structure Steal where
  thief : GroupId
  victim : GroupId
  rec_ : Option TaskRec
  deriving DecidableEq, Repr

/-- The state of a rotation pair (R357). -/
inductive PairState where
  | hold | swap
  deriving DecidableEq, Repr

/-- A rotation pair. -/
structure Pair where
  num : Nat
  hot : Nat
  cool : Nat
  state : PairState
  since : Nat
  deriving DecidableEq, Repr

/-- A compute die (R18 to R20, and the die CSRs). DESIGN CHOICE (log 4). -/
structure Die where
  v : Nat
  phys : Nat
  live : Bool := true
  maxlat : Nat := 0
  count : Nat := 0
  tdiff : Nat := 32
  pairsMax : Nat := 4
  interval : Nat := 0x100000
  intervalStart : Nat := 0
  off : List Nat := []            -- dead and retired tiles: their routers are off
  tsteps : List (Nat × Nat) := []
  plup : Nat := 0
  cal : Bool := false
  herr : Nat := 0
  excuse : BitVec 144 := 0
  voff : Nat := 0
  de : Nat := 0
  lines : List Line := []
  deadSlices : List Nat := []
  l2 : List TlbEntry := []
  tlb : List (Nat × TlbEntry) := []       -- by tile
  subnets : Nat := 1
  hotSince : List ((Nat × Nat) × Nat) := []   -- by tile and subnetwork: since when the router has had more than three quarters of its shared permits in use (R277)
  idleSince : List (Nat × Nat) := []      -- by subnetwork: since when it has carried no flit
  fills : List Fill := []
  sendq : List OmcMsg := []
  relay : List OmcMsg := []
  advert : Nat × Nat := (0, 512)          -- the last window's time and the free KiB its slot headers advertised
  windows : List (Nat × Nat) := []        -- by plane: the last window that the port composed
  pairs : List Pair := []
  nextPair : Nat := 1
  deriving DecidableEq, Repr

/-- A power region (R13, R417, R446 to R451). DESIGN CHOICE (log 4). -/
structure Region where
  floor : Nat := 0
  held : Nat := 0
  limit : Nat := 96
  droops : Nat := 0
  throttleEnd : Nat := 0
  allow : Bool := true
  rpEn : Bool := false
  rpEvery : Nat := 0
  reduced : Bool := false
  governor : Nat := 0           -- work is held back until this time
  stepAt : Option Nat := none   -- the 200 ns step that the governor judged last (R447)
  throttled : Bool := false     -- an alarm whose throttle has not been seen to end (R450)
  draining : Bool := false
  drainAt : Option Nat := none  -- when it was last drained
  deriving DecidableEq, Repr

/-- A tile-to-tile word in flight to a link port, and by when it has arrived (R52, R195, R287): the group that pushed it, the
cycle of the slower of the two tiles by which it is due (R452), and its way over the mesh where the tiles are not adjacent. A word that a source forwards names the instruction: its group, its strand's
serial and when it issued (R45). -/
structure LinkFly where
  dst : GroupId
  port : Port
  v : Quad
  due : Nat
  from_ : Option (GroupId × Nat × Nat) := none
  src : GroupId := ⟨0, 0⟩
  cyc : Nat := Config.cycleTicks
  trail : Option Trail := none
  deriving DecidableEq, Repr

/-- A committed recovery point (R418): the instant that a rollback starts again, the wave whose release waits for it,
the groups, and what else is restored. -/
structure Point where
  launch : Nat
  num : Nat
  instant : Lane
  wave : Option Wave
  groups : List Group
  pools : List Pool
  notifySeq : Nat
  kids : List Nat
  entries : List Launch := []             -- its outstanding LAUNCH entries, which have not started
  held : List (ChanId × Msg) := []        -- what a conflict holds of its paused operations
  landed : List Landed := []
  linkWords : List LinkFly := []          -- link words and stolen records on their way
  steals : List Steal := []
  deriving DecidableEq, Repr

/-- The power states of a PCI link (R434). -/
inductive LinkPower where
  | l0 | l0p | l1
  deriving DecidableEq, Repr

/-- A root port (R434): into how many ports firmware has split it, and by part the width and the power state of its link. -/
structure PciPort where
  parts : Nat := 1
  widths : List (Nat × Nat) := []
  power : List (Nat × LinkPower) := []
  deriving DecidableEq, Repr

/-- An error that firmware has noted of a part (R455): when, and whether it was lasting. -/
structure PartFault where
  part : Part
  at_ : Nat
  lasting : Bool
  deriving DecidableEq, Repr

/-- A region's place in the margin plan (R453): its supply offset and the highest step that it permits.
DEDUCED (log 61). -/
structure Margin where
  region : Nat
  voff : Nat
  step : Nat
  deriving DecidableEq, Repr

/-- The device-wide registers, the store and the harvest map (R438 to R442, R456). DESIGN CHOICE (log 4). -/
structure Device where
  powered : Bool := false
  stage : Nat := 0
  failed : BitVec 16 := 0
  reduced : BitVec 16 := 0
  live : BitVec 16 := 0
  harvestVersion : Nat := 0
  portsFailed : List Nat := []
  portsOut : List Nat := []               -- the module ports that this boot leaves out: failed, or failing training (R437)
  linksRetired : List Nat := []
  deadDies : List Nat := []               -- physical compute dies that the harvest map marks dead
  deadMem : List Nat := []                -- dead memory dies
  deadTiles : List (Nat × Nat) := []      -- retired tiles, by physical die
  deadSlices : List (Nat × Nat) := []     -- retired edge slices, by physical die
  deadBanks : List (Nat × Nat) := []      -- retired memory-die banks, by virtual memory die
  slot0 : Nat := 0
  slot1 : Nat := 0
  rollbackCounter : Nat := 0
  accepted : Option Nat := none
  memDies : Nat := 128
  hashedPart : Nat := 0
  moduleSize : Nat := 0
  drives : List Nat := []                 -- NVMe drives, by root port + 8 × part of it
  pci : Vector PciPort 8 := Vector.replicate 8 {}
  routing : Nat := 0                      -- drains at which firmware has chosen its routes anew (R284)
  linkErrors : List (Nat × Nat) := []     -- by link: transient header errors (R294)
  partFaults : List (Nat × Nat) := []     -- and the lasting faults logged to the control die
  lowSince : Option Nat := none           -- since when the draw stays below 20.9 kW
  checkedAt : Option Nat := none          -- the millisecond whose draw firmware has summed last (R449)
  plan : List Margin := []                -- the margin plan (R453)
  faults : List PartFault := []           -- the errors of parts, transient and lasting (R406, R455)
  deriving DecidableEq, Repr

/-! ### The tools (03) and the debugger (17 to 21) -/

/-- The sections of an object (R73). -/
inductive Sect where | text | data | sdata
  deriving DecidableEq, Repr

/-- A label of an object (R74, R89). -/
structure Symbol where
  name : String
  sect : Sect
  off : Nat
  global : Bool
  deriving DecidableEq, Repr

/-- The relocations (R87). -/
inductive RelKind where | abs32 | abs64 | lo32 | hi32 | br | entry | sdoff
  deriving DecidableEq, Repr

/-- A relocation: the field lies at `off` in its section, and P is `place` (R87). -/
structure Reloc where
  sect : Sect
  off : Nat
  place : Nat
  kind : RelKind
  sym : String
  addend : Int
  deriving DecidableEq, Repr

/-- An object that ndas made, or ndld linked: section bytes, alignments that they need, the offsets of its launch
descriptors in .data, and where ndld placed .text and .data. -/
structure Object where
  num : Nat
  name : String
  linked : Bool := false
  text : List Byte
  data : List Byte
  sdata : List Byte
  aligns : Nat × Nat × Nat
  launches : List Nat
  symbols : List Symbol
  relocs : List Reloc
  textBase : Nat := 0
  dataBase : Nat := 0
  deriving DecidableEq, Repr

/-- A diagnostic (R88): the letter is E below 400 and W from there. -/
structure Diag where
  file : String
  line : Nat
  col : Nat
  code : Nat
  deriving DecidableEq, Repr

/-- What a run of a tool printed: exit status, diagnostics, listings by name (R65, R88, R89). -/
structure ToolRun where
  status : Nat
  diags : List Diag
  listings : List (String × List String)
  deriving DecidableEq, Repr

/-- What a pool trace records of an element or take (R462): a forwarded take with its origin and the die to which it goes, a
relayed reply with the relay die and plane, an accepted one with the die that brought it. -/
inductive PoolWhat where
  | put | parked | take (rank : Nat) | serve (die rank : Nat) | forward (origin die : Nat) | back (origin die : Nat) | held
  | relay (via plane : Nat) | accept (via : Option Nat) | install | empty
  deriving DecidableEq, Repr

/-- A record of a pool trace: its time from t_0. -/
structure PoolNote where
  pool : Nat
  at_ : Nat
  die : Nat
  what : PoolWhat
  key : Lane
  payload : Lane
  deriving DecidableEq, Repr

/-- A recorded round of a pool: the G it produced, the stated bound, the summaries by die (R462). -/
structure RoundNote where
  pool : Nat
  round : Nat
  g : Lane
  bound : Nat
  sums : List (Nat × Summary)
  deriving DecidableEq, Repr

/-- A record of a wave trace (R465): a placement, a strand that reaches RBAR, the n-th RBAR release at a tile, a power
region's DROOP and PSTEP. -/
inductive WaveNote where
  | placed (t : Nat) (g : GroupId) (die tile : Nat)
  | atRbar (t : Nat) (g : GroupId)
  | release (t n : Nat) (g : GroupId)
  | power (t region droops floor held limit : Nat) (throt : Bool)
  deriving DecidableEq, Repr

/-- A record of a group's streams (R465): an element whose read enters, one that lands, a rotation state. -/
inductive StreamNote where
  | entered (t num elem tile : Nat)
  | landed (t num elem tile : Nat)
  | rotation (t : Nat) (hot cool : Nat) (code : Nat)
  deriving DecidableEq, Repr

/-- A row of the command regions: times from the first placement (R465). -/
structure RegionRow where
  first : Option Nat
  last : Option Nat
  rbar : Option Nat
  throt : Bool
  droops : Nat
  held : Nat
  deriving DecidableEq, Repr

/-- The value of an FP32 encoding, as a sign and an exact quotient (R460). -/
inductive Fp32Value where
  | nan | inf (neg : Bool) | fin (neg : Bool) (num den : Nat)
  deriving DecidableEq, Repr

/-- A line of mem and memf: the offset, up to four words, and for memf the value of each (R460). -/
structure WordLine where
  off : Nat
  words : List (BitVec 32)
  values : List Fp32Value
  deriving DecidableEq, Repr

/-- What ndbg prints (R457 to R465). A breakpoint's line gives the groups that it halted, the runs of slots at it, each by its first
and last slot, and the instant; a stop at the start of an instant gives the instant. -/
inductive Shown where
  | halts (bp : Nat) (groups : List Nat) (slots : List (Nat × Nat)) (instant : Lane)
  | stopped (instant : Lane)
  | ended (launch status : Nat)
  | regs (l : List (RegName × Quad)) (p : Option (BitVec 8))
  | csrs (l : List (Nat × Lane))
  | tree (inst : Lane) (act : Nat) (ce em : Lane) (blk rbn : Nat) (tst prev : Lane)
  | words (lines : List WordLine)
  | dwords (off : Nat) (l : List Lane)
  | pool (l : List PoolNote)
  | rounds (l : List RoundNote)
  | streams (g : Nat) (l : List StreamNote)
  | regions (l : List RegionRow)
  | rbar (rows : List (Option (Nat × Nat))) (skew : Nat)
  | place (g die region logical tile : Nat)
  | acc (a : Fin 4) (l : List (BitVec 32))
  | accmatch (a : Fin 4) (x : BitVec 32) (count total : Nat) (others : List Nat)
  deriving DecidableEq, Repr

/-- The debugger's session: the object and tenant, the launch to which it is attached, the selected group, what is set,
and what is recorded and shown (R457 to R465). `releases` counts RBAR releases. -/
structure Debugger where
  launch : Option Nat := none
  tenant : Nat := 0
  object : Nat := 0
  group : Nat := 0
  breaks : List Nat := []
  istop : Option Nat := none
  running : Bool := false
  tracing : Bool := false
  ptrace : List PoolNote := []
  rounds : List RoundNote := []
  wtracing : Bool := false
  waves : List WaveNote := []
  releases : List Nat := []
  streamRec : Option Nat := none
  streamLog : List StreamNote := []
  shown : List Shown := []
  deriving DecidableEq, Repr

/-! ### The machine -/

/-- Which agent moves next, and how much later: the free order of R232 as plain data. -/
inductive MoveAct where
  | issue (g : GroupId)
  | event (i : Instr)
  deriving DecidableEq, Repr

/-- One entry of the agenda. DESIGN CHOICE (log 2). -/
structure Move where
  dt : Nat
  act : MoveAct
  deriving DecidableEq, Repr

/-- The state of the module. `g` is the group whose tile issues and `slot` its issuing strand; `others` holds every
other group. -/
structure State where
  g : Group := {}
  slot : Fin 8 := 0
  others : List Group := []
  launches : List Launch := []
  tenants : List Tenant := []
  dies : List Die := []
  regions : Vector Region 16 := Vector.replicate 16 {}
  dev : Device := {}
  mem : Memory := []
  memTags : List Nat := []
  chans : List (ChanId × List Msg) := []
  rets : List InFlight := []
  linkWords : List LinkFly := []
  pools : List Pool := []
  lastPool : Nat := 0                     -- the pool number given last: a freed one comes again after all others (R392)
  takes : List TakeFly := []
  replies : List ReplyFly := []
  leaseAcks : List LeaseAck := []
  held : List (ChanId × Msg) := []        -- engine messages that a conflict turned away (R257)
  landed : List Landed := []
  blocks : List Block := []
  msgAcks : List Ack := []
  oprobes : List OProbe := []
  relayAcks : List RelayAck := []
  images : List Image := []
  points : List Point := []
  hostOut : List HostEvent := []
  dbg : Debugger := {}
  objects : List Object := []
  tools : List ToolRun := []
  steals : List Steal := []
  now : Nat := 0
  agenda : List Move := []
  fresh : Nat := 0
  nextId : Nat := 1
  deriving DecidableEq, Repr

/-- Why the machine stops: no instruction of the manual stops it; it halts nowhere. DESIGN CHOICE (log 52). -/
inductive Fault where
  /-- Raised by nobody in this model; kept because a closed reason type must have a member. Safe. -/
  | none
  deriving DecidableEq, Repr

/-- Why a step is refused. DESIGN CHOICE (log 52). -/
inductive Refusal where
  /-- The arm of an instruction that has no meaning yet, by its mnemonic. Safe: nothing happens. -/
  | notModelled (mnemonic : String)
  deriving DecidableEq, Repr

/-- The module before power-good: nothing brought up, no group, no launch, memory with nothing listed.
DESIGN CHOICE (log 4). -/
def State.reset : State := {}

end Sys2Proof.Machine
end

