-- ==== Sys2Proof/Machine/AsmText.lean ====
section
/-! DEFINITION. The text of ndas (03 R66 to R74, R77): tokens, expressions, operands, and decimal values. -/

namespace Sys2Proof.Machine

/-! ### Characters and tokens -/

/-- A text without regard to case. -/
def upper (s : String) : String := String.ofList (s.toList.map Char.toUpper)
/-- A character that begins a name (R74). -/
def nameStart (c : Char) : Bool := c.isAlpha || c == '_' || c == '.'
/-- A character of a name. -/
def nameChar (c : Char) : Bool := c.isAlphanum || c == '_' || c == '.'
/-- Without blanks at either end. -/
def trimChars (l : List Char) : List Char := ((l.dropWhile Char.isWhitespace).reverse.dropWhile Char.isWhitespace).reverse

/-- The longest beginning whose characters a test picks, and the rest. -/
def spanChars (p : Char → Bool) : List Char → List Char × List Char
  | [] => ([], [])
  | c :: r => if p c then let x := spanChars p r; (c :: x.1, x.2) else ([], c :: r)

/-- Cut at every separator outside quotes and brackets. -/
def splitArgs (sep : Char) : Nat → Bool → List Char → List Char → List (List Char)
  | _, _, cur, [] => [cur.reverse]
  | depth, quoted, cur, c :: r =>
    if c == '"' then splitArgs sep depth (!quoted) (c :: cur) r
    else if quoted then splitArgs sep depth quoted (c :: cur) r
    else if c == sep && depth == 0 then cur.reverse :: splitArgs sep 0 false [] r
    else if c == '(' || c == '[' then splitArgs sep (depth + 1) quoted (c :: cur) r
    else if c == ')' || c == ']' then splitArgs sep (depth - 1) quoted (c :: cur) r
    else splitArgs sep depth quoted (c :: cur) r

/-- Arguments separated by commas; none where there is no text. -/
def commaArgs (l : List Char) : List (List Char) :=
  if (trimChars l).isEmpty then [] else (splitArgs ',' 0 false [] l).map trimChars

/-- A line without its comment. -/
def stripComment : Bool → List Char → List Char
  | _, [] => []
  | quoted, c :: r =>
    if c == ';' && !quoted then [] else c :: stripComment (if c == '"' then !quoted else quoted) r

/-- Cut at every new line. -/
def splitLines : List Char → List Char → List (List Char)
  | cur, [] => [cur.reverse]
  | cur, c :: r => if c == '\n' then cur.reverse :: splitLines [] r else splitLines (c :: cur) r

/-- The lines of a text. -/
def linesOf (s : String) : List (List Char) :=
  let ls := splitLines [] (s.toList.map (fun c => if c == '\r' then ' ' else c))
  if ls.getLast? == some [] then ls.dropLast else ls

/-- The value of a digit. -/
def digitVal (c : Char) : Nat :=
  if c.isDigit then c.toNat - '0'.toNat
  else if 'a' ≤ c && c ≤ 'f' then c.toNat - 'a'.toNat + 10
  else if 'A' ≤ c && c ≤ 'F' then c.toNat - 'A'.toNat + 10
  else 99

/-- Digits of a base with underscores between them (R71). -/
def digitsVal (base : Nat) (l : List Char) : Option Nat :=
  let ds := l.filter (· != '_')
  if ds.isEmpty || l.head? == some '_' || l.getLast? == some '_' then none
  else ds.foldl (fun (n : Option Nat) c => n.bind (fun n => if digitVal c < base then some (n * base + digitVal c) else none)) (some 0)

/-- A numeric literal (R71). -/
def literalVal (l : List Char) : Option Nat :=
  match l with
  | '0' :: 'x' :: r => digitsVal 16 r
  | '0' :: 'b' :: r => digitsVal 2 r
  | _ => digitsVal 10 l

/-- A token. -/
inductive Tok where
  | name (s : String) | num (n : Nat) | sym (c : Char) | shl | shr | bad
  deriving DecidableEq, Repr

/-- The tokens of a text. -/
def lexToks : Nat → List Char → List Tok
  | 0, _ => []
  | _, [] => []
  | f + 1, c :: r =>
    if c.isWhitespace then lexToks f r
    else if nameStart c then
      let x := spanChars nameChar (c :: r)
      .name (String.ofList x.1) :: lexToks f x.2
    else if c.isDigit then
      let x := spanChars (fun c => c.isAlphanum || c == '_') (c :: r)
      ((literalVal x.1).map Tok.num).getD .bad :: lexToks f x.2
    else
      match c, r with
      | '<', '<' :: r => .shl :: lexToks f r
      | '>', '>' :: r => .shr :: lexToks f r
      | _, _ => .sym c :: lexToks f r

/-- All tokens of a text. -/
def toksOf (l : List Char) : List Tok := lexToks (l.length + 1) l

/-! ### Expressions (R71) -/

/-- The binary operators. -/
inductive BinOp where | mul | div | mod | add | sub | shl | shr | and | xor | or
  deriving DecidableEq, Repr

/-- An expression. -/
inductive Ex where
  | num (n : Nat)
  | sym (s : String)
  | here
  | neg (a : Ex)
  | inv (a : Ex)
  | bin (o : BinOp) (a b : Ex)
  deriving DecidableEq, Repr

/-- A token as an operator, with its precedence: 0 binds least. -/
def Tok.op : Tok → Option (Nat × BinOp)
  | .sym '|' => some (0, .or)
  | .sym '^' => some (1, .xor)
  | .sym '&' => some (2, .and)
  | .shl => some (3, .shl)
  | .shr => some (3, .shr)
  | .sym '+' => some (4, .add)
  | .sym '-' => some (4, .sub)
  | .sym '*' => some (5, .mul)
  | .sym '/' => some (5, .div)
  | .sym '%' => some (5, .mod)
  | _ => none

/-- Parse at a precedence; with a left operand already read, go on with it. Precedence 6 is that of the unary operators. -/
def parseEx : Nat → Nat → Option Ex → List Tok → Option (Ex × List Tok)
  | 0, _, _, _ => none
  | f + 1, lvl, some a, ts =>
    match ts with
    | [] => some (a, [])
    | t :: r =>
      match t.op with
      | none => some (a, t :: r)
      | some (p, o) =>
        if p != lvl then some (a, t :: r)
        else
          match parseEx f (lvl + 1) none r with
          | none => none
          | some (b, r) => parseEx f lvl (some (.bin o a b)) r
  | f + 1, lvl, none, ts =>
    if lvl < 6 then
      match parseEx f (lvl + 1) none ts with
      | none => none
      | some (a, r) => parseEx f lvl (some a) r
    else
      match ts with
      | .num n :: r => some (.num n, r)
      | .name "." :: r => some (.here, r)
      | .name s :: r => some (.sym s, r)
      | .sym '-' :: r => (parseEx f 6 none r).map (fun x => (.neg x.1, x.2))
      | .sym '~' :: r => (parseEx f 6 none r).map (fun x => (.inv x.1, x.2))
      | .sym '(' :: r =>
        match parseEx f 0 none r with
        | some (a, .sym ')' :: r) => some (a, r)
        | _ => none
      | _ => none

/-- Tokens that are one expression. -/
def exOf (ts : List Tok) : Option Ex :=
  match parseEx (16 * ts.length + 16) 0 none ts with
  | some (e, []) => some e
  | _ => none

/-- The value of an expression: a number, with the label that it stands from, if any. -/
structure AsmVal where
  v : Lane
  base : Option String := none
  deriving DecidableEq, Repr

/-- What the assembler knows of names: labels by section and offset, absolute symbols, and where it stands. -/
structure AsmEnv where
  labels : List (String × Sect × Nat) := []
  equs : List (String × Lane) := []
  sect : Sect := .text
  off : Nat := 0
  deriving DecidableEq, Repr

/-- The name by which a section's start stands in a relocation. -/
def Sect.start : Sect → String
  | .text => ".text" | .data => ".data" | .sdata => ".sdata"

/-- Section and offset of a label of this file; a section's own name is its start. -/
def AsmEnv.label (e : AsmEnv) (s : String) : Option (Sect × Nat) :=
  match e.labels.lookup s with
  | some x => some x
  | none => if s = ".text" then some (.text, 0) else if s = ".data" then some (.data, 0)
            else if s = ".sdata" then some (.sdata, 0) else none

/-- Apply an operator to absolute values. -/
def BinOp.apply (o : BinOp) (a b : Lane) : Except Nat Lane :=
  match o with
  | .mul => .ok (a * b)
  | .div => if b = 0 then .error 204 else .ok (BitVec.ofInt 64 (a.toInt.tdiv b.toInt))
  | .mod => if b = 0 then .error 204 else .ok (BitVec.ofInt 64 (a.toInt.tmod b.toInt))
  | .add => .ok (a + b)
  | .sub => .ok (a - b)
  | .shl => if b.toInt < 0 then .error 205 else .ok (a <<< b.toNat)
  | .shr => if b.toInt < 0 then .error 205 else .ok (a.sshiftRight b.toNat)
  | .and => .ok (a &&& b)
  | .xor => .ok (a ^^^ b)
  | .or => .ok (a ||| b)

/-- The value of an expression, or the error of R88. That . counts as a label of its section is DEDUCED (log 47). -/
def Ex.eval (e : AsmEnv) : Ex → Except Nat AsmVal
  | .num n => .ok ⟨BitVec.ofNat 64 n, none⟩
  | .here => .ok ⟨BitVec.ofNat 64 e.off, some e.sect.start⟩
  | .sym s =>
    match e.equs.lookup s with
    | some v => .ok ⟨v, none⟩
    | none => .ok ⟨0, some s⟩
  | .neg a => do
    let x ← a.eval e
    if x.base.isSome then .error 203 else .ok ⟨-x.v, none⟩
  | .inv a => do
    let x ← a.eval e
    if x.base.isSome then .error 203 else .ok ⟨~~~x.v, none⟩
  | .bin o a b => do
    let x ← a.eval e
    let y ← b.eval e
    match x.base, y.base with
    | none, none => do
      let v ← o.apply x.v y.v
      return ⟨v, none⟩
    | some s, none =>
      match o with
      | .add => .ok ⟨x.v + y.v, some s⟩
      | .sub => .ok ⟨x.v - y.v, some s⟩
      | _ => .error 203
    | none, some s =>
      match o with
      | .add => .ok ⟨x.v + y.v, some s⟩
      | _ => .error 203
    | some s, some t =>
      match o, e.label s, e.label t with
      | .sub, some (k, m), some (j, n) =>
        if k = j then .ok ⟨(x.v + BitVec.ofNat 64 m) - (y.v + BitVec.ofNat 64 n), none⟩ else .error 203
      | _, _, _ => .error 203

/-- An absolute value where one is required (R74). -/
def Ex.abs (e : AsmEnv) (x : Ex) : Except Nat Lane :=
  match x.eval e with
  | .error c => .error c
  | .ok v =>
    match v.base with
    | none => .ok v.v
    | some s => if (e.label s).isSome then .error 203 else .error 201

/-- The absolute value of a text. -/
def absOf (e : AsmEnv) (l : List Char) : Except Nat Lane :=
  match exOf (toksOf l) with
  | none => .error 203
  | some x => x.abs e

/-! ### Operands (R69) -/

/-- The names of the registers by number (R47, R10). -/
def regNames : List (String × Nat) :=
  (List.range 48).map (fun n => ("c" ++ toString n, n)) ++ (List.range 8).map (fun n => ("s" ++ toString n, 48 + n))
    ++ [("sp", 56), ("ra", 57), ("ln", 60), ("le", 61), ("ls", 62), ("lw", 63)]
/-- The predicates. -/
def predNames : List (String × Nat) := (List.range 8).map (fun n => ("p" ++ toString n, n))
/-- The accumulators. -/
def accNames : List (String × Nat) := (List.range 4).map (fun n => ("a" ++ toString n, n))

/-- What an immediate leaves to ndld (R72). -/
inductive ImmOp where | plain | lo | hi | sdoff
  deriving DecidableEq, Repr

/-- An operand. -/
inductive AsmOp where
  | reg (n : Nat) (q fwd : Bool)
  | pred (n : Nat)
  | acc (n : Nat)
  | mem (base : Nat) (q : Bool) (off : Option Ex) (idx : Option (Nat × Bool))
  | imm (k : ImmOp) (e : Ex)
  | expr (e : Ex)
  deriving DecidableEq, Repr

/-- The marks ? and > behind a register (R69). That they may stand in the other order too is DEDUCED (log 47). -/
def marksOf : List Tok → Option (Bool × Bool)
  | [] => some (false, false)
  | [.sym '?'] => some (true, false)
  | [.sym '>'] => some (false, true)
  | [.sym '?', .sym '>'] => some (true, true)
  | [.sym '>', .sym '?'] => some (true, true)
  | _ => none

/-- What stands in the brackets of a memory operand. -/
def memOperand (ts : List Tok) : Option AsmOp :=
  match ts with
  | .name s :: r =>
    match regNames.lookup s with
    | none => none
    | some n =>
      let q := r.head? == some (.sym '?')
      let r := if q then r.drop 1 else r
      match r with
      | [] => some (.mem n q none none)
      | .sym '+' :: .name t :: r2 =>
        match regNames.lookup t, marksOf r2 with
        | some m, some (p, false) => some (.mem n q none (some (m, p)))
        | some _, _ => none
        | none, _ => (exOf (.name t :: r2)).map (fun e => .mem n q (some e) none)
      | .sym '+' :: r2 => (exOf r2).map (fun e => .mem n q (some e) none)
      | .sym '-' :: r2 => (exOf (.sym '-' :: r2)).map (fun e => .mem n q (some e) none)
      | _ => none
  | _ => none

/-- Parse one operand. -/
def operandOf (ts : List Tok) : Option AsmOp :=
  match ts with
  | [.name s] =>
    match regNames.lookup s, predNames.lookup s, accNames.lookup s with
    | some n, _, _ => some (.reg n false false)
    | _, some n, _ => some (.pred n)
    | _, _, some n => some (.acc n)
    | _, _, _ => (exOf ts).map AsmOp.expr
  | .sym '[' :: r => if r.getLast? == some (.sym ']') then memOperand r.dropLast else none
  | .sym '#' :: .name s :: .sym '(' :: r =>
    let k := if s = "lo" then ImmOp.lo else if s = "hi" then .hi else if s = "sdoff" then .sdoff else .plain
    if k = .plain then none
    else if r.getLast? == some (.sym ')') then (exOf r.dropLast).map (AsmOp.imm k) else none
  | .sym '#' :: r => (exOf r).map (AsmOp.imm .plain)
  | .name s :: r =>
    match regNames.lookup s, marksOf r with
    | some n, some (q, f) => some (.reg n q f)
    | _, _ => (exOf ts).map AsmOp.expr
  | _ => (exOf ts).map AsmOp.expr

/-- A token that may end an operand. -/
def Tok.ends : Tok → Bool
  | .name _ | .num _ | .sym ')' | .sym ']' | .sym '?' | .sym '>' => true
  | _ => false

/-- Part the operands from the hints behind them (R70). -/
def splitHints : Option Tok → List Tok → List Tok → List Tok × List Tok
  | _, acc, [] => (acc.reverse, [])
  | prev, acc, t :: r =>
    if t == .sym '~' && (prev.map Tok.ends).getD true then (acc.reverse, t :: r) else splitHints (some t) (t :: acc) r

/-- The names of the hints. -/
def hintNames : List Tok → Option (List String)
  | [] => some []
  | .sym '~' :: .name s :: r => (hintNames r).map (s :: ·)
  | _ => none

/-- Cut tokens at commas. -/
def splitToks : List Tok → List Tok → List (List Tok)
  | cur, [] => [cur.reverse]
  | cur, t :: r => if t == .sym ',' then cur.reverse :: splitToks [] r else splitToks (t :: cur) r

/-! ### Decimal values (R77, R78) -/

/-- A decimal value: a word, or a sign and an exact magnitude. -/
inductive DecVal where
  | inf (neg : Bool)
  | nan
  | fin (neg : Bool) (v : Q)
  deriving DecidableEq, Repr

/-- Digits only: an underscore in a decimal value is E306, DEDUCED (log 47). -/
def decDigits (l : List Char) : Option Nat :=
  if l.all Char.isDigit && !l.isEmpty then some (l.foldl (fun (n : Nat) c => 10 * n + digitVal c) 0) else none

/-- A decimal number without sign: whole part, fraction, exponent. -/
def decMagnitude (l : List Char) : Option Q :=
  let x := spanChars (fun c => c != 'e' && c != 'E') l
  let e : Option Int :=
    match x.2 with
    | [] => some 0
    | _ :: '-' :: r => (decDigits r).map (fun n => -(n : Int))
    | _ :: '+' :: r => (decDigits r).map (fun n => (n : Int))
    | _ :: r => (decDigits r).map (fun n => (n : Int))
  let y := spanChars (· != '.') x.1
  let frac := y.2.drop 1
  match e, decDigits (y.1 ++ frac) with
  | some e, some m =>
    let k : Int := e - frac.length
    some (if 0 ≤ k then ⟨(m : Int) * 10 ^ k.toNat, 1⟩ else ⟨m, 10 ^ (-k).toNat⟩)
  | _, _ => none

/-- A value of .f32, .f64, .bf16 and .block. -/
def decValOf (l : List Char) : Option DecVal :=
  let s := String.ofList l
  if s = "inf" then some (.inf false)
  else if s = "-inf" then some (.inf true)
  else if s = "nan" then some .nan
  else
    match l with
    | '-' :: r => (decMagnitude r).map (DecVal.fin true)
    | '+' :: r => (decMagnitude r).map (DecVal.fin false)
    | _ => (decMagnitude l).map (DecVal.fin false)

/-- The code of a value in a binary format, and whether it was rounded (R77). -/
def DecVal.code (f : BFormat) : DecVal → Except Nat (Nat × Bool)
  | .inf n => .ok (f.sgn n + f.inf, false)
  | .nan => .ok (f.defNan, false)
  | .fin n v =>
    if (f.mag f.maxCode).lt v then .error 306
    else
      let r := f.put .rne n v
      .ok (r.1, r.2 != 0)

/-- The value as a number format converts it. -/
def DecVal.val : DecVal → FVal
  | .inf n => .inf n
  | .nan => .nan false (2 ^ 51)
  | .fin n v => .fin n v

end Sys2Proof.Machine
end

