-- ==== Sys2Proof/Machine/Cap.lean ====
section
/-! DEFINITION. The fields of a capability and its pointer form (02 R55 to R57), and the arithmetic of representable
lengths (05 R136). -/

namespace Sys2Proof.Machine

/-- BASE. -/
def capBase (q : Quad) : Nat := (q.extractLsb' 0 44).toNat
/-- OFFSET, a 40-bit two's complement field (R140). -/
def capOffset (q : Quad) : Int := (q.extractLsb' 44 40).toInt
/-- LMANT. -/
def capMant (q : Quad) : Nat := (q.extractLsb' 84 24).toNat
/-- LEXP. -/
def capExp (q : Quad) : Nat := (q.extractLsb' 108 5).toNat
/-- SPACE. -/
def capSpace (q : Quad) : Nat := (q.extractLsb' 113 4).toNat
/-- LD. -/
def capLD (q : Quad) : Bool := q.getLsbD 117
/-- ST. -/
def capST (q : Quad) : Bool := q.getLsbD 118
/-- EX. -/
def capEX (q : Quad) : Bool := q.getLsbD 119
/-- CLD. -/
def capCLD (q : Quad) : Bool := q.getLsbD 120
/-- CST. -/
def capCST (q : Quad) : Bool := q.getLsbD 121
/-- SND. -/
def capSND (q : Quad) : Bool := q.getLsbD 122
/-- CHK. -/
def capCHK (q : Quad) : Bool := q.getLsbD 123
/-- GLB. -/
def capGLB (q : Quad) : Bool := q.getLsbD 124
/-- The length in bytes (R56). -/
def capLen (q : Quad) : Nat := capMant q * 2 ^ capExp q
/-- The cursor, modulo 2^44. -/
def capCursor (q : Quad) : Nat := (((capBase q : Int) + capOffset q) % 2 ^ 44).toNat

/-- A capability from its fields. -/
def mkCap (perm8 : BitVec 8) (space lexp mant : Nat) (off : Int) (base : Nat) : Quad :=
  ((((((0#3 ++ perm8 : BitVec 11) ++ BitVec.ofNat 4 space : BitVec 15) ++ BitVec.ofNat 5 lexp : BitVec 20)
    ++ BitVec.ofNat 24 mant : BitVec 44) ++ BitVec.ofInt 40 off : BitVec 84) ++ BitVec.ofNat 44 base : BitVec 128)

/-- The permissions [124:117], LD lowest. -/
def capPerms (q : Quad) : BitVec 8 := q.extractLsb' 117 8

/-- The same capability with another OFFSET. -/
def capWithOffset (q : Quad) (off : Int) : Quad :=
  (q &&& ~~~(((1#128 <<< 40) - 1) <<< 44)) ||| ((BitVec.ofInt 40 off).setWidth 128 <<< 44)

/-- The same capability with its cursor at an address. -/
def capAt (q : Quad) (addr : Nat) : Quad := capWithOffset q ((addr : Int) - capBase q)

/-- The pointer form of an address in a space (R57). -/
def pointer (space addr : Nat) (pol : Nat := 0) : Lane :=
  BitVec.ofNat 64 (space % 16 * 2 ^ 60 + pol % 4 * 2 ^ 58 + addr % 2 ^ 44)

/-- The pointer form of the aligned 8-byte word k bytes on from that of a pointer form. DEDUCED (log 29). -/
def wordPointer (p : Lane) (k : Nat) : Lane := (p >>> 3 <<< 3) + BitVec.ofNat 64 k

/-- The pointer form of a capability's cursor. -/
def capPointer (q : Quad) (pol : Nat := 0) : Lane := pointer (capSpace q) (capCursor q) pol

/-- The least exponent e at most 31 with ceil(L / 2^e) at most 2^24 - 1 (R136). -/
def fitExp (len : Nat) : Nat := ((List.range 32).find? (fun e => (len + 2 ^ e - 1) / 2 ^ e < 2 ^ 24)).getD 31

/-- Fit of R136: the exponent and the mantissa. -/
def fit (len : Nat) : Nat × Nat := (fitExp len, (len + 2 ^ fitExp len - 1) / 2 ^ fitExp len)

end Sys2Proof.Machine
end

