-- ==== Sys2Proof/Machine/Route.lean ====
section
/-! DEFINITION. Ways over a die's tile mesh (11 R278, R280 to R283, R285, R466). A tile is 12y + x. -/

namespace Sys2Proof.Machine

/-- A way: router and skip hops, each counted once, and their cost in cycles (R285). -/
structure Trip where
  hops : Nat
  cost : Nat
  deriving DecidableEq, Repr

/-- One way behind another. -/
def Trip.then_ (a b : Trip) : Trip := ⟨a.hops + b.hops, a.cost + b.cost⟩

/-- Whether a router is powered. -/
def alive (off : List Nat) (x y : Nat) : Bool := x < 12 && y < 12 && !off.contains (12 * y + x)

/-- The numbers from a to b, in order. -/
def line (a b : Nat) : List Nat :=
  if a ≤ b then (List.range (b - a + 1)).map (a + ·) else (List.range (a - b + 1)).map (a - ·)

/-- The rows of a column that are reached, from those entered, along the rows `ys`. -/
def columnReach (off : List Nat) (x : Nat) (ys entered : List Nat) : List Nat :=
  (ys.foldl (fun (a : List Nat × Bool) y =>
    let ok := (a.2 || entered.contains y) && alive off x y
    (if ok then a.1 ++ [y] else a.1, ok)) ([], false)).1

/-- Does some path of north, east and south hops that reduce the distance join two tiles (R281)? -/
def eastReach (off : List Nat) (x y x2 y2 : Nat) : Bool :=
  x ≤ x2 && ((line x x2).foldl (fun (e : List Nat) c => columnReach off c (line y y2) e) [y]).contains y2

/-- A hop over three routers is intact (R278). -/
def skipOk (off : List Nat) (x y : Nat) (dx dy : Int) : Bool :=
  [1, 2, 3, 4].all (fun (k : Nat) => alive off ((x : Int) + k * dx).toNat ((y : Int) + k * dy).toNat
    && 0 ≤ (x : Int) + k * dx && 0 ≤ (y : Int) + k * dy)

/-- The number of free permits by which a router chooses, the candidates in the order that breaks ties (R280). -/
def mostFree {α : Type} (free : α → Nat) : List α → Option α
  | [] => none
  | a :: r => match mostFree free r with
    | some b => if free a < free b then some b else some a
    | none => some a

/-- The hops after the west leg, each with its cost: among those that still reach the destination the one whose router has the
most free permits, ties in the order skip, north, east, south (R280). -/
def eastPath (off : List Nat) (free : Nat → Nat) (x2 y2 : Nat) : Nat → Nat → Nat → Option (List (Nat × Nat))
  | 0, _, _ => none
  | fuel + 1, x, y =>
    if x = x2 && y = y2 then some []
    else
      let go (ok : Bool) (cost x' y' : Nat) : Option (Nat × Nat × Nat) :=
        if ok && eastReach off x' y' x2 y2 then some (cost, x', y') else none
      let next := [go (y + 4 ≤ y2 && skipOk off x y 0 1) 3 x (y + 4),
                   go (x + 4 ≤ x2 && skipOk off x y 1 0) 3 (x + 4) y,
                   go (y2 + 4 ≤ y && skipOk off x y 0 (-1)) 3 x (y - 4),
                   go (y < y2) 2 x (y + 1), go (x < x2) 2 (x + 1) y, go (y2 < y) 2 x (y - 1)].filterMap id
      match mostFree (fun (n : Nat × Nat × Nat) => free (12 * n.2.2 + n.2.1)) next with
      | none => none
      | some (c, x', y') => (eastPath off free x2 y2 fuel x' y').map (fun l => (12 * y' + x', c) :: l)

/-- The west leg: a skip where four hops remain, the skip is intact and its router has no fewer free permits. -/
def westPath (off : List Nat) (free : Nat → Nat) (y x2 : Nat) : Nat → Nat → Option (List (Nat × Nat))
  | 0, _ => none
  | fuel + 1, x =>
    let at_ (k : Nat) : Nat := 12 * y + (x - k)
    let hop (k c : Nat) : Option (List (Nat × Nat)) := (westPath off free y x2 fuel (x - k)).map (fun l => (at_ k, c) :: l)
    if x ≤ x2 then some []
    else if x2 + 4 ≤ x && skipOk off x y (-1) 0 && free (at_ 1) ≤ free (at_ 4) then hop 4 3
    else if alive off (x - 1) y then hop 1 2
    else none

/-- The default route between two tiles, if there is one (R280, R281): the tiles that it enters and the cost of each hop. -/
def defaultPath (off : List Nat) (free : Nat → Nat) (a b : Nat) : Option (List (Nat × Nat)) :=
  let x := a % 12
  let y := a / 12
  let xw := min x (b % 12)
  match westPath off free y xw 12 x with
  | none => none
  | some w => (eastPath off free (b % 12) (b / 12) 24 xw y).map (w ++ ·)

/-- Hops and cost of a path. -/
def tripOf (l : List (Nat × Nat)) : Trip := ⟨l.length, (l.map (·.2)).sum⟩

/-- The default route where every router has the same number of free permits. -/
def defaultTrip (off : List Nat) (a b : Nat) : Option Trip := (defaultPath off (fun _ => 0) a b).map tripOf

/-- The detour of R282: the legs through the first tile that has a default route from one and to the other. -/
def detourPath (off : List Nat) (free : Nat → Nat) (a b : Nat) : Option (List (Nat × Nat) × List (Nat × Nat)) :=
  (List.range 144).findSome? (fun m =>
    if off.contains m then none
    else match defaultPath off free a m, defaultPath off free m b with
      | some p, some q => some (p, q)
      | _, _ => none)

/-- The way of a packet that may take a detour (R282), with the leg behind the intermediate tile apart. -/
def tilePath (off : List Nat) (free : Nat → Nat) (a b : Nat) : Option (List (Nat × Nat) × List (Nat × Nat)) :=
  match defaultPath off free a b with
  | some t => some (t, [])
  | none => detourPath off free a b

/-- Hops and cost of a way that may take a detour. -/
def tileTrip (off : List Nat) (a b : Nat) : Option Trip :=
  (tilePath off (fun _ => 0) a b).map (fun p => (tripOf p.1).then_ (tripOf p.2))

/-- The legs of a packet over a die's mesh: by default routing, or by way of a detour's intermediate tile, behind which the second leg
is in the detour lane (R282). -/
def meshLegs (off : List Nat) (v t u : Nat) : Option (List Leg) :=
  if t = u then some []
  else
    match tilePath off (fun _ => 0) t u with
    | none => none
    | some (_, []) => some [.mesh v t u false]
    | some (p, _) => let m := (p.getLast?.map (·.1)).getD u; some [.mesh v t m false, .mesh v m u true]

/-- Neither default route nor detour, out or back (R282). -/
def noPath (off : List Nat) (a b : Nat) : Bool :=
  a != b && !off.isEmpty && ((tileTrip off a b).isNone || (tileTrip off b a).isNone)

/-- The four attachments of the optical core: (5,5), (6,5), (5,6) and (6,6) (R466). -/
def attachments : List Nat := [65, 66, 77, 78]

/-- The attachment of a tile's quadrant (R466), or the first of the four whose router is powered. -/
def attachment (off : List Nat) (t : Nat) : Nat :=
  let q := 12 * (if t / 12 ≤ 5 then 5 else 6) + (if t % 12 ≤ 5 then 5 else 6)
  if off.contains q then (attachments.find? (fun u => !off.contains u)).getD q else q

/-- The step of a hop code (R81): east, north, length. -/
def hopStep (c : Fin 8) : Int × Int × Nat :=
  match c with
  | 0 => (0, 1, 1) | 1 => (1, 0, 1) | 2 => (0, -1, 1) | 3 => (-1, 0, 1)
  | 4 => (0, 1, 4) | 5 => (1, 0, 4) | 6 => (0, -1, 4) | 7 => (-1, 0, 4)

/-- A static route from a tile (R283): the tiles that it enters, each with the cost of its hop, or the detail of its refusal. -/
def routeHops (off : List Nat) : Route → Int → Int → Except Nat (List (Nat × Nat))
  | [], _, _ => .ok []
  | c :: r, x, y =>
    let (dx, dy, n) := hopStep c
    let x' := x + dx * n
    let y' := y + dy * n
    if x' < 0 || y' < 0 || 11 < x' || 11 < y' then .error 0x05
    else if (List.range n).any (fun k => !alive off (x + dx * (k + 1)).toNat (y + dy * (k + 1)).toNat) then .error 0x06
    else
      match routeHops off r x' y' with
      | .error e => .error e
      | .ok l => .ok (((12 * y' + x').toNat, if n = 4 then 3 else 2) :: l)

/-- Does a route break the west-first rule (R81)? -/
def breaksWest : Bool → Route → Bool
  | _, [] => false
  | turned, c :: r => let w := c == 3 || c == 7; (turned && w) || breaksWest (turned || !w) r

/-! ### The panel (R11 to R15, R284) -/

/-- A die position (R11). -/
abbrev Pos := Nat × Nat

/-- A position holds a compute die (R11). -/
def isCompute (p : Pos) : Bool := (p.1 + p.2) % 2 == 0
/-- The physical number of the die at a position, among the compute dies or the memory dies (R12, R208). -/
def physAt (p : Pos) : Nat := 8 * p.2 + p.1 / 2
/-- The position of a compute die (R12). -/
def computePos (d : Nat) : Pos := (2 * (d % 8) + d / 8 % 2, d / 8)
/-- The position of a memory die (R208). -/
def memoryPos (d : Nat) : Pos := (2 * (d % 8) + (1 + d / 8) % 2, d / 8)
/-- The power region of a position (R13). -/
def regionAt (p : Pos) : Nat := p.2 / 4 * 4 + p.1 / 4
/-- The position of the memory die to which a module port is attached (R15). -/
def portPos (q : Nat) : Pos :=
  if q < 8 then (2 * q + 1, 0) else if q < 16 then (15, 2 * (q - 8)) else if q < 24 then (2 * (q - 16), 15)
  else (0, 2 * (q - 24) + 1)

/-- The position beside one: north, east, south, west by 0 to 3 (R14). -/
def besidePos (p : Pos) (side : Nat) : Option Pos :=
  match side with
  | 0 => if p.2 < 15 then some (p.1, p.2 + 1) else none
  | 1 => if p.1 < 15 then some (p.1 + 1, p.2) else none
  | 2 => if 0 < p.2 then some (p.1, p.2 - 1) else none
  | _ => if 0 < p.1 then some (p.1 - 1, p.2) else none

/-- The side of a position at which another lies. -/
def sideOf (p q : Pos) : Nat := ([0, 1, 2, 3].find? (fun k => besidePos p k == some q)).getD 0

/-- The number of the die-to-die link between a compute die and the memory die beside it (R14): four for each compute die,
by its side. The manual numbers no link: DESIGN CHOICE (log 16). -/
def linkNumber (p q : Pos) : Nat := if isCompute p then 4 * physAt p + sideOf p q else 4 * physAt q + sideOf q p

/-- The tiles along a side of a die. -/
def edgeTiles (side : Nat) : List Nat :=
  (List.range 12).map (fun k => match side with | 0 => 132 + k | 1 => 12 * k + 11 | 2 => k | _ => 12 * k)

/-- The tile beside an edge slice (R19): slices 0 to 11 lie along the north edge, 12 to 23 along the south. Which edge has
the lower numbers is open: DESIGN CHOICE (log 16). -/
def sliceTile (n : Nat) : Nat := if n < 12 then 132 + n else n - 12

/-- Positions by their distance from those of the first layer. -/
def layers (nb : Pos → List Pos) : Nat → List Pos → List Pos → List (List Pos)
  | 0, _, _ => []
  | n + 1, seen, front =>
    if front.isEmpty then [] else front :: layers nb n (seen ++ front) ((front.flatMap nb).eraseDups.filter (fun p => !(seen ++ front).contains p))

/-- The steps that firmware prefers (R284): along vx, while the chain is in another column of the virtual grid than its end. -/
def vxFirst (p q : Pos) (next : List Pos) : List Pos :=
  let far (r : Pos) : Nat := (r.1 - q.1) + (q.1 - r.1)
  let l := next.filter (fun r => r.2 == p.2 && far r < far p)
  if p.1 / 2 == q.1 / 2 || l.isEmpty then next else l

/-- Firmware's chain from a position (R284): at each die it takes one of the steps that leave the chain no longer than the
steps that are left, along vx before vy, and never straight back. DESIGN CHOICE (log 16). -/
def chainFrom (nb : Pos → List Pos) (dist : Pos → Option Nat) (pick : Nat → Nat) (q : Pos) : Nat → Pos → Pos → List Pos
  | 0, _, p => [p]
  | left + 1, back, p =>
    if p = q then [p]
    else
      let within (n : Nat) (r : Pos) : Bool := match dist r with | some d => d ≤ n | none => false
      let next := vxFirst p q ((nb p).filter (fun r =>
        r != back && within left r && (r == q || (nb r).any (fun x => x != p && within (left - 1) x))))
      match next[pick left % next.length]? with
      | some r => p :: chainFrom nb dist pick q left p r
      | none => [p]

end Sys2Proof.Machine
end

