-- ==== Sys2Proof/Machine/Ops.lean ====
section
/-! DEFINITION. The named operations over the state: lists and memory, strands and groups, registers, time, taking a
trap and returning from one (15 R396 to R400), and the issue of an instruction (02 R45, R46). -/

namespace Sys2Proof.Machine

/-! ### Lists -/

/-- The last value stored under a key, or a default. -/
def lookD {α β : Type} [BEq α] (l : List (α × β)) (k : α) (d : β) : β := (l.lookup k).getD d

/-- Replace or add the value of a key. -/
def insertKey {α β : Type} [BEq α] (l : List (α × β)) (k : α) (v : β) : List (α × β) :=
  match l with
  | [] => [(k, v)]
  | (k', v') :: r => if k' == k then (k, v) :: r else (k', v') :: insertKey r k v

/-- Change every element a test picks. -/
def updateWhere {α : Type} (p : α → Bool) (f : α → α) (l : List α) : List α :=
  l.map (fun a => if p a then f a else a)

/-- Change the first element a test picks. -/
def updateFirst {α : Type} (p : α → Bool) (f : α → α) : List α → List α
  | [] => []
  | a :: r => if p a then f a :: r else a :: updateFirst p f r

/-- Insert a number into a rising list. -/
def insertNat (n : Nat) : List Nat → List Nat
  | [] => [n]
  | m :: r => if n < m then n :: m :: r else if n = m then m :: r else m :: insertNat n r

/-! ### Memory in canonical form (MEMORY; 08 R196, and log entry 5) -/

/-- What an unlisted address reads as. DESIGN CHOICE (log 5). -/
def unlisted : Byte := 0

/-- The byte at an address. DESIGN CHOICE (log 5). -/
def Memory.read (m : Memory) (a : Nat) : Byte :=
  match m with
  | [] => unlisted
  | (k, b) :: r => if k = a then b else Memory.read r a

/-- Store a byte; an entry equal to what an unlisted address reads as is removed. DESIGN CHOICE (log 5). -/
def Memory.write (m : Memory) (a : Nat) (v : Byte) : Memory :=
  match m with
  | [] => if v = unlisted then [] else [(a, v)]
  | (k, b) :: r =>
    if a < k then (if v = unlisted then (k, b) :: r else (a, v) :: (k, b) :: r)
    else if a = k then (if v = unlisted then r else (a, v) :: r)
    else (k, b) :: Memory.write r a v

/-- Every key of the list is above a bound, rising, with no entry equal to an unlisted byte. -/
def Memory.sortedFrom (lo : Nat) : Memory → Bool
  | [] => true
  | (k, b) :: r => lo ≤ k && b != unlisted && Memory.sortedFrom (k + 1) r

/-- The canonical form. DESIGN CHOICE (log 5). -/
def Memory.wf (m : Memory) : Bool := Memory.sortedFrom 0 m

/-- n bytes from an address, lowest first. -/
def Memory.reads (m : Memory) (a : Nat) : Nat → List Byte
  | 0 => []
  | n + 1 => m.read a :: Memory.reads m (a + 1) n

/-- Store bytes at rising addresses. -/
def Memory.writes (m : Memory) (a : Nat) : List Byte → Memory
  | [] => m
  | b :: r => Memory.writes (m.write a b) (a + 1) r

/-- The number that bytes spell, little-endian (R2). -/
def natOfBytes : List Byte → Nat
  | [] => 0
  | b :: r => b.toNat + 256 * natOfBytes r

/-- A register value from bytes. -/
def quadOfBytes (l : List Byte) : Quad := BitVec.ofNat 128 (natOfBytes l)

/-- The low n bytes of a register value. -/
def quadBytes (n : Nat) (q : Quad) : List Byte := bytesOfNat n q.toNat

/-! ### The running strand and its group -/

/-- The strand that issues. -/
def State.st (s : State) : Strand := s.g.st[s.slot]
/-- A group with one strand changed. -/
def Group.setSt (g : Group) (k : Fin 8) (t : Strand) : Group := { g with st := g.st.set k.val t k.isLt }
/-- Change a strand of a group. -/
def Group.modSt (g : Group) (k : Fin 8) (f : Strand → Strand) : Group := g.setSt k (f g.st[k])
/-- Change the strand that issues. -/
def State.modSt (s : State) (f : Strand → Strand) : State := { s with g := s.g.modSt s.slot f }
/-- Change the group whose tile issues. -/
def State.modG (s : State) (f : Group → Group) : State := { s with g := f s.g }
/-- The identity of the strand that issues. -/
def State.me (s : State) : StrandId := ⟨s.g.gid, s.slot⟩
/-- A group by name. -/
def State.group? (s : State) (i : GroupId) : Option Group :=
  if s.g.gid = i then some s.g else s.others.find? (fun g => g.gid == i)
/-- Change a group by name. -/
def State.modGroup (s : State) (i : GroupId) (f : Group → Group) : State :=
  if s.g.gid = i then { s with g := f s.g }
  else { s with others := updateFirst (fun g => g.gid == i) f s.others }
/-- Every group. -/
def State.groups (s : State) : List Group := s.g :: s.others
/-- Change every group. -/
def State.mapGroups (s : State) (f : Group → Group) : State := { s with g := f s.g, others := s.others.map f }
/-- Bring a group to the front, so that its tile issues. DESIGN CHOICE (log 53). -/
def State.focus (s : State) (i : GroupId) : State :=
  if s.g.gid = i then s
  else
    match s.others.find? (fun g => g.gid == i) with
    | none => s
    | some h => { s with g := h, others := s.g :: s.others.filter (fun g => g.gid != i) }
/-- A strand by name. -/
def State.strand? (s : State) (w : StrandId) : Option Strand := (s.group? w.g).map (fun g => g.st[w.slot])
/-- Change a strand by name. -/
def State.modStrand (s : State) (w : StrandId) (f : Strand → Strand) : State :=
  s.modGroup w.g (fun g => g.modSt w.slot f)
/-- The slots of a group. -/
def slots : List (Fin 8) := [0, 1, 2, 3, 4, 5, 6, 7]
/-- The strands of a group with their slots. -/
def Group.strands (g : Group) : List (Fin 8 × Strand) := slots.map (fun k => (k, g.st[k]))
/-- Change every strand of a group. -/
def Group.mapSt (g : Group) (f : Strand → Strand) : Group := { g with st := Vector.ofFn (fun (k : Fin 8) => f g.st[k]) }

/-- How often a word has been marked full (R272). -/
def Group.marksOf (g : Group) (word : Nat) : Nat := lookD g.marks word 0

/-- Mark a word of a group's scratchpad full or empty; its home reports a change to the strands refused there (R204). -/
def Group.setFull (g : Group) (word : Nat) (full : Bool) : Group :=
  let g := if full then { g with marks := insertKey g.marks word (g.marksOf word + 1) } else g
  if g.spEmpty.contains word != full then g
  else
    let tell (t : Strand) : Strand := match t.prog with
      | .refused n at_ x c => { t with prog := .refused n at_ x (c || x == word) }
      | _ => t
    { g.mapSt tell with spEmpty := if full then g.spEmpty.filter (· != word) else insertNat word g.spEmpty }

/-- A launch by number. -/
def State.launch? (s : State) (n : Nat) : Option Launch := s.launches.find? (fun l => l.num == n)
/-- Change a launch. -/
def State.modLaunch (s : State) (n : Nat) (f : Launch → Launch) : State :=
  { s with launches := updateFirst (fun l => l.num == n) f s.launches }
/-- The launch of the issuing strand. -/
def State.myLaunch (s : State) : Option Launch := s.launch? s.g.gid.launch
/-- DET of the issuing strand's launch (R25). -/
def State.det (s : State) : Bool := (s.myLaunch.map (·.det)).getD false
/-- A virtual die. -/
def State.die? (s : State) (v : Nat) : Option Die := s.dies.find? (fun d => d.v == v)
/-- Change a die. -/
def State.modDie (s : State) (v : Nat) (f : Die → Die) : State :=
  { s with dies := updateFirst (fun d => d.v == v) f s.dies }
/-- The virtual die of a group. -/
def Group.die (g : Group) : Nat := (g.place.map (·.die)).getD g.homeDie
/-- A tenant. -/
def State.tenant? (s : State) (n : Nat) : Option Tenant := s.tenants.find? (fun t => t.num == n)
/-- Change a tenant. -/
def State.modTenant (s : State) (n : Nat) (f : Tenant → Tenant) : State :=
  { s with tenants := updateFirst (fun t => t.num == n) f s.tenants }
/-- The tenant of the issuing strand. -/
def State.myTenant (s : State) : Nat := (s.myLaunch.map (·.tenant)).getD 0
/-- Physical compute die at the grid (R12): the power region of a physical number (R13). -/
def regionOfPhys (d : Nat) : Nat := (d / 8 / 4) * 4 + (2 * (d % 8) + d / 8 % 2) / 4
/-- The power region of a virtual die. -/
def State.regionOf (s : State) (v : Nat) : Nat := regionOfPhys (((s.die? v).map (·.phys)).getD v) % 16
/-- A region. -/
def State.region (s : State) (k : Nat) : Region := s.regions[k % 16]'(Nat.mod_lt _ (by decide))
/-- Change a region. -/
def State.modRegion (s : State) (k : Nat) (f : Region → Region) : State :=
  { s with regions := s.regions.set (k % 16) (f (s.region k)) (Nat.mod_lt _ (by decide)) }

/-- A fresh number for a free value. -/
def State.tick (s : State) : Nat × State := (s.fresh, { s with fresh := s.fresh + 1 })
/-- A fresh message number. -/
def State.newId (s : State) : Nat × State := (s.nextId, { s with nextId := s.nextId + 1 })

/-- The highest step that the margin plan permits a region once the start is over (R440, R453). DEDUCED (log 61). -/
def State.permitted (s : State) (k : Nat) : Nat :=
  if s.dev.stage < 3 then 0 else ((s.dev.plan.find? (fun m => m.region == k)).map (·.step)).getD 0
/-- The clock step of a tile (R449), no faster than its region's margin plan permits (R440). DEDUCED (log 61). -/
def State.stepOf (s : State) (v tile : Nat) : Nat :=
  let k := s.regionOf v
  let r := s.region k
  let t := ((s.die? v).map (fun d => lookD d.tsteps tile 0)).getD 0
  max (max (max t r.floor) (s.permitted k)) (if r.reduced || s.now < r.throttleEnd then 8 else 0)
/-- Ticks in one cycle of the issuing tile. -/
def State.cyc (s : State) : Nat :=
  match s.g.place with
  | none => Config.cycleTicks
  | some p => Config.stepTicks (s.stepOf p.die p.tile)
/-- Ticks in a cycle of a group's tile. -/
def State.cycOf (s : State) (g : Group) : Nat := ({ s with g := g }).cyc
/-- Ticks in a cycle of the tile of a named group. -/
def State.cycAt (s : State) (i : GroupId) : Nat := ((s.group? i).map s.cycOf).getD Config.cycleTicks

/-! ### Registers (R47 to R51) -/

/-- The cell of a register as an instruction issued now sees it; c0 and the ports read as zero and full. -/
def State.cell (s : State) (r : Reg) : RegCell :=
  match r with
  | .c n => if n.val = 0 then {} else s.st.c[n]
  | .s n => s.g.sr[n]
  | .sp => s.st.sp
  | .ra => s.st.ra
  | .link _ => {}

/-- Set the cell of a private register of a strand. -/
def Strand.setCell (t : Strand) (r : Reg) (x : RegCell) : Strand :=
  match r with
  | .c n => if n.val = 0 then t else { t with c := t.c.set n.val x n.isLt }
  | .sp => { t with sp := x }
  | .ra => { t with ra := x }
  | _ => t

/-- Is c_n in MBOX (R53)? -/
def Strand.isMbox (t : Strand) (n : Fin 48) : Bool := n.val != 0 && t.mbox.getLsbD n.val

/-- The stream descriptor of a register of the issuing strand. -/
def State.stream? (s : State) (n : Fin 48) : Option StreamD :=
  s.g.streams.find? (fun d => d.reg == n && d.owner == s.st.serial)

/-- Units of a stream: elements or strips (R261). -/
def StreamD.units (d : StreamD) : Nat := d.count0 * max 1 d.count1 / (if d.strip then 8 else 1)
/-- Room of an output stream's buffer and depth of an input's, in units (R262). -/
def StreamD.depth : Nat := 4

/-- The port across from a port (R41). -/
def oppPort : Port → Port
  | .north => .south | .east => .west | .south => .north | .west => .east
/-- The index of a port. -/
def portIdx : Port → Fin 4
  | .north => 0 | .east => 1 | .south => 2 | .west => 3

/-- The logical neighbour across a port: tile number, or none at the die edge (R287). -/
def neighbourTile (t : Nat) : Port → Option Nat
  | .north => if t / 12 < 11 then some (t + 12) else none
  | .south => if 0 < t / 12 then some (t - 12) else none
  | .east => if t % 12 < 11 then some (t + 1) else none
  | .west => if 0 < t % 12 then some (t - 1) else none

/-- A tile is excused (R321). -/
def Die.excused (d : Die) (t : Nat) : Bool := d.excuse.getLsbD t
/-- A tile of a die of the state is excused. -/
def State.excusedTile (s : State) (die t : Nat) : Bool := ((s.die? die).map (fun d => d.excused t)).getD false

/-- The group across a port of a group: one of its launch that holds the logical tile, which is not excused (R52, R287). -/
def State.neighbour (s : State) (g : Group) (p : Port) : Option Group :=
  match neighbourTile g.logical p with
  | none => none
  | some t =>
    if s.excusedTile g.homeDie t then none
    else s.groups.find? (fun h => h.gid.launch == g.gid.launch && h.logical == t && h.homeDie == g.homeDie
      && (h.state == .resident || h.state == .swapping) && h.gid != g.gid)

/-- Routers of a die that are off. -/
def State.offOn (s : State) (v : Nat) : List Nat := ((s.die? v).map (·.off)).getD []

/-- No way joins two groups of one die (R282). -/
def State.cutOff (s : State) (a b : Group) : Bool :=
  match a.place, b.place with
  | some p, some q => p.die == q.die && noPath (s.offOn p.die) p.tile q.tile
  | _, _ => false

/-- Words a port's far FIFO holds or will hold (R52). -/
def State.portLoad (s : State) (h : GroupId) (p : Port) : Nat :=
  ((s.group? h).map (fun g => (g.links[portIdx (oppPort p)]).length)).getD 0
    + (s.linkWords.filter (fun w => w.dst == h && w.port == (oppPort p))).length

/-- Two tiles of one die are physically adjacent. -/
def adjacentTiles (a b : Nat) : Bool :=
  (a % 12 == b % 12 && (a / 12 == b / 12 + 1 || b / 12 == a / 12 + 1))
    || (a / 12 == b / 12 && (a % 12 == b % 12 + 1 || b % 12 == a % 12 + 1))

/-- Cycles by which a word pushed to a neighbour has arrived: 8 to a physically adjacent tile (R52, R195), else the
latency of its way over the mesh (R285, R287). -/
def State.linkBound (s : State) (h : Group) : Nat :=
  match s.g.place, h.place with
  | some p, some q =>
    if p.die == q.die && adjacentTiles p.tile q.tile then 8
    else 4 + ((tileTrip (s.offOn p.die) p.tile q.tile).map (·.cost)).getD 0
  | _, _ => 8

/-- The cycle of the slower of a word's two tiles (R452). -/
def State.linkCyc (s : State) (h : Group) : Nat := max s.cyc (s.cycOf h)
/-- When a word pushed now has arrived at the latest: no sooner than those of its port that were pushed before it. -/
def State.linkDue (s : State) (h : Group) (p : Port) : Nat :=
  (s.linkWords.filter (fun w => w.dst == h.gid && w.port == oppPort p)).foldl (fun d w => max d w.due)
    (s.now + s.linkBound h * s.linkCyc h)
/-- The way of a word over the mesh, to a group whose tile is not adjacent (R287). -/
def State.linkTrail (s : State) (h : Group) (p : Port) : Option Trail :=
  match s.g.place, h.place with
  | some a, some b =>
    if a.die == b.die && adjacentTiles a.tile b.tile then none
    else
      let pair := (s.linkWords.filter (fun w => w.dst == h.gid && w.port == oppPort p)).getLast?.bind (·.trail)
      some { legs := (meshLegs (s.offOn a.die) a.die a.tile b.tile).getD [], sub := pair.bind (·.sub), cyc := s.cyc, due := s.now + 2 * s.cyc }
  | _, _ => none

/-- Push words out of a port (R52). -/
def State.pushPort (s : State) (p : Port) (ws : List Quad) (from_ : Option (GroupId × Nat × Nat) := none) : State :=
  match s.neighbour s.g p with
  | none => s
  | some h => { s with linkWords := s.linkWords ++ ws.map (fun w =>
      ⟨h.gid, oppPort p, w, s.linkDue h p, from_, s.g.gid, s.linkCyc h, s.linkTrail h p⟩) }

/-- Push one unit into an output stream (R263). -/
def State.pushStream (s : State) (n : Fin 48) (v : Quad) : State :=
  let push (d : StreamD) : StreamD := if d.output then { d with moved := d.moved + 1, buffer := d.buffer ++ [v] } else d
  s.modG (fun g => { g with streams := updateFirst (fun d => d.reg == n && d.owner == s.st.serial) push g.streams })

/-- Write a register at the end of an instruction, or when a late result arrives: full, with its tag; c0 discards; a
port pushes; a stream register pushes or discards; s0 to s7 become visible 4 cycles later (R47 to R52, R263). -/
def State.writeReg (s : State) (r : Reg) (v : Quad) (tag : Bool := false) : State :=
  match r with
  | .c n =>
    if n.val = 0 then s
    else if (s.st.c[n]).stream then s.pushStream n v
    else s.modSt (fun t => t.setCell r { t.c[n] with v := v, tag := tag, full := true, out := false, poison := none })
  | .s n =>
    { s with g := { s.g with
        sr := s.g.sr.set n.val { s.g.sr[n] with out := false } n.isLt
        swrites := s.g.swrites ++ [⟨s.now + 4 * s.cyc, n, { v := v, tag := tag }⟩] } }
  | .sp => s.modSt (fun t => { t with sp := { t.sp with v := v, tag := tag, full := true, out := false, poison := none } })
  | .ra => s.modSt (fun t => { t with ra := { t.ra with v := v, tag := tag, full := true, out := false, poison := none } })
  | .link p => s.pushPort p [v]

/-- Mark a register empty and outstanding at the issue of a long instruction (R50, R116). A poison mark of c0 to c47, sp and ra goes
with the issue; that of s0 to s7 stays until the value arrives. DESIGN CHOICE (log 60). -/
def State.markOut (s : State) (r : Reg) : State :=
  match r with
  | .c n =>
    if n.val = 0 || (s.st.c[n]).stream then s
    else s.modSt (fun t => t.setCell r { t.c[n] with full := false, out := true, tag := false, poison := none })
  | .s n =>
    { s with g := { s.g with
        sr := s.g.sr.set n.val { s.g.sr[n] with out := true } n.isLt
        swrites := s.g.swrites ++ [⟨s.now + 4 * s.cyc, n, { s.g.sr[n] with full := false, tag := false }⟩] } }
  | .sp => s.modSt (fun t => { t with sp := { t.sp with full := false, out := true, tag := false, poison := none } })
  | .ra => s.modSt (fun t => { t with ra := { t.ra with full := false, out := true, tag := false, poison := none } })
  | .link _ => s

/-- A group with the writes to s0 to s7 that are due made visible, and its CSR writes in force (R51, R427). -/
def Group.settle (g : Group) (t : Nat) : Group :=
  let due := g.swrites.filter (fun w => w.due ≤ t)
  let sr := due.foldl (fun (sr : Vector RegCell 8) w =>
    sr.set w.idx.val { w.cell with out := (sr[w.idx]).out, stream := false } w.idx.isLt) g.sr
  { g with sr := sr, swrites := g.swrites.filter (fun w => t < w.due) }

/-- The members of a pair (R54). -/
def pairRegs (k : Fin 24) : List Reg := [.c ⟨2 * k.val, by omega⟩, .c ⟨2 * k.val + 1, by omega⟩]
/-- The members of a quad (R54). -/
def quadRegs (k : Fin 12) : List Reg :=
  [.c ⟨4 * k.val, by omega⟩, .c ⟨4 * k.val + 1, by omega⟩, .c ⟨4 * k.val + 2, by omega⟩, .c ⟨4 * k.val + 3, by omega⟩]

/-- A predicate as it reads: p0 is 1 (R47). -/
def Strand.pred (t : Strand) (p : Pred) : Bool := p.val == 0 || t.p[p]
/-- Write a predicate; p0 ignores writes. -/
def State.writePred (s : State) (p : Pred) (v : Bool) : State :=
  if p.val = 0 then s else s.modSt (fun t => { t with p := t.p.set p.val v p.isLt })

/-! ### The program counter and traps -/

/-- pc, the cursor of FCAP (R129). -/
def Strand.pc (t : Strand) : Nat := capCursor t.fcap.v
/-- Move pc by a signed number of bytes. -/
def Strand.movePc (t : Strand) (d : Int) : Strand :=
  { t with fcap := { t.fcap with v := capWithOffset t.fcap.v (capOffset t.fcap.v + d) } }
/-- FCAP with its cursor 12 bytes on: what CALL writes into ra (R132). -/
def Strand.returnCap (t : Strand) : Quad := capWithOffset t.fcap.v (capOffset t.fcap.v + 12)

/-- The code of a cause (R62). -/
def Cause.code : Cause → Nat
  | .illegal => 0x01 | .priv => 0x02 | .captag => 0x03 | .capbound => 0x04 | .capperm => 0x05 | .xlate => 0x06
  | .align => 0x07 | .fpe => 0x08 | .empty => 0x09 | .syncretry => 0x0A | .watchdog => 0x0B | .causality => 0x0C
  | .undeclared => 0x0D | .conflict => 0x0E | .msglost => 0x0F | .pool => 0x10 | .copy => 0x11 | .mformat => 0x12
  | .software => 0x13 | .machine => 0x14 | .break_ => 0x15 | .outside => 0x16

/-- The place of a cause in the trap order (R46); EMPTY, ILLEGAL by state and PRIV come before any body. -/
def Cause.rank : Cause → Nat
  | .illegal => 3 | .priv => 2 | .empty => 4 | .captag => 5 | .capperm => 6 | .capbound => 7 | .align => 8
  | .outside => 9 | .xlate => 10 | .fpe => 11 | _ => 12

/-- The launch's code capability with its cursor at an address (R129): LD and EX over the linked text. A length that no capability
represents is rounded up. PRESUMED (log 15). DEDUCED (log 59). -/
def Launch.codeCap (l : Launch) (addr : Nat) : Quad :=
  let f := fit l.codeLen
  capAt (mkCap 0b00000101 Config.codeSpace f.1 f.2 0 l.codeBase) addr

/-- TRAPINFO of a trap (R61). -/
def Trap.info (t : Trap) (wh : Bool) : Lane :=
  BitVec.ofNat 64 ((if wh then 2 ^ 24 else 0) + t.detail % 256 * 65536 + t.lanes % 256 * 256 + t.cause.code)

/-- Take a trap on a strand (R396, R399): the shared operation of every trap. `pcv` is what TRAPPC holds; `code` is the
launch's code capability at the handler. A trap at depth 2 or with no handler is fatal and is no entry. -/
def Strand.enter (st : Strand) (t : Trap) (pcv : Lane) (code : Quad) : Strand :=
  { st with
    save := if st.depth = 0 then st.save else some ⟨st.trappc, st.trapinfo, st.trapval, st.rcap, st.pl⟩
    trapinfo := t.info st.whNext
    trapval := t.val
    trappc := pcv
    rcap := st.fcap
    pl := st.kernel
    kernel := true
    depth := st.depth + 1
    fcap := ⟨code, true⟩
    wdcount := 0
    wdFrom := none
    whNext := false
    again := none
    prog := .none
    consumed := false
    kept := []
    took := []
    spared := none
    walkWant := none
    walkFault := none
    awaitSig := none
    run := .ready }

/-- Is a trap of this strand fatal (R399)? -/
def Group.fatal (g : Group) (st : Strand) : Bool := st.depth ≥ 2 || (g.tvec.extractLsb' 2 42) == 0

/-- A trap for which the manual states no TRAPVAL. DESIGN CHOICE (log 7). -/
def Trap.unstated (t : Trap) : Bool :=
  match t.cause with
  | .illegal | .priv | .empty => true
  | .outside => 60 ≤ t.detail
  | _ => false

/-- The numbers in CPAUSE of the paused operations of a group that a test picks (R274). -/
def Group.pausedOps (g : Group) (f : Pause → Bool) : List Nat :=
  (g.streams.filter (fun d => (d.pause.map f).getD false)).map (·.num)
    ++ (g.ops.filter (fun o => (o.pause.map f).getD false)).map (fun o => o.num + 32)

/-- Take a trap on a named strand (R396, R399). A fatal trap logs the cause and asks for the launch's end (R468). -/
def State.trapStrand (s : State) (w : StrandId) (t : Trap) : State :=
  match s.group? w.g with
  | none => s
  | some g =>
    let st := g.st[w.slot]
    let pcv := BitVec.ofNat 64 st.pc
    let t := if t.unstated then { t with val := Config.trapValue s.fresh } else t
    let s := { s with fresh := s.fresh + 1 }
    if g.fatal st then
      let s := s.modLaunch w.g.launch (fun l => { l with cancelling := true })
      let tn := ((s.launch? w.g.launch).map (·.tenant)).getD 0
      let s := s.modTenant tn (fun x => { x with log := x.log ++ [.fatal t.cause.code pcv w.g.num] })
      s.modStrand w (fun st => { st with run := .ready, stopped := true, prog := .none, consumed := false, again := none,
                                          kept := [], took := [], spared := none })
    else
      let code := ((s.launch? w.g.launch).map (fun l => l.codeCap (g.tvec.extractLsb' 0 44).toNat)).getD 0
      s.modStrand w (fun st => st.enter t pcv code)

/-- Take a trap on the issuing strand. DESIGN CHOICE (log 7). DEDUCED (log 44). -/
def State.trap (s : State) (t : Trap) : State := s.trapStrand s.me t

/-- Return from a trap (R399, R400): level from PL, FCAP from RCAP at TRAPPC, or at TRAPPC + 12; leaving a second
handler restores the record. -/
def Strand.leave (st : Strand) (skip : Bool) : Strand :=
  let st1 := { st with
    kernel := st.pl
    depth := st.depth - 1
    fcap := ⟨capAt st.rcap.v (st.trappc.toNat + if skip then 12 else 0), st.rcap.tag⟩ }
  match st.depth, st.save with
  | 2, some r =>
    { st1 with trappc := r.pc, trapinfo := r.info, trapval := r.val, rcap := r.rcap, pl := r.pl, save := none }
  | _, _ => st1

/-! ### The issue of an instruction (R45, R46) -/

/-- How the body of an instruction ends. -/
inductive Res where
  /-- Done: the program counter moves on by 12. -/
  | ok (s : State)
  /-- Done, with the program counter as the body left it. -/
  | go (s : State)
  /-- A trap: nothing of the instruction remains but these flags; `sel` is the paused operation that it concerns (R274). -/
  | trap (t : Trap) (flags : Nat := 0) (sel : Option Nat := none)
  /-- Parked with no operand consumed; it issues again from the start. -/
  | park (w : Why) (s : State)
  /-- Parked after its operands were consumed. -/
  | parkC (w : Why) (s : State)
  /-- Done, with its strand as the body left it: paused, halted, moved away. -/
  | raw (s : State)

/-- What a source offers. -/
inductive Ready where
  | yes | no | bad (t : Trap)
  deriving DecidableEq, Repr

/-- The words of the port that earlier operands of the same instruction take (R52). -/
def portBefore (ops : List Opnd) (p : Port) : Nat :=
  ((ops.filter (fun o => o.r == .link p)).map (·.words)).sum

/-- Units of the stream that earlier operands of the same instruction take (R263). -/
def streamBefore (ops : List Opnd) (n : Fin 48) : Nat := (ops.filter (fun o => o.r == .c n)).length

/-- Is a source ready (R37, R52, R263, R402)? -/
def State.offers (s : State) (before : List Opnd) (o : Opnd) : Ready :=
  match o.r with
  | .link p =>
    match s.neighbour s.g p with
    | none => if o.trapEmpty && (s.g.links[(portIdx p)]).length < portBefore before p + o.words then .no
              else .bad ⟨.outside, 0, o.r.num, 0⟩
    | some _ => if (s.g.links[(portIdx p)]).length < portBefore before p + o.words then .no else .yes
  | .c n =>
    if (s.cell o.r).stream then
      match s.stream? n with
      | none => .yes
      | some d =>
        if d.output then .yes
        else if streamBefore before n < d.buffer.length then .yes
        else
          match d.pause with
          | some q => .bad ⟨q.cause, 0, q.detail, q.ptr⟩
          | none => if d.exhausted || d.units ≤ d.moved + streamBefore before n then .bad ⟨.copy, 0, 0x04, 0⟩ else .no
    else
      match (s.cell o.r).poison with
      | some ptr => .bad ⟨.machine, 0, 0x03, ptr⟩
      | none => if (s.cell o.r).full then .yes else .no
  | _ =>
    match (s.cell o.r).poison with
    | some ptr => .bad ⟨.machine, 0, 0x03, ptr⟩
    | none => if (s.cell o.r).full then .yes else .no

/-- What a source offers its instruction; a source of PREF traps in no case (R225). -/
def State.ready (s : State) (before : List Opnd) (o : Opnd) : Ready :=
  match s.offers before o with
  | .bad t => if o.lax then .yes else .bad t
  | .no => if o.lax && o.trapEmpty then .yes else .no
  | .yes => .yes

/-- The readiness of every source, each with those before it. DEDUCED (log 43). -/
def State.readies (s : State) : List Opnd → List Opnd → List (Opnd × Ready)
  | _, [] => []
  | before, o :: r => (o, s.ready before o) :: s.readies (before ++ [o]) r

/-- The second word of a 16-byte target. -/
def Target.up : Target → Target
  | .sp g off => .sp g (off + 8)
  | .mem key => .mem (key + 8)

/-- The register to which a message brings a value (R50); the upper word of LD.Q128 comes with the lower. -/
def Act.reg? : Act → Option Reg
  | .load _ d | .loadCap d _ | .amo _ _ _ d | .cas _ _ _ d => some d
  | .loadQ d hi => if hi then none else some d
  | .loadRest d _ _ => some d
  | _ => none

/-- Values on their way to a register of a group: in the block units, in a channel, on the way back (R50). -/
def State.comingTo (s : State) (r : Reg) : Nat :=
  (s.g.late.filter (fun l => l.dst == .reg r)).length
    + (s.chans.map (fun c => (c.2.filter (fun m => m.act.reg? == some r && (m.who.map (·.g)) == some s.g.gid)).length)).sum
    + (s.rets.filter (fun x => x.dst == r && x.who.g == s.g.gid && x.half != some true)).length

/-- Is a destination held back: outstanding, a port without room, a stream without room (R45, R50, R52, R263)? -/
def State.dstBusy (s : State) (r : Reg) (words : Nat := 1) : Bool :=
  match r with
  | .link p =>
    match s.neighbour s.g p with
    | none => false
    | some h => 64 < s.portLoad h.gid p + words + s.comingTo (.link p)
  | .c n =>
    if (s.cell r).stream then
      match s.stream? n with
      | some d => d.output && StreamD.depth ≤ d.buffer.length && d.pause.isNone && d.moved < d.units && !d.exhausted
      | none => false
    else (s.cell r).out
  | .s n => (s.g.sr[n]).out
  | _ => (s.cell r).out

/-- The trap a destination raises: a port that faces nothing, a stream written past its count or paused. -/
def State.dstBad (s : State) (r : Reg) : Option Trap :=
  match r with
  | .link p =>
    match s.neighbour s.g p with
    | none => some ⟨.outside, 0, r.num, 0⟩
    | some h => if s.cutOff s.g h then some ⟨.outside, 0, r.num, 0⟩ else none
  | .c n =>
    if (s.cell r).stream then
      match s.stream? n with
      | some d =>
        if !d.output then none
        else
          match d.pause with
          | some q => some ⟨q.cause, 0, q.detail, q.ptr⟩
          | none => if d.exhausted || d.units ≤ d.moved then some ⟨.copy, 0, 0x04, 0⟩ else none
      | none => none
    else none
  | _ => none

/-- The component of an order clock that dates the accesses of a copy-unit operation (R257). -/
def engineComp (uid : Nat) : Nat := 2 * uid + 1

/-- Read one source and pop what it pops: link words (with forward), a mailbox, a stream unit (R37, R45, R52, R263).
The values are the words popped, or the register's cell. -/
def State.pop (s : State) (o : Opnd) : List RegCell × State :=
  match o.r with
  | .link p =>
    let q := s.g.links[(portIdx p)]
    let ws := q.take o.words
    let s1 := s.modG (fun g => { g with links := g.links.set (portIdx p).val (q.drop o.words) (portIdx p).isLt })
    (ws.map (fun w => { v := w }), if o.fwd then s1.pushPort (oppPort p) ws (some (s.g.gid, s.st.serial, s.now)) else s1)
  | .c n =>
    let x := s.cell o.r
    if x.stream then
      match s.stream? n with
      | none => ([{ v := 0 }], s)
      | some d =>
        if d.output || d.buffer.isEmpty then ([{ v := 0 }], s)
        else
          let take (d : StreamD) : StreamD := { d with moved := d.moved + 1, buffer := d.buffer.drop 1 }
          let s := s.modG (fun g => { g with streams := updateFirst (fun d => d.reg == n && d.owner == s.st.serial) take g.streams })
          let s := if s.det then s.modSt (fun t => { t with clock := insertKey t.clock (engineComp d.uid) (d.moved + 1) }) else s
          ([{ v := d.buffer.headD 0 }], s)
    else if s.st.isMbox n then ([x], s.modSt (fun t => t.setCell o.r { x with full := false }))
    else ([x], s)
  | _ => ([s.cell o.r], s)

/-- Read every source in order. -/
def State.pops (s : State) : List Opnd → List RegCell × State
  | [] => ([], s)
  | o :: r =>
    let a := s.pop o
    let b := a.2.pops r
    (a.1 ++ b.1, b.2)

/-- Put back what a parked instruction has read (R45): its cells, FIFOs, streams and forwarded words as before. -/
def State.unpop (s2 s : State) (ops : List Opnd) : State :=
  ops.foldl (fun x o =>
    match o.r with
    | .link _ => { x with g := { x.g with links := s.g.links }, linkWords := s.linkWords }
    | .c n =>
      if (s.cell o.r).stream then
        ({ x with g := { x.g with streams := s.g.streams } }).modSt (fun t => { t with clock := s.st.clock })
      else if s.st.isMbox n then x.modSt (fun t => t.setCell o.r (s.cell o.r)) else x
    | _ => x) s2

/-- Where the issue of an instruction goes beyond its operands. -/
structure Issue where
  konly : Bool := false
  /-- ILLEGAL by state (R43's second table), from the state. -/
  ill : State → Option Nat := fun _ => none
  /-- The words pushed to a link destination. -/
  dwords : Nat := 1
  /-- A forward target's room, besides. -/
  busy : State → Bool := fun _ => false

/-- The words that the sources forward out of a port (R52). -/
def fwdWords (ops : List Opnd) (p : Port) : Nat :=
  ((ops.filter (fun o => o.fwd && o.r == .link (oppPort p))).map (·.words)).sum

/-- A forward target has no room for the words forwarded, and for D where it names the same port (R41, R52). -/
def State.fwdBusy (s : State) (ops : List Opnd) (dsts : List Reg) (dwords : Nat) : Bool :=
  [Port.north, .east, .south, .west].any (fun p =>
    fwdWords ops p != 0 && s.dstBusy (.link p) (fwdWords ops p + if dsts.contains (.link p) then dwords else 0))

/-- The traps of forward targets that face nothing (R52). -/
def State.fwdBad (s : State) (ops : List Opnd) : List Trap :=
  ops.filterMap (fun o => match o.r with
    | .link p => if o.fwd then s.dstBad (.link (oppPort p)) else none
    | _ => none)

/-- A strand that goes on to its next instruction: the phase of the one it has done is over. -/
def Strand.step12 (t : Strand) : Strand :=
  { t.movePc 12 with prog := .none, consumed := false, again := none, kept := [], took := [], spared := none
                     run := .ready, whNext := false, walkFault := none }
/-- A strand that goes on at the pc a branch set. -/
def Strand.stepGo (t : Strand) : Strand :=
  { t with prog := .none, consumed := false, again := none, kept := [], took := [], spared := none
           run := .ready, whNext := false, walkFault := none }

/-- Parks at a yield point (R351). -/
def Why.yields : Why → Bool
  | .operands | .absent | .sync | .barrier | .inpeek | .signal _ _ | .rbar | .gbar | .join | .dequeFull | .lwait | .take
  | .put | .psync | .notify | .rejoin | .undoLog | .yieldFence | .yieldMessages => true
  | _ => false
/-- Committed parks (R404). -/
def Why.committed : Why → Bool
  | .pinit | .launchCopy | .portCopy | .commit => true
  | _ => false

/-- An access of the instruction has been performed, or turned away. -/
def Prog.ended : Prog → Bool
  | .answered _ _ _ _ | .failed _ _ _ => true
  | _ => false
/-- The instruction is under way: its operands were ready when it began (R204, R228, R248, R272). -/
def Prog.came : Prog → Bool
  | .none | .starting | .committing => false
  | _ => true

/-- The strand stands between two instructions. -/
def Strand.between (t : Strand) : Bool := t.again.isNone && t.prog == .none && !t.consumed
/-- The strand stands between two instructions, or in a park that is abandoned for a trap (R352, R403). -/
def Strand.leaves (t : Strand) : Bool :=
  match t.again with
  | some y => !y.yields && !y.committed && !t.prog.ended
  | none => t.between
/-- The instruction of a strand waits in a fence or for its messages: MSGLOST is taken at it (R295). -/
def Strand.fencing (t : Strand) : Bool :=
  match t.again with
  | some .fence | some .ofence | some .messages | some .yieldFence | some .yieldMessages => true
  | _ => false

/-- The watchdog count at a time, in cycles since the tile's clock step last changed (R352). DEDUCED (log 22). -/
def Strand.count (t : Strand) (now cyc : Nat) : Nat := t.wdcount + ((t.wdFrom.map (fun f => (now - f) / cyc)).getD 0)
/-- Park: the count is cleared at a yield point, stands in a committed park, and runs on in any other (R352). -/
def Strand.park (t : Strand) (w : Why) (now cyc : Nat) : Strand :=
  { t with
    run := .parked w
    again := some w
    wdcount := if w.yields then 0 else t.count now cyc
    wdFrom := if w.yields || w.committed then none else some now }

/-- The end of an instruction. DEDUCED (log 28). -/
def State.finish (s : State) (ops : List Opnd) : Res → State
  | .ok s2 => s2.modSt Strand.step12
  | .go s2 => s2.modSt Strand.stepGo
  | .trap t fl sel =>
    ((s.modSt (fun st => { st with fcsr := st.fcsr ||| BitVec.ofNat 64 fl })).modG
      (fun g => { g with cpsel := sel.getD g.cpsel })).trap t
  | .park w s2 => (s2.unpop s ops).modSt (fun st => st.park w s.now s.cyc)
  | .raw s2 => s2
  | .parkC w s2 => s2.modSt (fun st => { st.park w s.now s.cyc with
      consumed := true
      took := if s.st.consumed then st.took else ops
      kept := if s.st.consumed then st.kept else (s.pops ops).1 })

/-- The lower-ranked of a deferred trap and what the body answers (R46); a body that waits for a walk may yet trap XLATE. -/
def Res.defer (d : Option Trap) (sel : Option Nat) (r : Res) : Res :=
  match d with
  | none => r
  | some t =>
    match r with
    | .trap u fl n => if u.cause.rank ≤ t.cause.rank then .trap u fl n else .trap t 0 sel
    | .park .walk s => if Cause.xlate.rank < t.cause.rank then .park .walk s else .trap t 0 sel
    | _ => .trap t 0 sel

/-- The lowest-numbered paused stream among some registers whose pause a trap reports: a COPY trap, or a CONFLICT or MACHINE
trap that its reader or writer receives in its place, writes it to CPAUSE.SEL (R257, R274, R402). DEDUCED (log 28). -/
def State.concerned (s : State) (l : List Reg) (t : Trap) : Option Nat :=
  let same (p : Pause) : Bool := p.cause == t.cause && p.detail == t.detail && p.ptr == t.val
  let nums := l.filterMap (fun r => match r with
    | .c n => if (s.cell r).stream then (s.stream? n).bind (fun d => if (d.pause.map same).getD false then some d.num else none) else none
    | _ => none)
  match nums with
  | [] => none
  | n :: r => some (r.foldl min n)

/-- The first of the lowest rank among traps (R46). -/
def worst : List Trap → Option Trap
  | [] => none
  | t :: r =>
    match worst r with
    | some u => if u.cause.rank < t.cause.rank then some u else some t
    | none => some t

/-- The traps of sources that can never be ready. -/
def badSources (l : List (Opnd × Ready)) : List Trap :=
  l.filterMap (fun x => match x.2 with | .bad t => some t | _ => none)
/-- The first source not ready under the trap policy (R37). -/
def firstEmpty (l : List (Opnd × Ready)) : Option Trap :=
  l.findSome? (fun x => match x.2 with
    | .no => if x.1.trapEmpty then some ⟨.empty, 0, x.1.field.getD x.1.r.num, 0⟩ else none
    | _ => none)
/-- Some source is not ready. -/
def anyNo (l : List (Opnd × Ready)) : Bool := l.any (fun x => match x.2 with | .no => true | _ => false)

/-- The guard's value (R36). -/
def Strand.guard (t : Strand) (h : Head) : Bool := t.pred h.gp != h.gn

/-- Issue an instruction (R44 to R46): level, guard, ILLEGAL by state, EMPTY, park, read, execute. The body sees the
values and the state with the pops made. ILLEGAL by state traps before the sources are tested for readiness, where R46 ranks
it, and so before any park. DEDUCED (log 21). DEDUCED (log 43). -/
def State.issue (s : State) (h : Head) (o : Issue) (ops : List Opnd) (dsts : List Reg)
    (body : List RegCell → State → Res) : State :=
  if o.konly && !s.st.kernel then s.trap ⟨.priv, 0, 0, 0⟩
  else if !s.st.guard h then s.modSt Strand.step12
  else if s.st.consumed then s.finish [] (body [] s)
  else if s.st.prog.came then
    if s.st.prog.ended && dsts.any (fun r => s.dstBusy r o.dwords) then s.modSt (fun st => st.park .operands s.now s.cyc)
    else s.finish ops (body (s.pops ops).1 (s.pops ops).2)
  else
    match o.ill s with
    | some d => s.trap ⟨.illegal, 0, d, 0⟩
    | none =>
      let rs := s.readies [] ops
      match firstEmpty rs with
      | some t => s.trap t
      | none =>
        if anyNo rs || dsts.any (fun r => s.dstBusy r o.dwords) || s.fwdBusy ops dsts o.dwords || o.busy s then
          s.modSt (fun st => st.park .operands s.now s.cyc)
        else
          let d := worst (badSources rs ++ s.fwdBad ops ++ dsts.filterMap s.dstBad)
          let p := s.pops ops
          s.finish ops ((body p.1 p.2).defer d (d.bind (s.concerned (ops.map (·.r) ++ dsts))))

/-! ### What the debugger records (17 to 21) -/

/-- Record in a wave trace (R465). -/
def State.traceWave (s : State) (n : WaveNote) : State :=
  if s.dbg.wtracing then { s with dbg := { s.dbg with waves := s.dbg.waves ++ [n] } } else s

/-- Record in the stream trace of a group (R465). -/
def State.traceStream (s : State) (g : GroupId) (n : StreamNote) : State :=
  if s.dbg.launch == some g.launch && s.dbg.streamRec == some g.num then
    { s with dbg := { s.dbg with streamLog := s.dbg.streamLog ++ [n] } }
  else s

/-- Record in the pool trace of the debugged launch (R462). -/
def State.tracePool (s : State) (pool die : Nat) (w : PoolWhat) (key payload : Lane := 0) : State :=
  match s.pools.find? (fun p => p.num == pool) with
  | none => s
  | some p =>
    if s.dbg.tracing && s.dbg.launch == some p.launch then
      { s with dbg := { s.dbg with ptrace := s.dbg.ptrace ++ [⟨pool, s.now - p.t0, die, w, key, payload⟩] } }
    else s

/-- Act as a named strand, then look again where the state looked before. -/
def State.atStrand (s : State) (w : StrandId) (f : State → State) : State :=
  let s1 := f { s.focus w.g with slot := w.slot }
  { s1.focus s.g.gid with slot := s.slot }

/-- Remember a destination before a checked access marks it. -/
def State.spare (s : State) (r : Reg) : State := s.modSt (fun t => { t with spared := some (r, s.cell r) })

/-- A destination as it was before a checked access marked it (R46, R228). -/
def State.unspare (s : State) : State :=
  match s.st.spared with
  | none => s
  | some (r, x) =>
    let s := s.modSt (fun t => { t with spared := none })
    match r with
    | .s n =>
      let old (w : SWrite) : Bool := w.idx != n || w.cell.full
      { s with g := { s.g with
          sr := s.g.sr.set n.val { s.g.sr[n] with out := false } n.isLt
          swrites := s.g.swrites.filter old ++ [⟨s.now + 4 * s.cyc, n, { x with out := false }⟩] } }
    | .link _ => s
    | _ => if (s.cell r).stream then s else s.modSt (fun t => t.setCell r x)

/-- Take the last words of a list that a test picks away again. -/
def dropLastWhere {α : Type} (p : α → Bool) (n : Nat) (l : List α) : List α :=
  let m := (l.filter p).length
  (l.foldl (fun (a : List α × Nat) x => if p x then (if a.2 + n < m then a.1 ++ [x] else a.1, a.2 + 1) else (a.1 ++ [x], a.2))
    ([], 0)).1

/-- Give back what an operand has popped: the words to the head of its FIFO, with those it forwarded and that have not arrived;
a mailbox that is still empty; a stream's unit (R45). -/
def State.giveBackOpnd (s : State) (o : Opnd) (ws : List RegCell) : State :=
  match o.r with
  | .link p =>
    let s := s.modG (fun g => { g with links := g.links.set (portIdx p).val (ws.map (·.v) ++ g.links[portIdx p]) (portIdx p).isLt })
    if o.fwd then
      let mine (w : LinkFly) : Bool := w.port == p && (w.from_.map (fun x => (x.1, x.2.1))) == some (s.g.gid, s.st.serial)
      { s with linkWords := dropLastWhere mine ws.length s.linkWords }
    else s
  | .c n =>
    if (s.cell o.r).stream then
      let back (d : StreamD) : StreamD :=
        if d.output then d else { d with moved := d.moved - 1, buffer := ws.map (·.v) ++ d.buffer }
      s.modG (fun g => { g with streams := updateFirst (fun d => d.reg == n && d.owner == s.st.serial) back g.streams })
    else if s.st.isMbox n && !(s.cell o.r).full then s.modSt (fun t => t.setCell o.r { t.c[n] with full := true })
    else s
  | _ => s

/-- Give back every operand, the last first. -/
def State.giveBackAll : List Opnd → List RegCell → State → State
  | [], _, s => s
  | o :: r, ws, s =>
    let n := match o.r with | .link _ => o.words | _ => 1
    (State.giveBackAll r (ws.drop n) s).giveBackOpnd o (ws.take n)

/-- A message leaves every channel. -/
def State.dropMsg (s : State) (id : Nat) : State :=
  let keep (c : ChanId × List Msg) : ChanId × List Msg := (c.1, c.2.filter (fun m => m.id != id))
  { s with chans := (s.chans.map keep).filter (fun c => !c.2.isEmpty) }

/-- The parked instruction of a strand is abandoned with nothing consumed (R45, R352, R403): an access that no home has
performed is withdrawn, its operands and its destination are as they were. -/
def State.abandon (s : State) (w : StrandId) : State :=
  match s.strand? w with
  | none => s
  | some t =>
    let s := match t.prog with | .waiting i _ => s.dropMsg i | _ => s
    let s := { s with oprobes := s.oprobes.filter (fun p => !(p.who.g == w.g && p.owner == t.serial)) }
    if t.consumed then s.atStrand w (fun s => (State.giveBackAll t.took t.kept s).unspare) else s

/-- Act as a strand that may stand nowhere now, with its registers in the slot it had; what it then holds. -/
def State.asStrand (s : State) (w : StrandId) (t : Strand) (f : State → State) : Strand × State :=
  match s.strand? w with
  | none => (t, s)
  | some old =>
    let s1 := (s.modStrand w (fun _ => t)).atStrand w f
    ((s1.strand? w).getD t, s1.modStrand w (fun _ => old))

/-- The strand of a serial that issued in a slot, wherever in its group it stands (R353). -/
def State.strandOf (s : State) (w : StrandId) (owner : Nat) : Option Strand :=
  (s.group? w.g).bind (fun g => (g.st[w.slot] :: g.st.toList ++ g.store.map (·.st)).find? (fun t => t.serial == owner))

/-- Act as the strand of a serial that issued in a slot: there, in the slot to which it has come (R353), in the join store, or,
where it has halted, with registers that nobody reads (R50, R366). -/
def State.atOwner (s : State) (w : StrandId) (owner : Nat) (f : State → State) : State :=
  match s.group? w.g with
  | none => s
  | some g =>
    if (g.st[w.slot]).serial == owner then s.atStrand w f
    else
      match slots.find? (fun k => (g.st[k]).serial == owner) with
      | some k => s.atStrand ⟨w.g, k⟩ f
      | none =>
        match g.store.find? (fun x => x.st.serial == owner) with
        | some x =>
          let r := s.asStrand w x.st f
          r.2.modGroup w.g (fun g => { g with
            store := updateFirst (fun y => y.st.serial == owner) (fun y => { y with st := r.1 }) g.store })
        | none => (s.asStrand w {} f).2

/-- Change a pool. -/
def State.modPool (s : State) (n : Nat) (f : Pool → Pool) : State :=
  { s with pools := updateFirst (fun p => p.num == n) f s.pools }
/-- Change a shard. -/
def State.modShard (s : State) (n v : Nat) (f : Shard → Shard) : State :=
  s.modPool n (fun p => { p with shards := updateFirst (fun h => h.die == v) f p.shards })

/-- The answer of every meaning: the machine always has a next state. -/
abbrev Out := Host.Outcome State Fault Refusal

/-- The value of operand k. -/
def opv (l : List RegCell) (k : Nat) : RegCell := l.getD k {}
/-- A source without forward. -/
def pop1 (a : PSrc) : Opnd := { r := a.r, trapEmpty := a.trapEmpty }
/-- A source that may forward. -/
def sop (a : Src) : Opnd := { r := a.r, trapEmpty := a.trapEmpty, fwd := a.fwd }
/-- A register read as D, under policy 0 (R37). -/
def dop (r : Reg) : Opnd := { r := r }

end Sys2Proof.Machine
end

