-- ==== Sys2Proof/Machine/Operands.lean ====
section
/-! DEFINITION. The lanes of a register (02 R39, 04 R97) and the immediates of the integer forms (05 R119). -/

namespace Sys2Proof.Machine

/-- Lane k of width w. -/
def laneAt (w : Nat) (q : Quad) (k : Nat) : BitVec w := q.extractLsb' (w * k) w

/-- A register from lanes, lane 0 at the least significant bits. -/
def packLanes (w : Nat) : List (BitVec w) → Quad
  | [] => 0
  | x :: r => (x.setWidth 128) ||| (packLanes w r <<< w)

/-- The lanes of a register, n of them. -/
def lanesOf (w n : Nat) (q : Quad) : List (BitVec w) := (List.range n).map (laneAt w q)

/-- One lane replaced. -/
def setLane (w : Nat) (q : Quad) (k : Nat) (v : BitVec w) : Quad :=
  (q &&& ~~~((BitVec.allOnes w).setWidth 128 <<< (w * k))) ||| (v.setWidth 128 <<< (w * k))

/-- A lane function over one register. -/
def mapLanes (w : Nat) (f : BitVec w → BitVec w) (a : Quad) : Quad := packLanes w ((lanesOf w (128 / w) a).map f)

/-- A lane function over two registers. -/
def mapLanes2 (w : Nat) (f : BitVec w → BitVec w → BitVec w) (a b : Quad) : Quad :=
  packLanes w ((List.range (128 / w)).map (fun k => f (laneAt w a k) (laneAt w b k)))

/-- Every lane the same. -/
def fill (w : Nat) (v : BitVec w) : Quad := packLanes w (List.replicate (128 / w) v)

/-- An immediate as a lane (R119): I sign-extended, its low w bits. -/
def immLane (w : Nat) (i : BitVec 32) : BitVec w := (i.signExtend 64).setWidth w

/-- Lane 0 of a source, 64 bits. -/
def lane0 (x : RegCell) : Lane := x.v.setWidth 64
/-- Lane 1 of a source, 64 bits. -/
def lane1 (x : RegCell) : Lane := x.v.extractLsb' 64 64
/-- A register of two 64-bit lanes. -/
def quad2 (lo hi : Lane) : Quad := lo.setWidth 128 ||| (hi.setWidth 128 <<< 64)

/-- A D that is also read may not be in stream mode (R263): ILLEGAL 0x0B. -/
def illStream (d : Reg) (s : State) : Option Nat := if (s.cell d).stream then some 0x0B else none

/-- A pair or quad member that is a mailbox or in stream mode (R43): ILLEGAL 0x0B. -/
def illGroup (rs : List Reg) (s : State) : Option Nat :=
  if rs.any (fun r => (s.cell r).stream || (match r with | .c n => s.st.isMbox n | _ => false)) then some 0x0B else none

/-- A numbered source that is no field of its own: the members of a pair or quad under a policy. -/
def members (rs : List Reg) (trapEmpty : Bool) : List Opnd := 
  rs.map (fun r => { r := r, trapEmpty := trapEmpty, field := (rs.head?).map Reg.num })

/-- The first of two details. -/
def orIll (a b : State → Option Nat) (s : State) : Option Nat := (a s).orElse (fun _ => b s)

end Sys2Proof.Machine
end

