-- ==== Sys2Proof/Machine/Flags.lean ====
section
/-! DEFINITION. FCSR (02 R60), the rounding mode of an instruction (R38), the commit of every floating-point entry
(04 R103), and the results of long instructions (02 R50, 06 R144 to R146). -/

namespace Sys2Proof.Machine

/-- The writable bits of FCSR (R60). -/
def fcsrMask : Lane := 0x71F1F

/-- The dynamic mode of FCSR; none for 5 to 7 (R38, R43 detail 0x09). -/
def frm (fcsr : Lane) : Option RMode :=
  match (fcsr.extractLsb' 16 3).toNat with
  | 0 => some .rne | 1 => some .rtz | 2 => some .rdn | 3 => some .rup | 4 => some .rna | _ => none

/-- The mode in force. -/
def State.mode (s : State) (rm : RMode) : RMode :=
  match rm with
  | .dyn => (frm s.st.fcsr).getD .rne
  | m => m

/-- ILLEGAL 0x09: a dynamic mode that is none. -/
def illMode (rm : RMode) (s : State) : Option Nat :=
  match rm with
  | .dyn => if (frm s.st.fcsr).isNone then some 0x09 else none
  | _ => none

/-- The enabled exceptions, as flags. -/
def State.enables (s : State) : Flags := (s.st.fcsr.extractLsb' 8 5).toNat

/-- OR flags into FCSR. -/
def State.raise (s : State) (f : Flags) : State :=
  s.modSt (fun t => { t with fcsr := t.fcsr ||| BitVec.ofNat 64 (f % 32) })

/-- The lane mask of the lanes whose flags meet the enables, from lane k on. -/
def laneMask (en : Flags) : Nat → List Flags → Nat
  | _, [] => 0
  | k, f :: r => (if Nat.land f en != 0 then 2 ^ k else 0) + laneMask en (k + 1) r

/-- TRAPINFO.LANES of a lane mask over n lanes (R103). -/
def lanesField (n mask : Nat) : Nat :=
  if n ≤ 8 then mask % 256
  else ((List.range 8).filter (fun j => mask / 2 ^ (j * (n / 8)) % 2 ^ (n / 8) != 0)).foldl (fun a j => a + 2 ^ j) 0

/-- All flags of all lanes. -/
def allFlags (lf : List Flags) : Flags := lf.foldl orf 0

/-- The FPE trap of a list of lane flags under the enables, if any. -/
def fpeTrap (en : Flags) (lf : List Flags) : Option Trap :=
  let hit := Nat.land (allFlags lf) en
  if hit = 0 then none
  else
    let m := laneMask en 0 lf
    some ⟨.fpe, lanesField lf.length m, hit, BitVec.ofNat 64 m⟩

/-- Commit (R103): flags, then the trap or the write. -/
def State.commit (s : State) (lf : List Flags) (write : State → State) : Res :=
  match fpeTrap s.enables lf with
  | some t => .trap t (allFlags lf)
  | none => .ok (write (s.raise (allFlags lf)))

/-- Lanes computed with flags, packed. -/
def packCodes (w : Nat) (l : List (Nat × Flags)) : Quad := packLanes w (l.map (fun x => BitVec.ofNat w x.1))

/-- A result that comes later (R50): cycles at the earliest and at the latest. Where a trap enable is set for a
floating-point instruction (R146), or D is an output stream (R263), D is not marked and the strand waits. -/
def State.long (s : State) (d : Reg) (lo due : Nat) (v : Quad) (lf : List Flags) (fp : Bool) : Res :=
  let stream := (s.cell d).stream && (match d with
    | .c n => ((s.stream? n).map (·.output)).getD false
    | _ => false)
  let wait := stream || (fp && s.enables != 0)
  let l : Late :=
    { slot := s.slot, owner := s.st.serial, waits := wait, lo := s.now + lo * s.cyc, due := s.now + due * s.cyc, dst := .reg d, v := v, v2 := 0
      flags := allFlags lf, trap := if fp then fpeTrap s.enables lf else none, fp := fp }
  let s1 := s.modG (fun g => { g with late := g.late ++ [l] })
  if wait then .parkC .commit (s1.modSt (fun t => { t with prog := .committing }))
  else .ok (s1.markOut d)

end Sys2Proof.Machine
end

