-- ==== Sys2Proof/Machine/Convert.lean ====
section
/-! DEFINITION. Class 0x3, conversion and block instructions (04 R107 to R114). -/

namespace Sys2Proof.Machine

/-- A code of a lane of a register. -/
def codeAt (w : Nat) (q : Quad) (k : Nat) : Nat := (laneAt w q k).toNat

/-- An MFORMAT trap of a block instruction; the manual states no TRAPVAL for it. -/
def State.mformat (s : State) (detail : Nat) (fl : Flags) : Res :=
  .trap ⟨.mformat, 0, detail, Config.trapValue s.fresh⟩ fl

/-- Does CVT read D (R109)? -/
def cvtReads (src dst : Fmt) : Bool := src.lanes < dst.lanes

/-- CVT's lanes (R109): element k of the group, its code and flags. -/
def cvtLanes (mode : RMode) (sat : Bool) (part : Nat) (src dst : Fmt) (a : Quad) : List (Nat × Flags) :=
  let n := min src.lanes dst.lanes
  let si := if dst.lanes < src.lanes then part * n else 0
  (List.range n).map (fun k => dst.conv mode sat (src.decode (codeAt src.lane a (si + k))))

/-- The group of lanes written into D, the others kept where D is the wider. -/
def cvtPlace (part : Nat) (src dst : Fmt) (d : Quad) (l : List (Nat × Flags)) : Quad :=
  let n := min src.lanes dst.lanes
  let di := if cvtReads src dst then part * n else 0
  (List.range n).foldl (fun (q : Quad) k => setLane dst.lane q (di + k) (BitVec.ofNat dst.lane (l.getD k (0, 0)).1))
    (if cvtReads src dst then d else 0)

/-- CVT. -/
def execCvt (h : Head) (rm : RMode) (sat : Bool) (part : BitVec 4) (src dst : Fmt) (d : Reg) (a : Src) (s : State) : Out :=
  .next (s.issue h { ill := orIll (illMode rm) (fun s => if cvtReads src dst then illStream d s else none) }
    (if cvtReads src dst then [sop a, dop d] else [sop a]) [d] (fun l s =>
      let r := cvtLanes (s.mode rm) sat part.toNat src dst (opv l 0).v
      s.commit (r.map (·.2)) (fun s => s.writeReg d (cvtPlace part.toNat src dst (opv l 1).v r))))

/-- FTOI (R110). -/
def execFtoi (h : Head) (t : FTy) (rm : RMode) (signed sat : Bool) (d : Reg) (a : Src) (s : State) : Out :=
  .next (s.issue h { ill := illMode rm } [sop a] [d] (fun l s =>
    let w := t.fmt.width
    let r := (List.range t.lanes).map (fun k =>
      convInt w signed (s.mode rm) sat (t.fmt.decode (codeAt w (opv l 0).v k)))
    s.commit (r.map (·.2)) (fun s => s.writeReg d (packCodes w r))))

/-- ITOF (R110). -/
def execItof (h : Head) (t : FTy) (rm : RMode) (signed : Bool) (d : Reg) (a : Src) (s : State) : Out :=
  .next (s.issue h { ill := illMode rm } [sop a] [d] (fun l s =>
    let w := t.fmt.width
    let r := (List.range t.lanes).map (fun k =>
      let x := laneAt w (opv l 0).v k
      t.fmt.putQ (s.mode rm) (Q.ofInt (if signed then x.toInt else x.toNat)) false)
    s.commit (r.map (·.2)) (fun s => s.writeReg d (packCodes w r))))

/-- D with a header in [31:0]. -/
def withHeader (q : Quad) (hd : Nat) : Quad := setLane 32 q 0 (BitVec.ofNat 32 hd)

/-- BLKSET (R111): FPE before MFORMAT, and the flags of the rounding either way. -/
def execBlkset (h : Head) (rm : RMode) (f : BFmt) (d : Reg) (a : Src) (s : State) : Out :=
  .next (s.issue h { ill := orIll (illMode rm) (illStream d) } [sop a, dop d] [d] (fun l s =>
    let r := convBin bf16 (s.mode rm) false (f32.decode (codeAt 32 (opv l 0).v 0))
    match fpeTrap s.enables [r.2] with
    | some t => .trap t r.2
    | none =>
      if scaleOk r.1 then s.commit [r.2] (fun s => s.writeReg d (withHeader (opv l 1).v (mkHeader f r.1)))
      else s.mformat 0x04 r.2))

/-- The largest magnitude of the finite lanes, and NV for the others (R112). -/
def blkMax (f : BFormat) (l : List Nat) : Q × Flags :=
  l.foldl (fun (a : Q × Flags) c =>
    match f.decode c with
    | .fin _ m => (if a.1.lt m then m else a.1, a.2)
    | _ => (a.1, orf a.2 NV)) (Q.ofInt 0, 0)

/-- MaxOf (R112). -/
def blkMaxOf : BFmt → Q
  | .e4m3 => Q.ofInt 448 | .int8 => Q.ofInt 127 | .hs4 => ⟨15, 2⟩ | .lns6 => lnsMag 31 | _ => Q.ofInt 1

/-- The scale that BLKFIT chooses and its flags (R112). -/
def blkFit (t : FTy) (f : BFmt) (a : Quad) : Nat × Flags :=
  let m := blkMax t.fmt ((List.range t.lanes).map (codeAt t.fmt.width a))
  if f = .fp32 || f = .bf16 || m.1.isZero then (0x3F80, m.2)
  else
    let r := bf16.round .rup false (m.1.div (blkMaxOf f))
    if 0x7F7F < r.1 then (0x7F7F, orf m.2 OF) else (r.1, m.2)

/-- BLKFIT. -/
def execBlkfit (h : Head) (t : FTy) (f : BFmt) (d : Reg) (a : Src) (s : State) : Out :=
  .next (s.issue h { ill := illStream d } [sop a, dop d] [d] (fun l s =>
    let r := blkFit t f (opv l 0).v
    s.commit [r.2] (fun s => s.writeReg d (withHeader (opv l 1).v (mkHeader f r.1)))))

/-- The 512 bits of a quad (R99). -/
def quadBits (l : List RegCell) : Nat :=
  (opv l 0).v.toNat + 2 ^ 128 * ((opv l 1).v.toNat + 2 ^ 128 * ((opv l 2).v.toNat + 2 ^ 128 * (opv l 3).v.toNat))

/-- Write a quad (R54). -/
def State.writeQuad (s : State) (q : Fin 12) (v : Nat) : State :=
  ((quadRegs q).zip (List.range 4)).foldl (fun (s : State) x =>
    s.writeReg x.1 (BitVec.ofNat 128 (v / 2 ^ (128 * x.2)))) s

/-- BLKPUT's lanes (R113): code, flags, and the element number; a lane past the last element is ignored. -/
def blkPutLanes (t : FTy) (mode : RMode) (sat : Bool) (f : BFmt) (scale : Q) (part : Nat) (a : Quad) :
    List (Option (Nat × Nat) × Flags) :=
  (List.range t.lanes).map (fun k =>
    let i := part * t.lanes + k
    if i < f.count then
      let r := f.fmt.conv mode sat ((t.fmt.decode (codeAt t.fmt.width a k)).scale ((Q.ofInt 1).div scale))
      (some (i, r.1), r.2)
    else (none, 0))

/-- BLKPUT. -/
def execBlkput (h : Head) (t : FTy) (rm : RMode) (sat : Bool) (q : Fin 12) (a : Src) (part : BitVec 6) (s : State) : Out :=
  .next (s.issue h { ill := orIll (illMode rm) (illGroup (quadRegs q)) }
    (sop a :: members (quadRegs q) false) (quadRegs q) (fun l s =>
      let b := quadBits (l.drop 1)
      match header (b % 2 ^ 32) with
      | .bad e => s.mformat e 0
      | .empty => s.mformat 0x03 0
      | .ok f scale =>
        let r := blkPutLanes t (s.mode rm) sat f scale part.toNat (opv l 0).v
        let v := r.foldl (fun (b : Nat) x => match x.1 with | some (i, c) => f.setElement b i c | none => b) b
        s.commit (r.map (·.2)) (fun s => s.writeQuad q v)))

/-- BLKGET's lanes (R114). -/
def blkGetLanes (t : FTy) (mode : RMode) (f : BFmt) (scale : Q) (part b : Nat) : List (Nat × Flags) :=
  (List.range t.lanes).map (fun k =>
    let i := part * t.lanes + k
    if i < f.count then convBin t.fmt mode false ((f.value b i).scale scale) else (0, 0))

/-- BLKGET. -/
def execBlkget (h : Head) (t : FTy) (rm : RMode) (d : Reg) (q : Fin 12) (trapEmpty : Bool) (part : BitVec 6)
    (s : State) : Out :=
  .next (s.issue h { ill := orIll (illMode rm) (illGroup (quadRegs q)) } (members (quadRegs q) trapEmpty) [d] (fun l s =>
    let b := quadBits l
    match header (b % 2 ^ 32) with
    | .bad e => s.mformat e 0
    | .empty => .ok (s.writeReg d 0)
    | .ok f scale =>
      let r := blkGetLanes t (s.mode rm) f scale part.toNat b
      s.commit (r.map (·.2)) (fun s => s.writeReg d (packCodes t.fmt.width r))))

end Sys2Proof.Machine
end

