-- ==== Sys2Proof/Machine/Mesh.lean ====
section
/-! DEFINITION. Ways between the dies of the panel, permits of the tile meshes, and the subnetworks (11 R277 to R285, R466,
16 R441). -/

namespace Sys2Proof.Machine

/-! ### Ways between dies (R284, R466, R441) -/

/-- Two dies lie in one power region. -/
def State.sameRegion (s : State) (a b : Nat) : Bool := s.regionOf a == s.regionOf b

/-- A message between them crosses the optical core (R284), from stage 3 on (16 R441). -/
def State.overOmc (s : State) (a b : Nat) : Bool := a != b && !s.sameRegion a b && 3 ≤ s.dev.stage

/-- A place that sends or takes messages: a tile, a memory die by its physical number, the control die. -/
inductive Loc where
  | tile (v t : Nat)
  | mem (m : Nat)
  | control
  deriving DecidableEq, Repr

/-- The physical number of a virtual memory die (R208). -/
def Device.memPhys (d : Device) (m : Nat) : Nat := ((List.range 128).filter (fun p => !d.deadMem.contains p)).getD m m

/-- The compute die that stands at a position and is live. -/
def State.dieAt (s : State) (p : Pos) : Option Die := s.dies.find? (fun d => d.live && isCompute p && d.phys == physAt p)

/-- A die position on which a chain may stand (R284). -/
def State.liveAt (s : State) (p : Pos) : Bool :=
  if isCompute p then (s.dieAt p).isSome else !s.dev.deadMem.contains (physAt p)

/-- The positions that a chain may reach from one in a single step: over a live link, in a power region or anywhere (R284,
16 R441). -/
def State.stepsFrom (s : State) (within : Option Nat) (p : Pos) : List Pos :=
  ([0, 1, 2, 3].filterMap (besidePos p)).filter (fun q => s.liveAt q && !s.dev.linksRetired.contains (linkNumber p q)
    && (match within with | none => true | some k => regionAt q == k))

/-- The position of a die in a chain. -/
def State.posOf (s : State) : Loc → Pos
  | .tile v _ => computePos (((s.die? v).map (·.phys)).getD v)
  | .mem m => memoryPos m
  | .control => (0, 0)

/-- Firmware's chain from one die to another: at most two steps more than the shortest; none where they are not joined (R284).
DESIGN CHOICE (log 16). -/
def State.chain (s : State) (within : Option Nat) (p q : Pos) : Option (List Pos) :=
  let nb := s.stepsFrom within
  let ls := layers nb 256 [] [q]
  let dist (r : Pos) : Option Nat := ls.findIdx? (fun l => l.contains r)
  match dist p with
  | none => none
  | some d => some (chainFrom nb dist (Config.chainPick s.dev.routing (physAt p) (physAt q)) q (d + 2) p p)

/-- An edge tile of a die by which firmware leads a chain: its router is powered (R284). -/
def edgeTile (off : List Nat) (side pick : Nat) : Option Nat :=
  let l := (edgeTiles side).filter (fun t => !off.contains t)
  l[pick % l.length]?

/-- The legs along a chain that stands at a tile of its first compute die, to a tile of the last die or to a memory die (R284, R285).
DESIGN CHOICE (log 16). -/
def State.along (s : State) (pick : Nat → Nat) (dst : Option Nat) : List Pos → Nat → Option (List Leg)
  | [p], t =>
    match s.dieAt p, dst with
    | some d, some u => meshLegs d.off d.v t u
    | _, _ => none
  | [p, m], t =>
    match s.dieAt p with
    | none => none
    | some d => (edgeTile d.off (sideOf p m) (pick (2 * physAt p))).bind (meshLegs d.off d.v t)
  | p :: m :: q :: r, t =>
    match s.dieAt p, s.dieAt q with
    | some d, some x =>
      match (edgeTile d.off (sideOf p m) (pick (2 * physAt p))).bind (meshLegs d.off d.v t),
            edgeTile x.off (sideOf q m) (pick (2 * physAt q + 1)) with
      | some w, some u => (s.along pick dst (q :: r) u).map (fun z => w ++ .memory :: z)
      | _, _ => none
    | _, _ => none
  | [], _ => none

/-- The legs over the dies of one region, or of any where the region is none (R284, 16 R441). -/
def State.panelLegs (s : State) (within : Option Nat) (a b : Loc) : Option (List Leg) :=
  let p := s.posOf a
  let q := s.posOf b
  match s.chain within p q with
  | none => none
  | some l =>
    let pick := fun k => Config.edgePick s.dev.routing (physAt p) (physAt q) k
    match a, b with
    | .tile _ t, .tile _ u => s.along pick (some u) l t
    | .tile _ t, .mem _ => s.along pick none l t
    | .mem _, .tile _ u =>
      match l with
      | m :: q :: r =>
        match (s.dieAt q).bind (fun x => edgeTile x.off (sideOf q m) (pick (2 * physAt q + 1))) with
        | some e => s.along pick (some u) (q :: r) e
        | none => none
      | _ => none
    | _, _ => some []

/-- The compute die at which a memory die's optical traffic enters and leaves (R17, R466), with the side on which it lies.
DESIGN CHOICE (log 16). -/
def State.gate (s : State) (m : Nat) : Option (Die × Nat) :=
  let p := memoryPos m
  let l := [0, 1, 2, 3].filterMap (fun k => (besidePos p k).bind (fun q =>
    if regionAt q == regionAt p then (s.dieAt q).map (fun d => (d, sideOf q p)) else none))
  l[Config.gatePick s.dev.routing m % l.length]?

/-- The die at whose port a place joins the optical core, and the legs between the place and the port's attachment (R466). -/
def State.toPort (s : State) (out : Bool) : Loc → Option (Nat × List Leg)
  | .tile v t =>
    let off := s.offOn v
    let e := attachment off t
    (if out then meshLegs off v t e else meshLegs off v e t).map (fun w => (v, w))
  | .mem m =>
    match s.gate m with
    | none => none
    | some (d, side) =>
      (edgeTile d.off side (Config.edgePick s.dev.routing m m (2 * d.phys + if out then 0 else 1))).bind (fun t =>
        let e := attachment d.off t
        (if out then meshLegs d.off d.v t e else meshLegs d.off d.v e t).map (fun w => (d.v, w)))
  | .control => none

/-- The power region of a place. -/
def State.locRegion (s : State) : Loc → Nat
  | .tile v _ => s.regionOf v
  | .mem m => regionAt (memoryPos m)
  | .control => 16

/-- The way of a packet between two places (R282, R284, R466, 16 R441). The control die is reached over its management links
(R16). DESIGN CHOICE (log 16). -/
def State.legsOf (s : State) (a b : Loc) : Option (List Leg) :=
  match a, b with
  | .control, _ | _, .control => some []
  | _, _ =>
    let same : Option (Nat × Nat × Nat) := match a, b with
      | .tile v t, .tile w u => if v = w then some (v, t, u) else none
      | _, _ => none
    match same with
    | some (v, t, u) => meshLegs (s.offOn v) v t u
    | none =>
      if s.locRegion a = s.locRegion b then s.panelLegs (some (s.locRegion a)) a b
      else if s.dev.stage < 3 then s.panelLegs none a b
      else
        match s.toPort true a, s.toPort false b with
        | some x, some y => some (x.2 ++ .omc x.1 y.1 false :: y.2)
        | _, _ => none

/-- A request between two places is not injected: there is no way out, or none back (R282). -/
def State.noWay (s : State) (a b : Loc) : Bool :=
  let quick : Bool := match a, b with
    | .tile v t, .tile w u => v == w && (t == u || (s.offOn v).isEmpty)
    | _, _ => false
  !quick && ((s.legsOf a b).isNone || (s.legsOf b a).isNone)

/-- Where a group stands. -/
def Group.loc (g : Group) : Option Loc := g.place.map (fun p => .tile p.die p.tile)

/-- Where a home stands (R15, R19, R208, R231); none for a group that is on no tile. -/
def State.homeLoc (s : State) : Home → Option Loc
  | .bank g _ | .inbox g => (s.group? g).bind Group.loc
  | .slice v n => some (.tile v (sliceTile n))
  | .mem m _ => some (.mem (s.dev.memPhys m))
  | .modPort q => some (.mem (physAt (portPos q)))
  | .control => some .control

/-- Where an agent stands. -/
def State.agentLoc (s : State) : Agent → Option Loc
  | .strand g _ => (s.group? g).bind Group.loc
  | .copyUnit g => (s.group? g).bind Group.loc
  | .slice v n => some (.tile v (sliceTile n))
  | .pool _ | .port _ | .control => none

/-- No way joins two groups that stand on tiles (R282). -/
def State.apart (s : State) (a b : Group) : Bool :=
  match a.loc, b.loc with
  | some x, some y => s.noWay x y
  | _, _ => false

/-! ### Permits (R279) -/

/-- The permits that a router keeps for a class. -/
def MeshClass.reserved : MeshClass → Nat
  | .request => 24 | .response => 24 | .bulk => 16 | .reactive => 8 | .system => 8
/-- The classes. -/
def meshClasses : List MeshClass := [.request, .response, .bulk, .reactive, .system]
/-- The permits that any class may borrow; with the reserved ones they are 256. -/
def sharedPermits : Nat := 176
/-- The permits of a detour lane (R282). -/
def lanePermits : Nat := 16

/-- The class of a message (R279). -/
def Act.meshClass : Act → MeshClass
  | .opRead .. | .opWrite .. => .bulk
  | .put _ => .system
  | _ => .request

/-- The flits of a message: a header, and 16 bytes of payload in each further flit (R277). -/
def Act.flits : Act → Nat
  | .store .. | .storeCap .. | .amo .. | .cas .. | .stf _ | .feset _ | .mail _ => 2
  | .opWrite _ _ bs | .put bs => 1 + (bs.length + 15) / 16
  | .writeBack .. => 5
  | _ => 1

/-- The flits of a response: a header, and 16 bytes of data in each further flit (R277). -/
def InFlight.flits (r : InFlight) : Nat :=
  match r.back with
  | .value => 2
  | .answer p => (match p with | .answered _ _ _ true => 2 | _ => 1)
  | .data _ _ _ bs => 1 + (bs.length + 15) / 16
  | .echo => 1
/-- The class of a response: a copy unit's data are bulk (R279). -/
def InFlight.meshClass (r : InFlight) : MeshClass := match r.back with | .data .. => .bulk | _ => .response
/-- A fill's request and its 64 bytes. -/
def Fill.meshClass (f : Fill) : MeshClass := if f.back then .response else .request
def Fill.flits (f : Fill) : Nat := if f.back then 5 else 1
/-- The flits of a 64-byte unit of an OSEND: a header and its bytes. -/
def unitFlits : Nat := 5

/-- What holds permits: the router, the class, and how many. DESIGN CHOICE (log 56). -/
def State.holders (s : State) : List (MeshSpot × MeshClass × Nat) :=
  let at_ (t : Trail) (c : MeshClass) (n : Nat) : Option (MeshSpot × MeshClass × Nat) := t.spot.map (fun p => (p, c, n))
  s.chans.flatMap (fun c => c.2.filterMap (fun m => at_ m.trail m.act.meshClass m.act.flits))
    ++ s.rets.filterMap (fun r => at_ r.trail r.meshClass r.flits)
    ++ s.msgAcks.filterMap (fun a => at_ a.trail .response 1)
    ++ s.linkWords.filterMap (fun w => w.trail.bind (fun t => at_ t .response 2))
    ++ s.blocks.filterMap (fun b => at_ b.trail .bulk unitFlits)
    ++ s.groups.flatMap (fun g => g.portCopies.filterMap (fun x => at_ x.2 .bulk unitFlits))
    ++ s.dies.flatMap (fun d => d.fills.filterMap (fun f => at_ f.trail f.meshClass f.flits))

/-- Permits of a class in use at a router of a subnetwork. -/
def permitsUsed (hs : List (MeshSpot × MeshClass × Nat)) (v t sub : Nat) (c : MeshClass) : Nat :=
  ((hs.filter (fun h => h.1 == ⟨v, t, sub, false⟩ && h.2.1 == c)).map (·.2.2)).sum
/-- Shared permits in use there. -/
def sharedUsed (hs : List (MeshSpot × MeshClass × Nat)) (v t sub : Nat) : Nat :=
  (meshClasses.map (fun c => permitsUsed hs v t sub c - c.reserved)).sum
/-- Permits that a class may still take there. -/
def permitsFree (hs : List (MeshSpot × MeshClass × Nat)) (v t sub : Nat) (c : MeshClass) : Nat :=
  (c.reserved - permitsUsed hs v t sub c) + (sharedPermits - sharedUsed hs v t sub)
/-- Permits that are left in a router's detour lane, on subnetwork 0 (R282). -/
def laneFree (hs : List (MeshSpot × MeshClass × Nat)) (v t : Nat) : Nat :=
  lanePermits - ((hs.filter (fun h => h.1 == ⟨v, t, 0, true⟩)).map (·.2.2)).sum

/-- The router by which a packet enters the mesh at a tile: on the subnetwork of its pair, else on the lowest that is on and has
permits for its flits; none where it is held back. Which subnetwork a pair takes is open: DESIGN CHOICE (log 56). -/
def State.injectAt (s : State) (hs : List (MeshSpot × MeshClass × Nat)) (v t : Nat) (sub : Option Nat) (c : MeshClass) (n : Nat) :
    Option MeshSpot :=
  let on := List.range (((s.die? v).map (·.subnets)).getD 1)
  let subs := match sub with | some k => if on.contains k then [k] else on | none => on
  (subs.find? (fun k => n ≤ permitsFree hs v t k c)).map (fun k => ⟨v, t, k, false⟩)

/-- A packet goes one hop further (R285). -/
def Trail.hop (t : Trail) (p : MeshSpot) (cost : Nat) : Trail :=
  { t with spot := some p, hops := t.hops + 1, cost := t.cost + cost, due := t.due + cost * t.cyc }

/-- How far a packet comes along its hops, and the hops that are left: a full pool holds it back at the router before, and nothing is
dropped. DESIGN CHOICE (log 56). -/
def goAlong (hs : List (MeshSpot × MeshClass × Nat)) (v sub : Nat) (lane : Bool) (c : MeshClass) (n : Nat) :
    List (Nat × Nat) → Trail → Trail × List (Nat × Nat)
  | [], t => (t, [])
  | (u, k) :: r, t =>
    if n ≤ (if lane then laneFree hs v u else permitsFree hs v u sub c) then
      goAlong hs v sub lane c n r (t.hop ⟨v, u, if lane then 0 else sub, lane⟩ k)
    else (t, (u, k) :: r)

/-- A packet goes along one leg as far as it can: what is left of the leg, none where it has passed it (R279, R280, R282, R283). -/
def State.goLeg (s : State) (hs : List (MeshSpot × MeshClass × Nat)) (c : MeshClass) (n : Nat) (t : Trail) (l : Leg) :
    Trail × Option Leg :=
  let enter (v src : Nat) : Option MeshSpot :=
    match t.spot with
    | some p => if p.die = v then some p else s.injectAt hs v src t.sub c n
    | none => s.injectAt hs v src t.sub c n
  match l with
  | .memory => ({ t with spot := none, cost := t.cost + 10, due := t.due + 10 * t.cyc }, none)
  | .omc _ _ _ => ({ t with spot := none }, some l)
  | .mesh v src u lane =>
    match enter v src with
    | none => ({ t with held := true }, some l)
    | some p =>
      let free (x : Nat) : Nat := if lane then laneFree hs v x else permitsFree hs v x p.sub c
      let t := { t with spot := some p, sub := some p.sub }
      match defaultPath (s.offOn v) free p.tile u with
      | none => (t, none)
      | some path =>
        let x := goAlong hs v p.sub lane c n path t
        if x.2.isEmpty then (x.1, none) else ({ x.1 with held := true }, some l)
  | .named v src hops =>
    match enter v src with
    | none => ({ t with held := true }, some l)
    | some p =>
      let x := goAlong hs v p.sub false c n hops { t with spot := some p, sub := some p.sub }
      if x.2.isEmpty then (x.1, none) else ({ x.1 with held := true }, some (.named v src x.2))

/-- A packet goes along its legs as far as it can. -/
def State.goLegs (s : State) (hs : List (MeshSpot × MeshClass × Nat)) (c : MeshClass) (n : Nat) : List Leg → Trail → Trail
  | [], t => { t with legs := [] }
  | l :: r, t =>
    let x := s.goLeg hs c n t l
    match x.2 with
    | some l => { x.1 with legs := l :: r }
    | none => s.goLegs hs c n r x.1

/-- A packet goes on from where it stands; what had been held back goes on from now (R279, R285).
DESIGN CHOICE (log 56). -/
def State.goOn (s : State) (c : MeshClass) (n : Nat) (t : Trail) : Trail :=
  if t.legs.isEmpty || t.lost then t
  else
    let u := s.goLegs s.holders c n t.legs { t with held := false, due := if t.held then max t.due s.now else t.due }
    if u.legs == t.legs && u.spot == t.spot then { t with held := t.held || u.held } else u

/-- The subnetworks, with their dies, that a packet enters in its legs (R277). -/
def Leg.enters (sub : Nat) : Leg → Option (Nat × Nat)
  | .mesh v _ _ lane => some (v, if lane then 0 else sub)
  | .named v _ _ => some (v, sub)
  | _ => none

/-- What has moved breaks the idle time of the subnetworks on which it did (R277). -/
def State.carried (s : State) (old new : Trail) : State :=
  if old.hops = new.hops then s
  else
    let on := (old.legs.take (old.legs.length + 1 - new.legs.length)).filterMap (Leg.enters (new.sub.getD 0))
    { s with dies := s.dies.map (fun d =>
        { d with idleSince := d.idleSince.filter (fun x => !on.contains (d.v, x.1)) }) }

/-- A new way between two places, on the path and the subnetwork of what the pair has in flight already (R238, R284): none where there
is no way. DESIGN CHOICE (log 16). -/
def State.trailOf (s : State) (a b : Option Loc) (cyc : Nat) (pair : Option Trail) : Trail :=
  let path := (pair.map (·.path)).getD (s.dev.routing, decide (3 ≤ s.dev.stage))
  let s0 : State := { s with dev := { s.dev with routing := path.1, stage := if path.2 then max 3 s.dev.stage else min 2 s.dev.stage } }
  let legs := match a, b with
    | some x, some y => if x = y then [] else (s0.legsOf x y).getD []
    | _, _ => []
  { legs := legs, sub := pair.bind (·.sub), path := path, cyc := cyc, due := s.now + 2 * cyc }

/-- A packet whose legs are all behind it stands at its destination's tile, or goes on from there to the tile to which its group has
moved since, by default routing (R201, R283, R357). -/
def State.follow (s : State) (t : Trail) (b : Option Loc) : Trail :=
  match t.legs, t.spot, b with
  | [], some p, some (.tile v u) =>
    if p.die = v && p.tile != u then { t with legs := (meshLegs (s.offOn v) v p.tile u).getD [] } else t
  | _, _, _ => t

/-! ### Subnetworks (R277) -/

/-- Time has come to `t`: since when each router of a die has been crowded, and each subnetwork idle. -/
def Die.watchMesh (d : Die) (hs : List (MeshSpot × MeshClass × Nat)) (t : Nat) : Die :=
  let mine := hs.filter (fun h => h.1.die == d.v)
  let spots := ((mine.map (fun h => (h.1.tile, h.1.sub))).eraseDups).filter (fun x => 132 < sharedUsed mine d.v x.1 x.2)
  let idle := (List.range d.subnets).filter (fun k => !mine.any (fun h => h.1.sub == k))
  { d with hotSince := spots.map (fun x => (x, (d.hotSince.lookup x).getD t))
           idleSince := idle.map (fun k => (k, (d.idleSince.lookup k).getD t)) }

/-- The dies take note of what their meshes hold. -/
def State.watchMeshes (s : State) : State :=
  if s.dies.isEmpty then s else let hs := s.holders; { s with dies := s.dies.map (fun d => d.watchMesh hs s.now) }

end Sys2Proof.Machine
end

