-- ==== Sys2Proof/Machine/Mem.lean ====
section
/-! DEFINITION. Addresses, homes, translation, the edge slices, the channels of the Easel and what a home does with a
message (08 R196 to R228, 09 R230 to R237). -/

namespace Sys2Proof.Machine

/-! ### Homes (R231) -/

/-- The home identifier. -/
def homeId : Home → Nat
  | .bank g b => g.num * 32 + b
  | .slice die n => 2 ^ 29 + die * 32 + n
  | .mem die k => 2 * 2 ^ 29 + die * 16 + k
  | .modPort q => 3 * 2 ^ 29 + q
  | .control => 4 * 2 ^ 29
  | .inbox g => 5 * 2 ^ 29 + g.num

/-- hash of R231. -/
def homeHash (h : Home) : Nat :=
  let x := BitVec.ofNat 32 (homeId h)
  ((x.extractLsb' 0 6) ^^^ (x.extractLsb' 6 6) ^^^ (x.extractLsb' 12 6) ^^^ (x.extractLsb' 18 6)
    ^^^ (x.extractLsb' 24 6) ^^^ (x.extractLsb' 30 2).setWidth 6).toNat

/-- One bit of a lane. -/
def bitAt (n : Nat) : Lane := 1#64 <<< n

/-- Set the TMASK bit of a home (R237 item 5). -/
def State.mark (s : State) (h : Home) : State := s.modSt (fun t => { t with tmask := t.tmask ||| bitAt (homeHash h) })

/-! ### Physical addresses (R208 to R211) -/

/-- Base of the model's addresses of module memory. -/
def modBase : Nat := 2 ^ 44
/-- Base of the model's addresses of the control die. -/
def ctrlBase : Nat := 2 ^ 45

/-- The model's address of a placed address (R208). -/
def placedKey (dev : Device) (a : Nat) : Option Nat :=
  let die := a / 2 ^ 29
  if a < 2 ^ 36 && die < dev.memDies && dev.hashedPart ≤ a % 2 ^ 29 then some a else none

/-- The model's address of a hashed address (R209); Fold[b] = b mod L and Rank = b div L. -/
def hashedKey (dev : Device) (h : Nat) : Option Nat :=
  let L := dev.memDies
  let j := h / 2 ^ 8 % 2 ^ 10
  let f := h / 2 ^ 18
  let fold := Nat.xor (Nat.xor (h / 2 ^ 18 % 2 ^ 10) (h / 2 ^ 28 % 2 ^ 10)) (h / 2 ^ 38 % 2 ^ 6)
  let b := Nat.xor j fold
  let slot := f * ((1024 + L - 1) / L) + b / L
  if 0 < L && slot * 256 < dev.hashedPart then some (b % L * 2 ^ 29 + slot * 256 + h % 256) else none

/-- The offset within its port's module of a module address (R210). -/
def moduleOffset (m : Nat) : Nat := m / 2 ^ 17 * 4096 + m % 4096

/-- The model's address of a physical address in a space; none faults XLATE 0x05. -/
def physKey (dev : Device) (space pa : Nat) : Option Nat :=
  match space with
  | 2 => placedKey dev pa
  | 3 => hashedKey dev pa
  | 4 => if moduleOffset pa < dev.moduleSize then some (modBase + pa) else none
  | 5 => some (ctrlBase + pa)
  | _ => none

/-- The memory home of a model address (R208 to R211). -/
def keyHome (key : Nat) : Home :=
  if key < modBase then .mem (key / 2 ^ 29) (key / 256 % 16)
  else if key < ctrlBase then .modPort ((key - modBase) / 4096 % 32)
  else .control

/-- The live slices of a die in ascending number. -/
def Die.liveSlices (d : Die) : List Nat := (List.range 24).filter (fun n => !d.deadSlices.contains n)

/-- The slice of a physical address (R206): the fold of bits [43:6] into 10 bits, through the slice table. -/
def sliceOf (d : Die) (pa : Nat) : Nat :=
  let x := pa / 64
  let fold := Nat.xor (Nat.xor (x % 1024) (x / 2 ^ 10 % 1024)) (Nat.xor (x / 2 ^ 20 % 1024) (x / 2 ^ 30 % 256))
  let live := d.liveSlices
  live.getD (fold % live.length) 0

/-! ### Scratchpad (R198, R201) -/

/-- The bank of an offset (R198). -/
def bankOf (off : Nat) : Nat := off / 8 % 32

/-- Bytes of a group's allocation. -/
def Group.size (g : Group) : Nat := 2 ^ g.log2

/-- GroupCheck (R201): a trap detail for a group that does not exist or has retired; the group when its words can be
reached now; none when the access waits. -/
inductive GroupAt where
  | bad (detail : Nat)
  | wait
  | at_ (g : Group)

/-- The state of group number n of the issuing strand's launch (R201). -/
def State.groupAt (s : State) (n : Nat) : GroupAt :=
  let count := (s.myLaunch.map (·.groups)).getD 1
  if count ≤ n && n != s.g.gid.num then .bad 0x01
  else
    match s.group? ⟨s.g.gid.launch, n⟩ with
    | none => .wait
    | some g =>
      match g.state with
      | .retired => if n = s.g.gid.num then .at_ g else .bad 0x02
      | .queued | .saved => .wait
      | .resident | .swapping => .at_ g

/-- The first uncorrectable word among n bytes of a group's scratchpad (15 R402). -/
def State.badIn (s : State) (g : GroupId) (off n : Nat) : Option Nat :=
  (s.group? g).bind (fun x => x.badWords.find? (fun w => off / 8 ≤ w && w ≤ (off + n - 1) / 8))

/-- The first uncorrectable word among n bytes of a scratchpad, which wrap at its size (15 R402). -/
def Group.badFrom (g : Group) (off n : Nat) : Option Nat :=
  g.badWords.find? (fun w => (8 * w + g.size - off / 8 * 8 % g.size) % g.size < n + off % 8)

/-- Replace the bytes of a scratchpad, wrapping at its size. -/
def Group.writeSp (g : Group) (off : Nat) (bs : List Byte) : Group :=
  let r := bs.foldl (fun (a : Group × Nat) b =>
    ({ a.1 with spad := a.1.spad.write (a.2 % g.size) b
                spTags := a.1.spTags.filter (· != a.2 % g.size / 16)
                badWords := a.1.badWords.filter (· != a.2 % g.size / 8) }, a.2 + 1)) (g, off)
  r.1

/-- Bytes of a scratchpad, wrapping at its size. -/
def Group.readSp (g : Group) (off n : Nat) : List Byte :=
  (List.range n).map (fun k => g.spad.read ((off + k) % g.size))

/-! ### Translation (R212 to R215) -/

/-- Bits of a page at a table level. -/
def pageBits (lvl : Nat) : Nat := match lvl with | 0 => 32 | 1 => 26 | 2 => 21 | _ => 16
/-- Index of a virtual address at a table level. -/
def tableIndex (lvl va : Nat) : Nat :=
  match lvl with
  | 0 => va / 2 ^ 32 % 4096
  | 1 => va / 2 ^ 26 % 64
  | 2 => va / 2 ^ 21 % 32
  | _ => va / 2 ^ 16 % 32

/-- Does a cached translation serve a virtual address? -/
def TlbEntry.hits (e : TlbEntry) (space va : Nat) : Bool := e.space == space && e.page == va / 2 ^ pageBits e.level
/-- The physical address through an entry. -/
def TlbEntry.phys (e : TlbEntry) (va : Nat) : Nat := e.pa + va % 2 ^ pageBits e.level

/-- The entry of the tile's TLB that serves a virtual address. -/
def State.tlbFind (s : State) (die tile space va : Nat) : Option TlbEntry :=
  ((s.die? die).bind (fun d => d.tlb.find? (fun e => e.1 == tile && e.2.hits space va))).map (·.2)

/-- The faults of an entry after the walk (R214): tenant, then the rights. -/
def TlbEntry.refuse (e : TlbEntry) (tenant : Nat) (rd wr exec : Bool) : Option Nat :=
  if e.tenant != tenant then some 0x03
  else if (rd && !e.rd) || (wr && !e.wr) || (exec && !e.exec) then some 0x02
  else none

/-- Add an entry to a tile's TLB of 32 and to the die's second level of 4,096; the oldest goes (R215). -/
def State.fillTlb (s : State) (die tile : Nat) (e : TlbEntry) : State :=
  s.modDie die (fun d =>
    let mine := d.tlb.filter (fun x => x.1 == tile)
    let rest := d.tlb.filter (fun x => x.1 != tile)
    { d with tlb := rest ++ (mine ++ [(tile, e)]).drop (mine.length + 1 - 32)
             l2 := (d.l2 ++ [e]).drop (d.l2.length + 1 - 4096) })

/-! ### Resolving an address (R218) -/

/-- An address that may be accessed. -/
structure Resolved where
  space : Nat
  v : Nat
  target : Target
  pa : Nat
  pol : Nat
  chk : Bool

/-- What resolving answers. -/
inductive Addr where
  | trap (t : Trap)
  | walk (r : WalkReq)
  | wait
  | ok (r : Resolved)

/-- What an instruction asks of the address it resolves. -/
structure Ask where
  size : Nat
  rd : Bool := false
  wr : Bool := false
  pol : Option PolMod := none
  noCtrl : Bool := false
  localOnly : Bool := false
  /-- An access that acts at the memory home whatever its policy (R207). -/
  atHome : Bool := false
  /-- The checks of STC, made after the ST check (R221). -/
  extra : Quad → Option Nat := fun _ => none

/-- The issuing strand waits for a walk: it keeps its place where it asks again for the same (R215). -/
def State.wantWalk (s : State) (r : WalkReq) : State :=
  let same : Bool := match s.st.walkWant with | some q => { q with num := r.num } == r | none => false
  if same then s else { s with nextId := s.nextId + 1 }.modSt (fun t => { t with walkWant := some { r with num := s.nextId } })

/-- The tile of the issuing strand. -/
def State.tile (s : State) : Nat := (s.g.place.map (·.tile)).getD 0

/-- A page of a launch's code, which is mapped without ST for the launch (R130). PRESUMED (log 15). -/
def codePage (l : Option Launch) (space va : Nat) : Bool :=
  match l with
  | none => false
  | some l => space == Config.codeSpace && 0 < l.codeLen && l.codeBase / 2 ^ 16 ≤ va / 2 ^ 16
      && va / 2 ^ 16 ≤ (l.codeBase + l.codeLen - 1) / 2 ^ 16

/-- Translate for the issuing strand: physical address and attributes, a fault, or a miss (R214, R215). -/
def State.translate (s : State) (space va : Nat) (rd wr exec : Bool) : Except (Option Nat) (TlbEntry × Nat) :=
  match s.tlbFind s.g.die s.tile space va with
  | some e =>
    match e.refuse s.myTenant rd wr exec with
    | some d => .error (some d)
    | none =>
      if wr && codePage s.myLaunch space va then .error (some 0x02)
      else if (physKey s.dev space (e.phys va)).isNone then .error (some 0x05) else .ok (e, e.phys va)
  | none =>
    match s.st.walkFault with
    | some (d, sp, va') => if sp = space && va' / 2 ^ 16 = va / 2 ^ 16 then .error (some d) else .error none
    | none => .error none

/-- The home at which an access of a die acts under a policy (R197, R207, R234). -/
def State.homeUnder (s : State) (v key pa pol : Nat) : Home :=
  if ctrlBase ≤ key then .control
  else if pol = 0 || (pol == 1 && ((s.die? v).bind (fun d => d.lines.find? (fun l => l.key == key / 64))).isSome) then
    .slice v (((s.die? v).map (fun d => sliceOf d pa)).getD 0)
  else keyHome key

/-- The tile of the group in front has no way to a home, or none back (R282). -/
def State.homeCut (s : State) (h : Home) : Bool :=
  match s.g.loc, s.homeLoc h with
  | some x, some y => s.noWay x y
  | _, _ => false

/-- Resolve of R218. -/
def State.resolve (s : State) (c : RegCell) (delta : Int) (a : Ask) : Addr :=
  let q := c.v
  let sp := capSpace q
  let v0 := (((capBase q : Int) + capOffset q + delta) % 2 ^ 44).toNat
  let t (cause : Cause) (d : Nat) (v : Nat) : Addr := .trap ⟨cause, 0, d, pointer sp v⟩
  if !c.tag then .trap ⟨.captag, 0, 0x01, q.setWidth 64⟩
  else if 7 ≤ sp then t .captag 0x02 v0
  else if sp = 6 || (a.noCtrl && sp == 5) || (a.localOnly && 1 < sp) then t .capperm 0x04 v0
  else if a.rd && !capLD q then t .capperm 0x01 v0
  else if a.wr && !capST q then t .capperm 0x02 v0
  else
    match a.extra q with
    | some d => t .capperm d v0
    | none =>
      if (a.pol.map (fun p => p.polo && p.pol == 3)).getD false then t .capperm 0x05 v0
      else if 2 ≤ sp && (v0 < capBase q || capBase q + capLen q < v0 + a.size) then t .capbound 0x04 v0
      else
        let gn := if sp = 1 then v0 / 2 ^ 28 else s.g.gid.num
        let sz := if sp = 0 then s.g.size else ((s.group? ⟨s.g.gid.launch, gn⟩).map Group.size).getD
                    (2 ^ ((s.myLaunch.map (·.log2)).getD 12))
        let v := if sp = 0 then v0 % sz else if sp = 1 then gn * 2 ^ 28 + v0 % 2 ^ 28 % sz else v0
        if v % a.size != 0 then t .align 0 v
        else if sp < 2 then
          if sp = 0 then .ok ⟨sp, v, .sp s.g.gid v, v, 0, capCHK q⟩
          else
            match s.groupAt gn with
            | .bad d => t .outside d v
            | .wait => .wait
            | .at_ g => if s.apart s.g g then t .outside 0x04 v else .ok ⟨sp, v, .sp g.gid (v % 2 ^ 28), v, 0, capCHK q⟩
        else
          match s.translate sp v a.rd a.wr false with
          | .error (some d) => t .xlate d v
          | .error none => .walk { space := sp, va := v, rd := a.rd, wr := a.wr }
          | .ok (e, pa) =>
            let pol := if sp = 5 then 2 else (a.pol.bind (fun p => if p.polo then some p.pol.toNat else none)).getD e.pol
            match physKey s.dev sp pa with
            | none => t .xlate 0x05 v
            | some k =>
              if s.homeCut (s.homeUnder s.g.die k pa (if a.atHome then 2 else pol)) then t .outside 0x04 v
              else .ok ⟨sp, v, .mem k, pa, pol, capCHK q || e.chk⟩

/-- Is an access through a resolved address checked in a deterministic launch (R228)? -/
def State.checked (s : State) (r : Resolved) : Bool := s.det && (r.space < 2 || r.chk)

/-! ### Channels (R230, R232) -/

/-- The issuing strand as an agent (R230). -/
def State.agent (s : State) : Agent := .strand s.g.gid s.st.serial
/-- The strand that stands in a slot as an agent. -/
def State.agentOf (s : State) (w : StrandId) : Agent := .strand w.g (((s.strand? w).map (·.serial)).getD 0)

/-- The messages of a channel, oldest first. -/
def State.chan (s : State) (c : ChanId) : List Msg := lookD s.chans c []
/-- Replace a channel; an empty one is not kept. -/
def State.setChan (s : State) (c : ChanId) (l : List Msg) : State :=
  if l.isEmpty then { s with chans := s.chans.filter (fun x => x.1 != c) } else { s with chans := insertKey s.chans c l }
/-- A message joins a die's send queue, behind those that reach the port no later (R299). -/
def State.joinQueue (s : State) (v : Nat) (m : OmcMsg) : State :=
  s.modDie v (fun d => { d with sendq := d.sendq.filter (fun x => x.joined ≤ m.joined) ++ m :: d.sendq.filter (fun x => m.joined < x.joined) })

/-- 16 bytes of header and a payload, in flits of the optical core (R299). -/
def omcFlits (n : Nat) : Nat := (16 + n + 127) / 128

/-- A packet that has come to the port where it joins the optical core joins the send queue there, when it gets to it (R284, R299,
R466). -/
def State.joinPort (s : State) (t : Trail) (key : MsgKey) (bytes : Nat) (body : OmcLoad) : Trail × State :=
  match t.legs with
  | .omc v w false :: r =>
    ({ t with legs := .omc v w true :: r },
     s.joinQueue v { src := v, dst := w, flits := omcFlits bytes, ordered := true, relayed := false, key := key, body := body
                     joined := max s.now t.due })
  | _ => (t, s)

/-- A packet goes on as far as it can, and into the port where its way goes over the optical core.
DESIGN CHOICE (log 56). -/
def State.carry (s : State) (t : Trail) (c : MeshClass) (n : Nat) (key : MsgKey) (body : OmcLoad) : Trail × State :=
  let u := s.goOn c n t
  (s.carried t u).joinPort u key (16 * (n - 1)) body

/-- A packet has come over the optical core (R299). -/
def Trail.crossed (t : Trail) (done : Nat) : Trail :=
  match t.legs with
  | .omc _ _ true :: r => { t with legs := r, due := max t.due done }
  | _ => t

/-- What names a message of a channel in a send queue. -/
def Msg.key (m : Msg) : MsgKey :=
  match m.act with
  | .mail x => ⟨x.sender, x.owner, x.seq⟩
  | _ => ⟨m.who.getD ⟨⟨0, 0⟩, 0⟩, m.owner, 2 ^ 65 + m.id⟩

/-- A message of a channel goes on as far as it can. -/
def State.goMsg (s : State) (c : ChanId) (m : Msg) : Trail × State :=
  s.carry m.trail m.act.meshClass m.act.flits m.key (.access c m.id)

/-- The cycle, in ticks, by which an agent's packets are counted: its tile's (R285). -/
def State.agentCyc (s : State) : Agent → Nat
  | .strand g _ => s.cycAt g
  | .copyUnit g => s.cycAt g
  | _ => Config.cycleTicks

/-- Enter a message whose way begins with legs of its own, a static route's (R283). -/
def State.enterBy (s : State) (c : ChanId) (m : Msg) (legs : Option (List Leg)) : State :=
  let t := s.trailOf (s.agentLoc c.src) (s.homeLoc c.home) (s.agentCyc c.src) ((s.chan c).getLast?.map (·.trail))
  let m := { m with trail := { t with legs := legs.getD t.legs } }
  let x := s.goMsg c m
  x.2.setChan c (x.2.chan c ++ [{ m with trail := x.1 }])

/-- Enter (R232): the message joins its channel and goes as far as it can: through the meshes where it gets permits, and into the queue
of the optical core where its way goes over it (R279, R284). -/
def State.enter (s : State) (c : ChanId) (m : Msg) : State := s.enterBy c m none

/-- The launch for which an agent works, where it works for one. -/
def agentLaunch : Agent → Option Nat
  | .strand g _ => some g.launch
  | .copyUnit g => some g.launch
  | _ => none

/-! ### Recovery points: the undo log and the escrow (15 R419, R420) -/

/-- A launch that has a committed point. -/
def Launch.pointed (l : Launch) : Bool := l.recov && decide (0 < l.points)
/-- A 4 KiB granule of memory is in the undo log of a launch (R419). -/
def Launch.logged (l : Launch) (granule : Nat) : Bool := l.undo.any (fun u => u.granule == granule)
/-- The undo log of a launch has reached its share of the save area (R419). -/
def Launch.undoFull (l : Launch) : Bool := l.pointed && decide (Config.undoShare l.tenant ≤ l.undo.length)
/-- The share of the escrow of a launch's tenant is full: what all its launches hold there (R420, R445). -/
def State.escrowFull (s : State) (l : Launch) : Bool :=
  l.pointed && decide (Config.escrowShare l.tenant ≤ ((s.launches.filter (fun x => x.tenant == l.tenant)).map (fun x => x.escrow.length)).sum)
/-- A write of a launch to memory waits for a recovery point: for room in the undo log, or in the escrow (R419, R420). -/
def State.writeWaits (s : State) (l : Launch) (key : Nat) : Option Why :=
  if ctrlBase ≤ key then (if s.escrowFull l then some .escrow else none)
  else if l.undoFull && !l.logged (key / 4096) then some .undoLog
  else none
/-- Words of the group in front to which its copy unit may not write yet; what has entered is written before a stop (R276). -/
def State.wordsHeld (s : State) (ws : List EngWord) : Bool :=
  match s.myLaunch with
  | none => false
  | some l => s.g.stop.isNone && ws.any (fun w => match w.target with | .mem k => (s.writeWaits l k).isSome | .sp _ _ => false)
/-- The first write of a launch after a point to a 4 KiB granule of memory copies the granule's old contents, with their tags,
into the undo log (R419). -/
def State.logWrite (s : State) (who : Option Nat) (key n : Nat) : State :=
  match who.bind s.launch? with
  | none => s
  | some l =>
    if !l.pointed || ctrlBase ≤ key then s
    else
      let gs := ([key / 4096, (key + n - 1) / 4096].eraseDups).filter (fun g => !l.logged g)
      let old (g : Nat) : UndoRec := ⟨g, s.mem.filter (fun c => c.1 / 4096 == g), s.memTags.filter (fun t => t / 256 == g)⟩
      s.modLaunch l.num (fun l => { l with undo := l.undo ++ gs.map old })

/-- Write bytes to memory: the tags of the granules fall (R220). -/
def State.writeMem (s : State) (key : Nat) (bs : List Byte) : State :=
  { s with mem := s.mem.writes key bs
           memTags := s.memTags.filter (fun g => g < key / 16 || (key + bs.length + 15) / 16 ≤ g) }

/-- The dirty bytes of a line written to the memory home, with the tags of the granules they touch (R234). -/
def State.applyBack (s : State) (key : Nat) (bytes : List Byte) (mask : BitVec 64) (tags : BitVec 4) : State :=
  (List.range 64).foldl (fun s k =>
    if mask.getLsbD k then
      let s := s.writeMem (key * 64 + k) [bytes.getD k 0]
      if tags.getLsbD (k / 16) then { s with memTags := insertNat ((key * 64 + k) / 16) s.memTags } else s
    else s) s

/-- Perform every write-back that waits between a slice and a memory home (R232: a legal run of Perform moves). -/
def State.drainBack (s : State) (c : ChanId) : State :=
  let l := s.chan c
  let s := l.foldl (fun s m =>
    match m.act, m.target with
    | .writeBack bs mask tags, .mem k => s.applyBack (k / 64) bs mask tags
    | _, _ => s) s
  s.setChan c []

/-- The line of a die that holds a key. -/
def State.line? (s : State) (v key : Nat) : Option Line :=
  (s.die? v).bind (fun d => d.lines.find? (fun l => l.key == key / 64))

/-- Write back a dirty line at once and forget or keep it (R197 policy 2, R226, R235). DEDUCED (log 20). -/
def State.flushLine (s : State) (v key : Nat) (keep : Bool) : State :=
  match s.line? v key with
  | none => s
  | some l =>
    let c : ChanId := ⟨.slice v l.slice, keyHome key⟩
    let s := s.drainBack c
    let s := if l.dirty = 0 then s else s.applyBack l.key l.bytes l.dirty l.tags
    let ls (o : List Line) : List Line :=
      if keep then updateFirst (fun x => x.key == l.key) (fun x => { x with dirty := 0 }) o
      else o.filter (fun x => x.key != l.key)
    s.modDie v (fun d => { d with lines := ls d.lines })

/-- Lines of 64 bytes in a slice of 1 MiB (R19). -/
def sliceLines : Nat := 16384

/-- Room for a line in a slice: a full one evicts a line, which the manual does not name. DESIGN CHOICE (log 55). -/
def State.makeRoom (s : State) (v slice : Nat) : State :=
  let ls := (((s.die? v).map (·.lines)).getD []).filter (fun l => l.slice == slice)
  if ls.length < sliceLines then s
  else
    match ls[Config.victim s.fresh % ls.length]? with
    | some l => { s with fresh := s.fresh + 1 }.flushLine v (l.key * 64) false
    | none => s

/-- Fill a line from its memory home (R197 policy 0, R235). -/
def State.fillLine (s : State) (v slice key : Nat) : State :=
  let s := ((s.flushLine v key false).drainBack ⟨.slice v slice, keyHome key⟩).makeRoom v slice
  let base := key / 64 * 64
  let tags := (List.range 4).foldl (fun (t : BitVec 4) k =>
    if s.memTags.contains (base / 16 + k) then t ||| (1#4 <<< k) else t) 0
  let line : Line := ⟨key / 64, slice, s.mem.reads base 64, 0, tags, ((s.die? v).map (·.de)).getD 0⟩
  s.modDie v (fun d => { d with lines := d.lines ++ [line] })

/-- A page-table entry at a placed address, read at its home under policy 2: the die's own line is written back and dropped first
(R197, R208, R214); none is no placed address. -/
def State.pte (s : State) (v a : Nat) : Option Lane × State :=
  match placedKey s.dev a with
  | none => (none, s)
  | some k =>
    let s := s.flushLine v k false
    (some (BitVec.ofNat 64 (natOfBytes (s.mem.reads k 8))), s)

/-- A page of the MODULE space that holds a 4 KiB step which a failed port serves: firmware maps none (R437).
DEDUCED (log 62). -/
def Device.holed (d : Device) (space pa size : Nat) : Bool :=
  space == 4 && (List.range (min 32 (size / 4096))).any (fun k => d.portsOut.contains ((pa / 4096 + k) % 32))

/-- One level of the walk (R214): a leaf, the next table, or a fault's detail. A leaf that firmware would not have made is no
valid entry. DEDUCED (log 62). -/
def walkFrom (v space : Nat) (va : Nat) : Nat → Nat → Nat → State → Except Nat TlbEntry × State
  | 0, _, _, s => (.error 0x04, s)
  | fuel + 1, lvl, table, s =>
    let r := s.pte v (table + 8 * tableIndex lvl va)
    match r.1 with
    | none => (.error 0x05, r.2)
    | some e =>
      let paddr := (e.extractLsb' 8 36).toNat * 256
      if !e.getLsbD 0 then (.error (0x10 + lvl), r.2)
      else if (e.extractLsb' 62 2) != 0 || (e.extractLsb' 44 3) != 0 || (e.extractLsb' 1 7) != 0
          || (!e.getLsbD 47 && lvl == 3) || (e.extractLsb' 51 2) == 3
          || (e.getLsbD 47 && paddr % 2 ^ pageBits lvl != 0) then (.error 0x04, r.2)
      else if e.getLsbD 47 && r.2.dev.holed space paddr (2 ^ pageBits lvl) then (.error (0x10 + lvl), r.2)
      else if e.getLsbD 47 then
        (.ok { tenant := (e.extractLsb' 54 8).toNat, space := space, page := va / 2 ^ pageBits lvl, level := lvl
               pa := paddr, chk := e.getLsbD 53, pol := (e.extractLsb' 51 2).toNat, exec := e.getLsbD 50
               wr := e.getLsbD 49, rd := e.getLsbD 48 }, r.2)
      else walkFrom v space va fuel (lvl + 1) paddr r.2

/-- The walk of a virtual address for a tenant (R214). -/
def State.walk (s : State) (v tenant space va : Nat) : Except Nat TlbEntry × State :=
  match (s.tenant? tenant).bind (fun t => t.roots.lookup space) with
  | none => (.error 0x10, s)
  | some root => walkFrom v space va 4 0 root s

/-- What an entry answers an access of a launch: a fault's detail after the walk, or itself (R214). -/
def State.grant (s : State) (l : Option Launch) (r : WalkReq) (e : TlbEntry) : Except Nat TlbEntry :=
  match e.refuse ((l.map (·.tenant)).getD 0) r.rd r.wr r.exec with
  | some d => .error d
  | none =>
    if r.wr && codePage l r.space r.va then .error 0x02
    else if (physKey s.dev r.space (e.phys r.va)).isNone then .error 0x05 else .ok e

/-- Make the line of a key present in its slice, fresh enough for an acquire epoch (R235). DEDUCED (log 20). -/
def State.needLine (s : State) (v slice key ae : Nat) : State :=
  match s.line? v key with
  | none => s.fillLine v slice key
  | some l => if l.epoch < ae then s.fillLine v slice key else s

/-- Store bytes into a resident line (R197): dirty, tags cleared or set. -/
def State.storeLine (s : State) (v key : Nat) (bs : List Byte) (tag : Bool) : State :=
  let off := key % 64
  let upd (l : Line) : Line :=
    { l with
      bytes := (List.range 64).map (fun k => if off ≤ k && k < off + bs.length then bs.getD (k - off) 0 else l.bytes.getD k 0)
      dirty := (List.range bs.length).foldl (fun (m : BitVec 64) k => m ||| (1#64 <<< (off + k))) l.dirty
      tags := (List.range 4).foldl (fun (t : BitVec 4) k =>
        if off / 16 ≤ k && k ≤ (off + bs.length - 1) / 16 then
          (if tag then t ||| (1#4 <<< k) else t &&& ~~~(1#4 <<< k)) else t) l.tags }
  s.modDie v (fun d => { d with lines := updateFirst (fun l => l.key == key / 64) upd d.lines })

/-- The bytes a home holds at a target, and the tag of the first granule. -/
def State.homeRead (s : State) (h : Home) (t : Target) (n : Nat) : List Byte × Bool :=
  match t with
  | .sp g off =>
    match s.group? g with
    | none => (List.replicate n unlisted, false)
    | some g => (g.readSp off n, g.spTags.contains (off % g.size / 16))
  | .mem key =>
    match h with
    | .slice v _ =>
      match s.line? v key with
      | some l => ((List.range n).map (fun k => l.bytes.getD (key % 64 + k) 0), l.tags.getLsbD (key % 64 / 16))
      | none => (s.mem.reads key n, s.memTags.contains (key / 16))
    | _ => (s.mem.reads key n, s.memTags.contains (key / 16))

/-- Store bytes at a home. The old contents go to the undo log of a launch with a point (R419), and its writes to the control die
are held in the escrow (R420). -/
def State.homeWrite (s : State) (h : Home) (t : Target) (bs : List Byte) (tag : Bool) (who : Option Nat) : State :=
  match t with
  | .sp g off =>
    s.modGroup g (fun g =>
      let g := g.writeSp off bs
      if tag then { g with spTags := insertNat (off % g.size / 16) g.spTags } else g)
  | .mem key =>
    let s := s.logWrite who key bs.length
    match h with
    | .slice v _ =>
      if (s.line? v key).isSome then s.storeLine v key bs tag
      else
        let s := s.writeMem key bs
        if tag then { s with memTags := insertNat (key / 16) s.memTags } else s
    | .control =>
      match who.bind s.launch? with
      | some l =>
        if l.pointed then
          s.modLaunch l.num (fun l => { l with escrow := l.escrow ++ (List.range bs.length).map (fun k => (key + k, bs.getD k 0)) })
        else s.writeMem key bs
      | none => s.writeMem key bs
    | _ =>
      let s := s.writeMem key bs
      if tag then { s with memTags := insertNat (key / 16) s.memTags } else s

/-- Bytes of the control die as a launch sees them, its escrowed writes in place (R420); a byte of a device's window is what
the device gives (R211). DESIGN CHOICE (log 10). -/
def State.ctrlSeen (s : State) (who : Option Nat) (key n : Nat) : List Byte :=
  let esc := ((who.bind s.launch?).map (·.escrow)).getD []
  (List.range n).map (fun k => ((esc.reverse.find? (fun e => e.1 == key + k)).map (·.2)).getD
    (if Config.deviceWindow (key + k - ctrlBase) then Config.deviceByte (s.fresh + k) else s.mem.read (key + k)))

/-! ### Order chains of deterministic launches (R228) -/

/-- A component of an order clock. -/
def clockAt (c : OrderClock) (who : Nat) : Nat := lookD c who 0
/-- The join of two order clocks. DEDUCED (log 24). -/
def joinClock (a b : OrderClock) : OrderClock := b.foldl (fun c e => insertKey c e.1 (max (clockAt c e.1) e.2)) a
/-- The component of an order clock that dates a strand's accesses, by its serial. -/
def strandComp (serial : Nat) : Nat := 2 * serial
/-- The serial of a strand. -/
def State.serialOf (s : State) (w : StrandId) : Nat := ((s.strand? w).map (·.serial)).getD 0
/-- A strand's clock once it releases: what it publishes and keeps. -/
def bump (serial : Nat) (c : OrderClock) : OrderClock :=
  insertKey c (strandComp serial) (clockAt c (strandComp serial) + 1)

/-- The word a target names in the access records. -/
def targetWord (t : Target) : Nat × Nat :=
  match t with
  | .sp g off => (g.num + 1, off / 8)
  | .mem k => (0, k / 8)

/-- Does an access conflict with one recorded before (R228)? -/
def AccRec.conflicts (r : AccRec) (word : Nat × Nat × Nat) (who : Nat) (clock : OrderClock) (write : Bool)
    (commut : Option AmoFn) : Bool :=
  r.word == word && r.who != who && (r.write || write) && !(commut.isSome && r.commut == commut)
    && clockAt clock r.comp < r.stamp

/-- The words an access of n bytes touches. -/
def targetWords (t : Target) (n : Nat) : List (Nat × Nat) :=
  let w := targetWord t
  (List.range ((n + 7) / 8)).map (fun k => (w.1, w.2 + k))

/-- Check an access of a deterministic launch and record it: the detail of its CONFLICT, if any, and how far into the
access its word lies. An access of an engine comes with its owner, component and stamp (R257). -/
def State.checkWords (s : State) (w : StrandId) (ws : List (Nat × Nat)) (inst : Lane) (clock : OrderClock) (write : Bool)
    (commut : Option AmoFn) (det : Nat) (eng : Option (Nat × Nat × Nat) := none) : Option (Nat × Nat) × State :=
  match s.launch? w.g.launch with
  | none => (none, s)
  | some l =>
    let own := s.serialOf w
    let me := strandComp ((eng.map (·.1)).getD own)
    let date := (eng.map (·.2)).getD (me, clockAt clock me + 1)
    let ws := ws.map (fun x => (x.1, x.2, inst.toNat))
    match ws.zipIdx.find? (fun x => l.recs.any (fun r => r.conflicts x.1 me clock write commut)) with
    | some x => (some (det, 8 * x.2), s)
    | none => (none, s.modLaunch l.num (fun l =>
      { l with recs := l.recs ++ ws.map (fun x => ⟨x, me, date.1, date.2, write, commut⟩) }))

/-- Check an access at its home, in the instant in force at its issuing tile. DEDUCED (log 24). -/
def State.check (s : State) (w : StrandId) (t : Target) (n : Nat) (clock : OrderClock) (write : Bool)
    (commut : Option AmoFn) (det : Nat) (eng : Option (Nat × Nat × Nat) := none) : Option (Nat × Nat) × State :=
  s.checkWords w (targetWords t n) (((s.group? w.g).map (·.instant)).getD 0) clock write commut det eng

/-! ### Values of the memory instructions -/

/-- Bytes of an access of a type (R217): 16 for w7. -/
def memSize (t : Ty) : Nat :=
  match t with
  | .b8 | .i8 => 1 | .b16 | .i16 => 2 | .b32 | .i32 => 4 | .b64 => 8 | .w7 => 16
/-- The register value of loaded bytes (R219): zero-extended, sign-extended for I types, whole for Q128. -/
def extend (t : Ty) (v : Quad) : Quad :=
  match t with
  | .b8 => (v.setWidth 8).setWidth 128 | .b16 => (v.setWidth 16).setWidth 128
  | .b32 => (v.setWidth 32).setWidth 128 | .b64 => (v.setWidth 64).setWidth 128
  | .i8 => (v.setWidth 8).signExtend 128 | .i16 => (v.setWidth 16).signExtend 128
  | .i32 => (v.setWidth 32).signExtend 128 | .w7 => v

end Sys2Proof.Machine
end

