-- ==== Sys2Proof/Machine/Engine.lean ====
section
/-! DEFINITION. The copy unit's parts (10 R252 to R258, R267 to R274): transaction barriers and their phase rule, pauses,
the addresses of an engine, and the pieces of its operations. -/

namespace Sys2Proof.Machine

/-- Act as a named group, then look again where the state looked before. -/
def State.atGroup (s : State) (g : GroupId) (f : State → State) : State := (f (s.focus g)).focus s.g.gid

/-- DET of a launch (R25). -/
def State.detOf (s : State) (w : StrandId) : Bool := ((s.launch? w.g.launch).map (·.det)).getD false

/-! ### Transaction barriers (R255, R256) -/

/-- The fields of a barrier; `hi` is its upper word: RELOAD and STATUS. -/
structure Bar where
  phase : Nat
  arrive : Nat
  sect : Int
  hi : Lane
  deriving DecidableEq, Repr

/-- The fields of a barrier's two words. -/
def Bar.of (lo hi : Lane) : Bar :=
  ⟨lo.toNat % 16, lo.toNat / 16 % 2 ^ 20, (lo.extractLsb' 24 40).toInt, hi⟩
/-- The lower word. -/
def Bar.lo (b : Bar) : Lane := (BitVec.ofInt 40 b.sect ++ BitVec.ofNat 20 b.arrive ++ BitVec.ofNat 4 b.phase : BitVec 64)
/-- RELOAD. -/
def Bar.reload (b : Bar) : Nat := b.hi.toNat % 2 ^ 20

/-- STATUS with what an operation owes it (R255): SKIP saturates at 63. -/
def BarStat.onto (t : BarStat) (hi : Lane) : Lane :=
  let skip := min 63 (hi.toNat / 2 ^ 26 % 64 + t.skip)
  let hi := (hi &&& ~~~(0x3F#64 <<< 26)) ||| BitVec.ofNat 64 (skip * 2 ^ 26)
  hi ||| BitVec.ofNat 64 ((if t.oor then 2 ^ 20 else 0) + (if t.conv then 2 ^ 22 else 0) + (if t.badhdr then 2 ^ 23 else 0))

/-- The barrier at an offset of a scratchpad. -/
def Group.bar (g : Group) (off : Nat) : Bar :=
  let q := natOfBytes (g.readSp off 16)
  Bar.of (BitVec.ofNat 64 q) (BitVec.ofNat 64 (q / 2 ^ 64))
/-- Write a barrier's two words. -/
def Group.putBar (g : Group) (off : Nat) (b : Bar) : Group :=
  g.writeSp off (bytesOfNat 8 b.lo.toNat ++ bytesOfNat 8 b.hi.toNat)
/-- The word of a barrier's upper half. -/
def Group.barTop (g : Group) (off : Nat) : Nat := (off + 8) % g.size / 8

/-- The phase rule (R256); at a phase change the engine work that led to it is published to its consumers (R257). -/
def Group.phaseRule (g : Group) (off : Nat) : Group :=
  let b := g.bar off
  if b.arrive = 0 && b.sect = 0 then
    let g := (g.putBar off { b with phase := (b.phase + 1) % 16, arrive := b.reload }).setFull (g.barTop off) true
    { g with barClocks := insertKey g.barClocks off (joinClock (lookD g.barClocks off []) (lookD g.barPend off []))
             barPend := g.barPend.filter (fun x => x.1 != off) }
  else g.setFull (g.barTop off) false

/-- One atomic update of a barrier, and the phase rule. -/
def Group.updBar (g : Group) (off : Nat) (f : Bar → Bar) : Group := (g.putBar off (f (g.bar off))).phaseRule off

/-! ### Operations and their pauses (R252, R273, R274) -/

/-- Change a bulk operation. -/
def Group.modOp (g : Group) (uid : Nat) (f : BulkOp → BulkOp) : Group :=
  { g with ops := updateFirst (fun o => o.uid == uid) f g.ops }
/-- Change a stream descriptor. -/
def Group.modStream (g : Group) (uid : Nat) (f : StreamD → StreamD) : Group :=
  { g with streams := updateFirst (fun d => d.uid == uid) f g.streams }

/-- The paused operations that name a barrier: their group, number in CPAUSE, and pause. -/
def State.pausedOn (s : State) (bar : GroupId × Nat) : List (GroupId × Nat × Pause) :=
  s.groups.flatMap (fun g => g.ops.filterMap (fun o =>
    if o.bar == bar then o.pause.map (fun p => (g.gid, o.num + 32, p)) else none))
    ++ s.blocks.filterMap (fun b => if (b.dst, b.bar) == bar then b.pause.map (fun p => (b.who.g, 48, p)) else none)

/-- The PAUSE bit of a barrier (R255). -/
def pauseBit : Lane := 1#64 <<< 21

/-- Pause an operation of a group (R273): a bulk operation's barrier gains PAUSE and its upper word is marked full. -/
def State.pauseOp (s : State) (g : GroupId) (uid : Nat) (p : Pause) : State :=
  let s := s.modGroup g (fun x => (x.modOp uid (fun o => { o with pause := some p })).modStream uid (fun d => { d with pause := some p }))
  match (s.group? g).bind (fun x => x.ops.find? (fun o => o.uid == uid)) with
  | none => s
  | some o => s.modGroup o.bar.1 (fun x =>
      let b := x.bar o.bar.2
      (x.putBar o.bar.2 { b with hi := b.hi ||| pauseBit }).setFull (x.barTop o.bar.2) true)

/-- PAUSE of a barrier clears once no paused operation names it (R272, R274). -/
def State.unpauseBar (s : State) (bar : GroupId × Nat) : State :=
  if (s.pausedOn bar).isEmpty then
    s.modGroup bar.1 (fun x => let b := x.bar bar.2; x.putBar bar.2 { b with hi := b.hi &&& ~~~pauseBit })
  else s

/-! ### Addresses of an engine (R253, R273) -/

/-- Where a policy takes an access of a die (R197, R234). -/
def State.routeAt (s : State) (v : Nat) (key pa pol : Nat) : Home × State :=
  let far := keyHome key
  if ctrlBase ≤ key then (.control, s)
  else
    let slice : Home := .slice v (((s.die? v).map (fun d => sliceOf d pa)).getD 0)
    if pol = 0 then (slice, s)
    else if pol = 1 then (if (s.line? v key).isSome then slice else far, s)
    else (far, s.flushLine v key false)

/-- What an engine's address answers. -/
inductive EngAddr where
  | stop (p : Pause)
  | wait
  | ok (t : Target) (pa : Nat) (chk : Bool) (ptr : Lane)

/-- Translate for an engine of the group in front: the tile's TLB, the die's second level, or a walk (R214, R215). -/
def State.engTranslate (s : State) (sp va : Nat) (rd wr : Bool) : Except Nat (TlbEntry × Nat) × State :=
  let v := s.g.die
  let q : WalkReq := { space := sp, va := va, rd := rd, wr := wr }
  match s.tlbFind v s.tile sp va with
  | some e => ((s.grant s.myLaunch q e).map (fun e => (e, e.phys va)), s)
  | none =>
    let r := match (s.die? v).bind (fun d => d.l2.find? (fun e => e.hits sp va)) with
      | some e => (Except.ok e, s)
      | none => s.walk v s.myTenant sp va
    match r.1.bind (s.grant s.myLaunch q) with
    | .error d => (.error d, r.2)
    | .ok e => (.ok (e, e.phys va), r.2.fillTlb v s.tile e)

/-- Bytes of a capability's space that wrap: the scratchpad's size, or 0. -/
def State.wrapSize (s : State) (c : Quad) : Nat :=
  match capSpace c with
  | 0 => s.g.size
  | 1 => ((s.group? ⟨s.g.gid.launch, capCursor c / 2 ^ 28⟩).map Group.size).getD (2 ^ ((s.myLaunch.map (·.log2)).getD 12))
  | _ => 0

/-- Byte k behind the cursor of a capability, for an engine of the group in front. -/
def State.engAddr (s : State) (c : Quad) (k : Int) (rd wr : Bool) : EngAddr × State :=
  let cur := capCursor c
  let sz := s.wrapSize c
  match capSpace c with
  | 0 =>
    let off := (((cur : Int) + k) % sz).toNat
    if rd && s.g.badWords.contains (off / 8) then (.stop ⟨.machine, 0x04, pointer 0 off⟩, s)
    else (.ok (.sp s.g.gid off) 0 (capCHK c) (pointer 0 off), s)
  | 1 =>
    let gn := cur / 2 ^ 28
    let off := (((cur % 2 ^ 28 : Nat) : Int) + k) % sz
    let ptr := pointer 1 (gn * 2 ^ 28 + off.toNat)
    match s.groupAt gn with
    | .bad _ => (.stop ⟨.copy, 0x07, ptr⟩, s)
    | .wait => (.wait, s)
    | .at_ g =>
      if s.apart s.g g then (.stop ⟨.copy, 0x06, ptr⟩, s)
      else if rd && g.badWords.contains (off.toNat / 8) then (.stop ⟨.machine, 0x04, ptr⟩, s)
      else (.ok (.sp g.gid off.toNat) 0 (capCHK c) ptr, s)
  | sp =>
    let va := (((cur : Int) + k) % 2 ^ 44).toNat
    let x := s.engTranslate sp va rd wr
    match x.1 with
    | .error d => (.stop ⟨.copy, 0x80 + d, pointer sp va⟩, x.2)
    | .ok (e, pa) =>
      match physKey s.dev sp pa with
      | none => (.stop ⟨.copy, 0x85, pointer sp va⟩, x.2)
      | some key =>
        if x.2.homeCut (x.2.homeUnder x.2.g.die key pa (if rd then 1 else 2)) then (.stop ⟨.copy, 0x06, pointer sp va⟩, x.2)
        else (.ok (.mem key) pa (e.chk || capCHK c) (pointer sp va), x.2)

/-- The aligned 8-byte words of n bytes from an address: position and length (R233). -/
def splitWords (addr n : Nat) : List (Nat × Nat) :=
  let a := addr % 8
  if n = 0 then []
  else (List.range ((a + n + 7) / 8)).map (fun i =>
    let lo := 8 * i - a
    (lo, min n (8 * (i + 1) - a) - lo))

/-- The words of n bytes from byte k behind a cursor, all translated before one of them enters (R273). -/
def State.engWords (s : State) (c : Quad) (k n : Nat) (rd wr : Bool) : Except (Option Pause) (List EngWord) × State :=
  (splitWords (capCursor c + k) n).foldl (fun (a : Except (Option Pause) (List EngWord) × State) w =>
    match a.1 with
    | .error _ => a
    | .ok l =>
      let x := a.2.engAddr c (k + w.1) rd wr
      match x.1 with
      | .stop p => (.error (some p), x.2)
      | .wait => (.error none, x.2)
      | .ok t pa chk p => (.ok (l ++ [⟨w.1, w.2, t, pa, chk, p⟩]), x.2)) (.ok [], s)

/-- Enter the messages of an engine for a list of words; reads use policy 1, writes policy 2 (R253). -/
def State.engEnter (s : State) (w : StrandId) (clock : OrderClock) (read : Bool) (ws : List EngWord)
    (act : EngWord → Act) : State :=
  ws.foldl (fun (s : State) x =>
    let r : Home × State := match x.target with
      | .sp g off => (.bank g (bankOf off), s)
      | .mem key => s.routeAt s.g.die key x.pa (if read then 1 else 2)
    let i := r.2.newId
    i.2.enter ⟨.copyUnit w.g, r.1⟩
      { id := i.1, who := some w, act := act x, target := x.target, ptr := x.ptr, pol := if read then 1 else 2
        chk := s.detOf w && (x.chk || (match x.target with | .sp _ _ => true | _ => false)), clock := clock }) s

/-! ### Streams (R261 to R263) -/

/-- Where unit u's element j lies behind the cursor. -/
def StreamD.offset (d : StreamD) (e : Nat) : Int := (e / d.count0 : Nat) * d.stride1 + (e % d.count0 : Nat) * d.stride0

/-- The elements of a unit. -/
def StreamD.elems (d : StreamD) (u : Nat) : List Nat := if d.strip then (List.range 8).map (8 * u + ·) else [u]

/-- The words of a unit: positions count through the unit's elements. -/
def State.streamWords (s : State) (d : StreamD) (u : Nat) : Except (Option Pause) (List EngWord) × State :=
  ((d.elems u).zip (List.range 8)).foldl (fun (a : Except (Option Pause) (List EngWord) × State) e =>
    match a.1 with
    | .error _ => a
    | .ok l =>
      let off := d.offset e.1
      let cuts := splitWords (((capCursor d.cap : Int) + off) % 2 ^ 44).toNat d.size
      cuts.foldl (fun (a : Except (Option Pause) (List EngWord) × State) w =>
        match a.1 with
        | .error _ => a
        | .ok l =>
          let x := a.2.engAddr d.cap (off + w.1) (!d.output) d.output
          match x.1 with
          | .stop p => (.error (some p), x.2)
          | .wait => (.error none, x.2)
          | .ok t pa chk p => (.ok (l ++ [⟨d.size * e.2 + w.1, w.2, t, pa, chk, p⟩]), x.2)) (.ok l, a.2)) (.ok [], s)

/-- The bytes a piece has read, in order. -/
def Piece.bytes (p : Piece) (n : Nat) : List Byte := (List.range n).map (fun k => lookD p.got k 0)

/-- Bytes of a unit. -/
def StreamD.width (d : StreamD) : Nat := d.size * (if d.strip then 8 else 1)

/-! ### Bulk operations (R267 to R269) -/

/-- Len of R260. -/
def capRest (c : Quad) : Nat :=
  if capSpace c < 2 then capLen c
  else if capCursor c < capBase c then 0
  else capBase c + capLen c - capCursor c

/-- The destination unit, unwrapped, that a piece belongs to. -/
def BulkOp.unitOf (o : BulkOp) (p : Nat) : Nat :=
  match o.kind with
  | .gather => (capCursor o.dst % 64 + p * o.size) / 64
  | _ => p
/-- Units after which a destination in scratchpad comes round again; 0 where it does not. -/
def State.lap (s : State) (o : BulkOp) : Nat :=
  match o.kind with
  | .copy | .gather => s.wrapSize o.dst / 64
  | _ => 0
/-- The units that an operation adds to SECT (R260 Sectors, R268, R269). -/
def State.sectors (s : State) (o : BulkOp) : Nat :=
  let u := if o.total = 0 then 0 else o.unitOf (o.total - 1) + 1
  if s.lap o = 0 then u else min u (s.lap o)

/-- Bytes lo to hi of COPY's destination unit p, behind the cursor. -/
def BulkOp.copyRange (o : BulkOp) (p : Nat) : Nat × Nat :=
  let a := capCursor o.dst % 64
  let lo := 64 * p - a
  (lo, min o.n (64 * (p + 1) - a) - lo)

/-- The source blocks of COPYC's block p. -/
def copycBlocks (src dst : BFmt) (p : Nat) : Nat × Nat :=
  let a := p * dst.count / src.count
  (a, (p * dst.count + dst.count - 1) / src.count + 1 - a)

/-- What a piece reads of its data: start behind the source's cursor, and length. -/
def BulkOp.readRange (o : BulkOp) (p : Piece) : Nat × Nat :=
  match o.kind with
  | .copy => o.copyRange p.num
  | .copyc src dst _ _ => let b := copycBlocks src dst p.num; (64 * b.1, 64 * b.2)
  | .gather => ((p.idx.getD 0) * o.size, o.size)
  | .scatter => (p.num * o.size, o.size)

/-- Where a piece writes: start behind the destination's cursor, and length. -/
def BulkOp.writeRange (o : BulkOp) (p : Piece) : Nat × Nat :=
  match o.kind with
  | .copy => o.copyRange p.num
  | .copyc _ _ _ _ => (64 * p.num, 64)
  | .gather => (p.num * o.size, o.size)
  | .scatter => ((p.idx.getD 0) * o.size, o.size)

/-- The scale of a COPYC block and whether it was capped (R112, R268). -/
def copycScale (dst : BFmt) (vs : List FVal) : Nat × Bool :=
  let m := vs.foldl (fun (a : Q) v => match v with | .fin _ m => (if a.lt m then m else a) | _ => a) (Q.ofInt 0)
  if dst = .fp32 || dst = .bf16 || m.isZero then (0x3F80, false)
  else
    let r := bf16.round .rup false (m.div (blkMaxOf dst))
    if 0x7F7F < r.1 then (0x7F7F, true) else (r.1, false)

/-- The values of a source block; none for a bad one (R268). -/
def copycSource (src : BFmt) (block : Nat) : Option (List FVal) :=
  match header (block % 2 ^ 32) with
  | .bad _ => none
  | .empty => some (List.replicate src.count (.ofQ (Q.ofInt 0)))
  | .ok f scale => if f = src then some ((List.range src.count).map (fun i => (f.value block i).scale scale)) else none

/-- The bf16 code of a scale as an exact number. -/
def scaleQ (c : Nat) : Q := (bf16.decode c).q

/-- COPYC's block (R268): its bytes, and CONV and BADHDR. -/
def copycBlock (src dst : BFmt) (mode : RMode) (sat : Bool) (p : Nat) (bytes : List Byte) : List Byte × BarStat :=
  let b := copycBlocks src dst p
  let sources := (List.range b.2).map (fun k => copycSource src (natOfBytes ((bytes.drop (64 * k)).take 64)))
  if sources.any Option.isNone then (List.replicate 64 0, { badhdr := true })
  else
    let vs := (((sources.map (fun o => o.getD [])).flatten).drop (p * dst.count - b.1 * src.count)).take dst.count
    let sc := copycScale dst vs
    let inv := (Q.ofInt 1).div (scaleQ sc.1)
    let rs := vs.map (fun v => dst.fmt.conv mode sat (v.scale inv))
    let block := (rs.zip (List.range dst.count)).foldl (fun (n : Nat) x => dst.setElement n x.2 x.1.1) (mkHeader dst sc.1)
    (bytesOfNat 64 block, { conv := sc.2 || rs.any (fun r => Nat.land r.2 (orf NV OF) != 0) })

/-- A gather or scatter index that is skipped, and one out of range (R269). -/
def BulkOp.skips (p : Piece) : Bool := p.idx == some 0xFFFFFFFF
def BulkOp.outOfRange (o : BulkOp) (p : Piece) : Bool :=
  match o.kind with
  | .gather => capRest o.src < (p.idx.getD 0) * o.size + o.size
  | .scatter => capRest o.dst < (p.idx.getD 0) * o.size + o.size
  | _ => false

/-- What a piece writes, and what it owes STATUS. -/
def BulkOp.data (o : BulkOp) (p : Piece) : List Byte × BarStat :=
  match o.kind with
  | .copyc src dst mode sat => copycBlock src dst mode sat p.num (p.bytes (o.readRange p).2)
  | .gather => if o.outOfRange p then (List.replicate o.size 0, {}) else (p.bytes o.size, {})
  | _ => (p.bytes (o.readRange p).2, {})

/-- Two debts to STATUS together. -/
def BarStat.plus (a b : BarStat) : BarStat := ⟨a.skip + b.skip, a.oor || b.oor, a.conv || b.conv, a.badhdr || b.badhdr⟩

/-- A bulk operation by its number of birth. -/
def Group.op? (g : Group) (uid : Nat) : Option BulkOp := g.ops.find? (fun o => o.uid == uid)
/-- A stream by its number of birth. -/
def Group.stream? (g : Group) (uid : Nat) : Option StreamD := g.streams.find? (fun d => d.uid == uid)

/-- An operation whose pieces have all ended is freed (R252). -/
def Group.freeOp (g : Group) (uid : Nat) : Group :=
  { g with ops := g.ops.filter (fun o => !(o.uid == uid && o.pieces.isEmpty && o.total ≤ o.next)) }

/-- A piece has ended: the last of its destination unit lands (R256, R267). In a deterministic launch the operation stays until its
last decrement has been checked (R257). -/
def State.pieceDone (s : State) (g : GroupId) (uid num : Nat) : State :=
  match (s.group? g).bind (fun x => x.op? uid) with
  | none => s
  | some o =>
    let u := o.unitOf num
    let rest := o.pieces.filter (fun p => p.num != num)
    let lap := match s.group? g with | some gr => ({ s with g := gr }).lap o | none => 0
    let last := !(rest.any (fun p => o.unitOf p.num == u)) && (o.total ≤ o.next || o.unitOf o.next != u)
      && (lap == 0 || o.unitOf (o.total - 1) < u + lap)
    let s := s.modGroup g (fun x =>
      let x := x.modOp uid (fun o => { o with pieces := rest, stat := if last then {} else o.stat })
      if s.detOf ⟨g, o.slot⟩ then x else x.freeOp uid)
    if last then
      { s with landed := s.landed ++ [{ g := g, uid := uid, slot := o.slot, bar := o.bar, stat := o.stat, clock := o.clock, owner := o.owner }] }
    else s

/-- A word that an engine read has come: the piece has one fewer to wait for. -/
def Piece.take (p : Piece) (pos : Nat) (bs : List Byte) : Piece :=
  { p with need := p.need - 1, got := p.got ++ (bs.zip (List.range bs.length)).map (fun x => (pos + x.2, x.1)) }
/-- Change a piece. -/
def modPiece (num : Nat) (f : Piece → Piece) (l : List Piece) : List Piece := updateFirst (fun p => p.num == num) f l

/-- A home has performed an engine's read (R253). -/
def State.opGot (s : State) (g : GroupId) (uid num pos : Nat) (bs : List Byte) : State :=
  s.modGroup g (fun x =>
    (x.modOp uid (fun o => { o with pieces := modPiece num (fun p => p.take pos bs) o.pieces })).modStream uid
      (fun d => { d with pieces := modPiece num (fun p => p.take pos bs) d.pieces }))

/-- A home has performed an engine's write: the piece's last ends it. -/
def State.opWrote (s : State) (g : GroupId) (uid num : Nat) : State :=
  let down (p : Piece) : Piece := { p with need := p.need - 1 }
  let s := s.modGroup g (fun x =>
    (x.modOp uid (fun o => { o with pieces := modPiece num down o.pieces })).modStream uid
      (fun d => { d with pieces := (modPiece num down d.pieces).filter (fun p => 0 < p.need) }))
  match ((s.group? g).bind (fun x => x.op? uid)).bind (fun o => o.pieces.find? (fun p => p.num == num)) with
  | some p => if p.need = 0 then s.pieceDone g uid num else s
  | none => s

end Sys2Proof.Machine
end

