-- ==== Sys2Proof/Machine/Easel.lean ====
section
/-! DEFINITION. The moves of the Easel (09 R232): entering, performing, returning, echoing and evicting; fences (09
R247 to R249); and the steps of the table that make them. -/

namespace Sys2Proof.Machine

/-- The home of a resolved access under a policy, with the line of policy 2 written back and dropped (R197, R234). -/
def State.route (s : State) (r : Resolved) (pol : Nat) : Home × State :=
  match r.target with
  | .sp g off => (.bank g (bankOf off), s)
  | .mem key =>
    if r.space = 5 then (.control, s) else s.routeAt s.g.die key r.pa pol

/-- Set the TMASK bits of an access: its home, and behind a slice the memory home (R237 item 5). -/
def State.markHomes (s : State) (h : Home) (t : Target) : State :=
  match h, t with
  | .slice _ _, .mem key => (s.mark h).mark (keyHome key)
  | _, _ => s.mark h

/-- Enter an access of the issuing strand: mark, number, channel; a granule in scratchpad joins both its banks. -/
def State.send (s : State) (r : Resolved) (pol : Nat) (granule chk : Bool) (act : Act) : Nat × State :=
  let (h, s) := s.route r pol
  let s := s.markHomes h r.target
  let (id, s) := s.newId
  let also : Option Home := match r.target with
    | .sp g off => if granule then some (.bank g (bankOf (off + 8))) else none
    | _ => none
  let m : Msg := { id := id, who := some s.me, owner := s.st.serial, act := act, target := r.target, ptr := pointer r.space r.v, pol := pol, chk := chk
                   clock := s.st.clock, also := also }
  let src : Agent := s.agent
  let s := s.enter ⟨src, h⟩ m
  match also with
  | some h2 => (id, (s.mark h2).enter ⟨src, h2⟩ m)
  | none => (id, s)

/-! ### Perform (R232) -/

/-- Give a parked strand its answer. -/
def State.answer (s : State) (w : StrandId) (id : Nat) (p : Prog) : State :=
  s.modStrand w (fun t =>
    match t.prog with
    | .waiting i _ => if i = id then { t with prog := p, run := .ready } else t
    | _ => t)

/-- How an AMO combines (R223). -/
def amoValue (t : Ty) (fn : AmoFn) (old b : Quad) : Quad :=
  let n := if memSize t = 16 then 8 else memSize t
  let w := 8 * n
  let x := old.setWidth w
  let y := b.setWidth w
  let sgn := match t with | .i32 | .w7 => true | _ => false
  let lt := if sgn then x.toInt < y.toInt else x.toNat < y.toNat
  let r : BitVec w := match fn with
    | .add => x + y
    | .and => x &&& y
    | .or => x ||| y
    | .xor => x ^^^ y
    | .min => if lt then x else y
    | .max => if lt then y else x
    | .xchg => y
    | .fadd => ((fadd32 (old.setWidth 32) (b.setWidth 32)).setWidth w)
  r.setWidth 128

/-- Is an AMO one whose repeats commute (R228)? -/
def commuting (fn : AmoFn) (dst : Reg) : Option AmoFn :=
  match fn, dst with
  | .add, .c n | .and, .c n | .or, .c n | .xor, .c n | .min, .c n | .max, .c n => if n.val = 0 then some fn else none
  | _, _ => none

/-- The type as which an AMO or CAS loads its old value (R217, R223). -/
def amoTy : Ty → Ty | .w7 => .b64 | t => t

/-- The pointer form of a target that the optical core writes, as its sender would name it: LOCAL for its own group.
DEDUCED (log 29). -/
def State.wordPtr (_s : State) (w : StrandId) (t : Target) : Lane :=
  match t with
  | .sp g off => if g = w.g then pointer 0 off else pointer 1 (g.num * 2 ^ 28 + off)
  | .mem k => pointer 3 k

/-- Deliver one value to its register (R50); poisoned data marks the register (R402). -/
def State.deliver (s : State) (r : InFlight) (v : Quad) : State :=
  s.atOwner r.who r.owner (fun s =>
    match r.bad with
    | none => s.writeReg r.dst v r.tag
    | some ptr =>
      match r.dst with
      | .s n =>
        { s with g := { s.g with
            sr := s.g.sr.set n.val { s.g.sr[n] with out := false } n.isLt
            swrites := s.g.swrites ++ [⟨s.now + 4 * s.cyc, n, { s.g.sr[n] with full := false, tag := false, poison := some ptr }⟩] } }
      | d => s.modSt (fun t => t.setCell d { s.cell d with out := false, full := false, poison := some ptr }))

/-- A message whose target lies in a retired memory-die bank: the pointer form of its address (16 R455). -/
def State.deadAt (s : State) (m : Msg) : Option Lane :=
  match m.target with
  | .mem k =>
    match keyHome k with
    | .mem d b => if s.dev.deadBanks.contains (d, b) then some m.ptr else none
    | _ => none
  | .sp _ _ => none

/-- A message that reads an uncorrectable word of a scratchpad: the pointer form of the word (15 R402). -/
def State.badPtr (s : State) (m : Msg) (n : Nat) : Option Lane :=
  match m.target with
  | .sp g off => (s.badIn g off n).map (fun w => wordPointer m.ptr (8 * (w - off / 8)))
  | .mem _ => none

/-- A response goes on as far as it can (R279, R284), after its group where that has moved. -/
def State.goBack (s : State) (r : InFlight) : Trail × State :=
  s.carry (s.follow r.trail ((s.group? r.who.g).bind Group.loc)) r.meshClass r.flits ⟨r.who, r.owner, 2 ^ 65 + r.id⟩ (.value r.id)

/-- The way of a response from its home to a place, on the path of its pair (R238). -/
def State.wayBack (s : State) (r : InFlight) (b : Option Loc) : Trail :=
  let mate (x : InFlight) : Bool := x.home == r.home && x.who.g == r.who.g && x.owner == r.owner
  s.trailOf (s.homeLoc r.home) b (s.cycAt r.who.g) ((s.rets.reverse.find? mate).map (·.trail))

/-- A response starts on its way back (R232 Return). -/
def State.sendTo (s : State) (r : InFlight) (b : Option Loc) : State :=
  let r := { r with trail := s.wayBack r b }
  let x := s.goBack r
  { x.2 with rets := x.2.rets ++ [{ r with trail := x.1 }] }

/-- A value starts on its way back to its strand. -/
def State.sendBack (s : State) (r : InFlight) : State := s.sendTo r ((s.group? r.who.g).bind Group.loc)

/-- A word of a link port goes on over the mesh as far as it can, after its group where that has moved: whether it has come (R287). -/
def State.goWord (s : State) (w : LinkFly) : Bool × State :=
  match w.trail with
  | none => (true, s)
  | some t =>
    let t := s.follow t ((s.group? w.dst).bind Group.loc)
    let u := s.goOn .response 2 t
    let s := s.carried t u
    if u.legs.isEmpty then (true, s)
    else (false, { s with linkWords := updateFirst (fun x => x == w) (fun x => { x with trail := some u }) s.linkWords })
/-- A word is in its port's FIFO. -/
def State.landWord (s : State) (w : LinkFly) : State :=
  let i := portIdx w.port
  { s with linkWords := s.linkWords.erase w }.modGroup w.dst (fun g => { g with links := g.links.set i.val (g.links[i] ++ [w.v]) i.isLt })

/-- What a response that has come does. -/
def State.comeBack (s : State) (r : InFlight) : State :=
  match r.back with
  | .value => s.deliver r r.v
  | .answer p => s.answer r.who r.id p
  | .data uid piece pos bs => s.opGot r.who.g uid piece pos bs
  | .echo => s

/-- A home answers a message: at once where it lies on the tile of the one that asked, else by a response on its way (R284). -/
def State.respondTo (s : State) (m : Msg) (h : Home) (b : Option Loc) (k : Back) : State :=
  match m.who with
  | none => s
  | some w =>
    let r : InFlight := { id := m.id, who := w, owner := m.owner, dst := .c 0, v := 0, tag := false, bad := none, half := none
                          home := h, back := k }
    if (s.wayBack r b).legs.isEmpty then s.comeBack r else s.sendTo r b

/-- A home answers the strand, or the copy unit, of a message. -/
def State.respond (s : State) (m : Msg) (h : Home) (k : Back) : State :=
  s.respondTo m h (m.who.bind (fun w => (s.group? w.g).bind Group.loc)) k

/-- A strand is parked until the access of a number answers (R228, R263). -/
def State.waitsFor (s : State) (w : StrandId) (id : Nat) : Bool :=
  match s.strand? w with
  | some t => (match t.prog with | .waiting i _ => i == id | _ => false)
  | none => false

/-- Send a value back to its strand; one that is parked for it has it at once (R228, R263). -/
def State.giveBack (s : State) (m : Msg) (h : Home) (dst : Reg) (v : Quad) (tag : Bool) (half : Option Bool) : State :=
  match m.who with
  | none => s
  | some w =>
    match s.deadAt m with
    | some p =>
      let r : InFlight := { id := m.id, who := w, owner := m.owner, dst := dst, v := v, tag := tag, bad := some p, half := half, home := h }
      if m.chk || s.waitsFor w m.id then (s.deliver r v).modStrand w Strand.step12 else s.sendBack r
    | none =>
      if m.chk || s.waitsFor w m.id then s.respond m h (.answer (.answered v 0 tag true))
      else s.sendBack { id := m.id, who := w, owner := m.owner, dst := dst, v := v, tag := tag, bad := none, half := half, home := h }

/-- A load, atomic or synchronising read (R248). -/
def Act.isLoad : Act → Bool
  | .load _ _ | .loadQ _ _ | .loadRest _ _ _ | .loadCap _ _ | .amo _ _ _ _ | .cas _ _ _ _ | .lde _ | .record | .mxLoad _ _ _ => true
  | _ => false

/-- The acquire epoch of the strand of a message, wherever it stands now (R235, R353). -/
def State.fillAge (s : State) (m : Msg) : Nat := ((m.who.bind (fun w => s.strandOf w m.owner)).map (·.ae)).getD 0

/-- Make a slice able to serve an access under policies 0 and 1 (R197, R234, R235); each access of the control die has free
bytes of its own (R211). DESIGN CHOICE (log 10). DEDUCED (log 20). -/
def State.prepare (s : State) (h : Home) (m : Msg) : State :=
  match h, m.target with
  | .slice v n, .mem key =>
    let ae := s.fillAge m
    match s.line? v key with
    | some _ => if m.act.isLoad then s.needLine v n key ae else s
    | none => if m.pol = 0 then s.fillLine v n key else s.drainBack ⟨.slice v n, keyHome key⟩
  | .control, _ => { s with fresh := s.fresh + 16 }
  | _, _ => s

/-- The words an act reads or writes, whether it writes, whether it commutes, and its CONFLICT detail. -/
def Act.shape : Act → Nat × Bool × Option AmoFn × Nat
  | .load t _ => (memSize t, false, none, 1)
  | .loadQ _ _ | .loadRest _ _ _ => (8, false, none, 1)
  | .loadCap _ _ => (16, false, none, 1)
  | .store n _ => (n, true, none, 1)
  | .storeCap _ _ => (16, true, none, 1)
  | .amo t fn _ d => (min 8 (memSize t), true, commuting fn d, 2)
  | .cas t _ _ _ => (memSize t, true, none, 2)
  | .lde take => (8, take, none, 3)
  | .stf _ => (8, true, none, 3)
  | .feset _ => (8, true, none, 3)
  | .record => (16, false, none, 1)
  | .opRead _ _ _ n => (n, false, none, 1)
  | .put bs => (bs.length, true, none, 1)
  | .opWrite _ _ bs => (bs.length, true, none, 1)
  | .mxLoad _ _ _ => (8, false, none, 1)
  | _ => (0, false, none, 1)

/-- The owner, component and stamp that date an engine's access (R257): a stream's by unit. -/
def State.engDate (s : State) (w : StrandId) (a : Act) : Option (Nat × Nat × Nat) :=
  match a with
  | .opRead uid num _ _ | .opWrite uid num _ =>
    match (s.group? w.g).bind (fun g => g.stream? uid) with
    | some d => some (d.owner, engineComp uid, num + 1)
    | none => some ((((s.group? w.g).bind (fun g => g.op? uid)).map (·.owner)).getD (s.serialOf w), engineComp uid, 1)
  | _ => none

/-- What a conflict turns away (R228, R257): a strand's access fails, an engine's pauses its operation. -/
def State.turnAway (s : State) (h : Home) (m : Msg) (w : StrandId) (detail k : Nat) : State :=
  let ptr := wordPointer m.ptr k
  match m.act with
  | .opRead uid _ _ _ | .opWrite uid _ _ =>
    ({ s with held := s.held ++ [((⟨.copyUnit w.g, h⟩ : ChanId), m)] }).pauseOp w.g uid ⟨.conflict, detail, ptr⟩
  | .mxLoad num _ _ =>
    let put (f : MxFlight) : MxFlight := { f with trap := some (f.trap.getD ⟨.conflict, 0, detail, ptr⟩) }
    s.modGroup w.g (fun g => { g with mx := updateFirst (fun f => f.num == num) put g.mx })
  | _ => s.respond m h (.answer (.failed .conflict detail ptr))

/-- A synchronising access is refused at a word (R204): one more retry is owed. -/
def State.refuse (s : State) (w : StrandId) (id word : Nat) : State :=
  s.modStrand w (fun t => match t.prog with
    | .waiting i n => if i = id then { t with prog := .refused (n + 1) s.now word false } else t
    | _ => t)

/-- LDE (`take`) or LDF at its home (R203): a full word gives its bytes; an STF or FESET.FULL that filled it is ordered
before (R228), and then the access is checked. -/
def State.syncRead (s : State) (h : Home) (m : Msg) (take : Bool) : State :=
  match m.target, m.who with
  | .sp g off, some w =>
    match s.group? g with
    | none => s
    | some gr =>
      let word := off / 8
      if gr.spEmpty.contains word then s.refuse w m.id word
      else
        let s := s.modStrand w (fun t => { t with clock := joinClock t.clock (lookD gr.wordClocks word []) })
        let c := if m.chk then s.check w m.target 8 (joinClock m.clock (lookD gr.wordClocks word [])) take none 3 else (none, s)
        match c.1 with
        | some d => s.respond m h (.answer (.failed .conflict d.1 (wordPointer m.ptr 0)))
        | none =>
          let s := if take then c.2.modGroup g (fun gr => gr.setFull word false) else c.2
          s.respond m h (.answer (.answered (quadOfBytes (gr.readSp off 8)) 0 false true))
  | _, _ => s

/-- STF at its home (R203): an empty word takes the bytes and becomes full. -/
def State.syncWrite (s : State) (h : Home) (m : Msg) (v : Lane) : State :=
  match m.target, m.who with
  | .sp g off, some w =>
    match s.group? g with
    | none => s
    | some gr =>
      let word := off / 8
      if !gr.spEmpty.contains word then s.refuse w m.id word
      else
        let c := if m.chk then s.check w m.target 8 m.clock true none 3 else (none, s)
        match c.1 with
        | some d => s.respond m h (.answer (.failed .conflict d.1 (wordPointer m.ptr 0)))
        | none =>
          let s := c.2.modGroup g (fun gr =>
            { (gr.writeSp off (bytesOfNat 8 v.toNat)).setFull word true with
              wordClocks := insertKey gr.wordClocks word (bump (s.serialOf w) m.clock) })
          (s.modStrand w (fun t => { t with clock := bump t.serial t.clock })).respond m h (.answer (.answered 0 0 false true))
  | _, _ => s

/-- The message of an access of 16 bytes comes to ask for one of its words, at the head of that word's home.
DEDUCED (log 19). -/
def State.wordLeft (s : State) (h : Home) (m : Msg) (hi : Bool) (act : Act) : State :=
  let t := if hi then m.target.up else m.target
  let h := match t with | .sp g off => .bank g (bankOf off) | .mem _ => h
  let src : Agent := (m.who.map (fun w => Agent.strand w.g m.owner)).getD .control
  let ch : ChanId := ⟨src, h⟩
  s.setChan ch ({ m with act := act, target := t, ptr := if hi then wordPointer m.ptr 8 else m.ptr, also := none } :: s.chan ch)

/-- The first word of an LD.Q128 that is waited for has been read, in the order taken; the other is left (R233). -/
def State.readFirst (s : State) (h : Home) (m : Msg) (dst : Reg) (bs : List Byte) : State :=
  let hi := Config.highFirst s.fresh
  let v := BitVec.ofNat 64 (natOfBytes (if hi then bs.drop 8 else bs.take 8))
  { s with fresh := s.fresh + 1 }.wordLeft h m (!hi) (.loadRest dst (!hi) v)

/-- The first word of an ST.Q128 that is waited for is stored, in the order taken; the other is left (R233). -/
def State.writeFirst (s : State) (h : Home) (m : Msg) (v : Quad) (lnum : Option Nat) : State :=
  let hi := Config.highFirst s.fresh
  let half (b : Bool) : Quad := ((if b then v >>> 64 else v).setWidth 64).setWidth 128
  ({ s with fresh := s.fresh + 1 }.homeWrite h (if hi then m.target.up else m.target) (quadBytes 8 (half hi)) false lnum).wordLeft h m (!hi)
    (.store 8 (half (!hi)))

/-- What a home does with a message it performs (R232). The two words of an LD or ST with W = 7 are checked together, so that a conflict
is precise (R228), and performed one after the other (R233). DEDUCED (log 19). -/
def State.performMsg (s : State) (h : Home) (m : Msg) : State :=
  let s := s.prepare h m
  let lnum := m.who.map (·.g.launch)
  let sh := m.act.shape
  let bad : Option (Nat × Nat) × State :=
    match m.chk, m.who with
    | true, some w =>
      match m.act with
      | .lde _ | .stf _ => (none, s)
      | _ => s.check w m.target sh.1 m.clock sh.2.1 sh.2.2.1 sh.2.2.2 (s.engDate w m.act)
    | _, _ => (none, s)
  match bad.1, m.who with
  | some d, some w => s.turnAway h m w d.1 d.2
  | _, _ =>
    let s := bad.2
    let rd (n : Nat) : List Byte × Bool :=
      match h with
      | .control => match m.target with
        | .mem k => (s.ctrlSeen lnum k n, false)
        | _ => s.homeRead h m.target n
      | _ => s.homeRead h m.target n
    let wr (bs : List Byte) (tag : Bool) (s : State) : State := s.homeWrite h m.target bs tag lnum
    let done (s : State) : State := if m.chk then s.respond m h (.answer (.answered 0 0 false true)) else s
    match m.act with
    | .load t dst =>
      if t = .w7 && (s.deadAt m).isNone then s.readFirst h m dst (rd 16).1
      else s.giveBack m h dst (extend t (quadOfBytes (rd (memSize t)).1)) false none
    | .loadRest dst hi got =>
      let v := quadOfBytes (rd 8).1
      s.giveBack m h dst (if hi then v <<< 64 ||| got.setWidth 128 else (got.setWidth 128) <<< 64 ||| v) false none
    | .loadQ dst hi => s.giveBack m h dst (quadOfBytes (rd 8).1) false (some hi)
    | .loadCap dst cld => s.giveBack m h dst (quadOfBytes (rd 16).1) (cld && (rd 16).2) none
    | .store n v => if n = 16 then s.writeFirst h m v lnum else done (wr (quadBytes n v) false s)
    | .storeCap v tag => done (wr (quadBytes 16 v) tag s)
    | .amo t fn b dst =>
      let n := min 8 (memSize t)
      let old := quadOfBytes (rd n).1
      let s := wr (quadBytes n (amoValue t fn old b)) false s
      s.giveBack m h dst (match t with | .i32 => extend .i32 old | .w7 => (old.setWidth 64).signExtend 128 | _ => old) false none
    | .cas t expect b dst =>
      let n := memSize t
      let old := quadOfBytes (rd n).1
      let s := if old = quadOfBytes (quadBytes n expect) then wr (quadBytes n b) false s else s
      s.giveBack m h dst old false none
    | .record => s.respond m h (.answer (.answered (quadOfBytes (rd 16).1) 0 false true))
    | .lde take => s.syncRead h m take
    | .stf v => s.syncWrite h m v
    | .feset full =>
      match m.target, m.who with
      | .sp g off, some w =>
        let word := off / 8
        let s := s.modGroup g (fun gr =>
          if full then { gr.setFull word true with wordClocks := insertKey gr.wordClocks word (bump (s.serialOf w) m.clock) }
          else gr.setFull word false)
        done (if full then s.modStrand w (fun t => { t with clock := bump t.serial t.clock }) else s)
      | _, _ => s
    | .writeBack bs mask tags =>
      match m.target, h with
      | .mem k, _ => s.applyBack (k / 64) bs mask tags
      | _, _ => s
    | .opRead uid num pos n =>
      match m.who with
      | some w =>
        match (s.deadAt m).orElse (fun _ => s.badPtr m n) with
        | some p => ({ s with held := s.held ++ [((⟨.copyUnit w.g, h⟩ : ChanId), m)] }).pauseOp w.g uid ⟨.machine, 0x04, p⟩
        | none => s.respond m h (.data uid num pos (rd n).1)
      | none => s
    | .put bs => wr bs false s
    | .opWrite uid num bs => match m.who with | some w => (wr bs false s).opWrote w.g uid num | none => s
    | .mxLoad num isB k =>
      match m.who with
      | some w =>
        let v : Lane := BitVec.ofNat 64 (natOfBytes (rd 8).1)
        let bad := s.badPtr m 8
        let put (f : MxFlight) : MxFlight :=
          let f := { f with trap := f.trap.orElse (fun _ => bad.map (fun p => ⟨.machine, 0, 0x02, p⟩)) }
          if isB then { f with wb := f.wb.set k (some v) } else { f with wa := f.wa.set k (some v) }
        s.modGroup w.g (fun g => { g with mx := updateFirst (fun f => f.num == num) put g.mx })
      | none => s
    | .probe | .mail _ => s

/-- Can a home perform its messages now (R201, R291)? -/
def State.canPerform (s : State) (h : Home) : Bool :=
  match h with
  | .bank g _ => match s.group? g with | some gr => gr.state == .resident || gr.state == .retired | none => true
  | .inbox _ => false
  | _ => true

/-- The home at which the other half of a granule access waits. -/
def Msg.otherHome (m : Msg) (h : Home) : Option Home :=
  match m.also with
  | none => none
  | some h2 => if h2 = h then (match m.target with | .sp g off => some (.bank g (bankOf off)) | _ => none) else some h2

/-- The control die reads from a device's function after a write of a strand to it: what the read leaves at the head of the channel,
for which FENCE.SYSTEM waits (R248). A write that enters the egress escrow has reached its target there. DESIGN CHOICE (log 10). -/
def State.readAfter (s : State) (ch : ChanId) (m : Msg) : Option Msg :=
  match ch.home, m.act, m.target with
  | .control, .store n _, .mem k =>
    if n != 16 && Config.deviceWindow (k - ctrlBase) && !((((m.who.map (·.g.launch)).bind s.launch?).map Launch.pointed).getD false) then
      some { m with act := .put [], chk := false }
    else none
  | _, _, _ => none

/-- The message at the head of a channel is performed, with its other half where it has one and that heads its channel.
DEDUCED (log 19). -/
def State.performHead (s : State) (ch : ChanId) : State :=
  match s.chan ch with
  | [] => s
  | m :: rest =>
    match m.act with
    | .probe => s
    | _ =>
      if !s.canPerform ch.home then s
      else
        match m.otherHome ch.home with
        | none => (s.setChan ch ((s.readAfter ch m).toList ++ rest)).performMsg ch.home m
        | some h2 =>
          match s.chan ⟨ch.src, h2⟩ with
          | m2 :: rest2 =>
            if m2.id = m.id then ((s.setChan ch rest).setChan ⟨ch.src, h2⟩ rest2).performMsg ch.home m else s
          | [] => s

/-- A slice has to fill the line of a message: it holds none, or one too old for a load (R197, R235). -/
def State.lacksLine (s : State) (v key : Nat) (m : Msg) : Bool :=
  match s.line? v key with
  | none => m.pol == 0
  | some l => m.act.isLoad && l.epoch < s.fillAge m

/-- A fill's packet goes on as far as it can. -/
def State.goFill (s : State) (v : Nat) (f : Fill) : Trail × State :=
  s.carry f.trail f.meshClass f.flits ⟨⟨⟨0, 0⟩, 0⟩, v, 2 ^ 66 + f.key⟩ (.fill v f.key)
/-- Keep a fill that is on its way. -/
def State.putFill (s : State) (v : Nat) (f : Fill) : State :=
  s.modDie v (fun d => { d with fills := f :: d.fills.filter (fun x => x.key != f.key) })

/-- The line that a message at a slice needs has come: a request to the memory home and the bytes on their way back (R284). Where it
has not, they have gone on as far as they could. DEDUCED (log 20). -/
def State.lineComes (s : State) (h : Home) (m : Msg) : Bool × State :=
  match h, m.target with
  | .slice v n, .mem key =>
    if !s.lacksLine v key m then (true, s)
    else
      let here : Option Loc := some (.tile v (sliceTile n))
      let home := s.homeLoc (keyHome key)
      let drop (s : State) : State := s.modDie v (fun d => { d with fills := d.fills.filter (fun x => x.key != key / 64) })
      let f : Fill := (((s.die? v).bind (fun d => d.fills.find? (fun x => x.key == key / 64)))).getD
        { key := key / 64, slice := n, trail := s.trailOf here home Config.cycleTicks none }
      let x := s.goFill v f
      let f := { f with trail := x.1 }
      if !x.1.legs.isEmpty then (false, x.2.putFill v f)
      else if f.back then (true, drop x.2)
      else
        let f := { f with back := true, trail := x.2.trailOf home here Config.cycleTicks none }
        let y := x.2.goFill v f
        if y.1.legs.isEmpty then (true, drop y.2) else (false, y.2.putFill v { f with trail := y.1 })
  | _, _ => (true, s)

/-- The head of a channel has come to its home: over the optical core where its way goes over it, and through the mesh, whose
full pools hold it back at the router before (R279, R284), and where it needs a line, that has come too. Where it has not, it has
gone on as far as it could. -/
def State.headArrives (s : State) (ch : ChanId) : Bool × State :=
  match s.chan ch with
  | [] => (true, s)
  | m :: rest =>
    let x := s.goMsg ch { m with trail := s.follow m.trail (s.homeLoc ch.home) }
    let s := x.2.setChan ch ({ m with trail := x.1 } :: rest)
    if x.1.legs.isEmpty then s.lineComes ch.home m else (false, s)

/-- Perform what a channel holds, up to a message (R232): what an access that waits for its own home makes of the moves
before it. DEDUCED (log 19). -/
def State.drainTo : Nat → ChanId → Option Nat → State → State
  | 0, _, _, s => s
  | n + 1, ch, stop, s =>
    match s.chan ch with
    | [] => s
    | m :: rest =>
      if some m.id = stop then s
      else
        match m.act with
        | .probe => State.drainTo n ch stop (s.setChan ch rest)
        | _ =>
          match m.otherHome ch.home with
          | none => State.drainTo n ch stop (s.performHead ch)
          | some h2 => State.drainTo n ch stop ((State.drainTo n ⟨ch.src, h2⟩ (some m.id) s).performHead ch)

/-- Enough to perform every message of the channels: an access of 16 bytes takes two turns. -/
def State.chanFuel (s : State) : Nat := 2 * (s.chans.map (fun c => c.2.length)).sum + 1

/-- A write of the pool engine, an OMC port or the control die: it enters the channel of its agent and home and is performed
there, behind what the channel held (R230, R232). DEDUCED (log 57). -/
def State.agentPut (s : State) (a : Agent) (h : Home) (t : Target) (bs : List Byte) (who : Option StrandId) : State :=
  let (id, s) := s.newId
  let c : ChanId := ⟨a, h⟩
  let s := s.enter c { id := id, who := who, act := .put bs, target := t }
  State.drainTo s.chanFuel c none s

/-- Such a write to scratchpad, word by word at the banks. DEDUCED (log 57). -/
def State.agentPutSp (s : State) (a : Agent) (g : GroupId) (off : Nat) (bs : List Byte) (who : Option StrandId) : State :=
  (List.range ((bs.length + 7) / 8)).foldl (fun (s : State) k =>
    s.agentPut a (.bank g (bankOf (off + 8 * k))) (.sp g (off + 8 * k)) ((bs.drop (8 * k)).take 8) who) s

/-! ### Probes and fences (R236, R247 to R249) -/

/-- The reaction scope of a launch (R236). -/
def State.reactionScope (s : State) (l : Launch) : Scope :=
  match l.dies with
  | [] | [_] => .die
  | d :: r => if r.all (fun v => s.regionOf v == s.regionOf d) then .region else .device

/-- The scope of the issuing strand's reaction. -/
def State.myScope (s : State) : Scope := (s.myLaunch.map s.reactionScope).getD .die

/-- Is a home among those a fence of a scope waits for (R236)? -/
def inScope (sc : Scope) (own : GroupId) (h : Home) : Bool :=
  match sc with
  | .tile => match h with | .bank g _ => g == own | _ => false
  | _ => true

/-- Is bit hash(H) of a mask set? -/
def maskHas (m : Lane) (h : Home) : Bool := m.getLsbD (homeHash h)

/-- The strand's loads at homes of the scope and mask have not all returned: by its serial, whatever slot it held (R353). -/
def State.loadsOut (s : State) (w : StrandId) (sc : Scope) (m : Lane) : Bool :=
  s.chans.any (fun c => c.1.src == s.agentOf w && inScope sc w.g c.1.home && maskHas m c.1.home
      && c.2.any (fun x => x.act.isLoad))
    || s.rets.any (fun r => r.who.g == w.g && r.owner == s.serialOf w && (match r.back with | .value | .answer _ => true | _ => false)
        && inScope sc w.g r.home && maskHas m r.home)

/-- Put a probe behind every channel a test picks; the numbers of the probes. -/
def State.probe (s : State) (pick : ChanId → Bool) (who : Option StrandId) : List Nat × State :=
  (s.chans.map (·.1)).foldl (fun (a : List Nat × State) c =>
    if pick c then
      let (id, s) := a.2.newId
      (a.1 ++ [id], s.enter c { id := id, who := who, owner := (who.map s.serialOf).getD 0, act := .probe, target := .mem 0 })
    else a) ([], s)

/-- The dirty lines of a die's slices whose homes a mask names enter their channels (R248 WriteBack). -/
def State.writeBackDie (s : State) (v : Nat) (m : Lane) : State :=
  let ls := ((s.die? v).map (·.lines)).getD []
  ls.foldl (fun (s : State) (l : Line) =>
    if l.dirty != 0 && maskHas m (.slice v l.slice) && maskHas m (keyHome (l.key * 64)) then
      let (id, s) := s.newId
      let s := s.enter ⟨.slice v l.slice, keyHome (l.key * 64)⟩
        { id := id, who := none, act := .writeBack l.bytes l.dirty l.tags, target := .mem (l.key * 64) }
      s.modDie v (fun d => { d with lines := updateFirst (fun x => x.key == l.key) (fun x => { x with dirty := 0 }) d.lines })
    else s) s

/-- Some of the probes have not echoed, or their echoes have not come back. -/
def State.probesOut (s : State) (ids : List Nat) : Bool :=
  s.chans.any (fun c => c.2.any (fun m => ids.contains m.id)) || s.rets.any (fun r => r.back == .echo && ids.contains r.id)

/-- Scopes in order (R236). -/
def scopeWide : Scope → Nat
  | .tile => 0 | .die => 1 | .region => 2 | .device => 3 | .system => 4

/-- The messages of the strand that the optical core or an OSEND carries and that are not acknowledged (R246, R312). -/
def State.omcWaits (s : State) : List Outstanding := s.st.outstanding.filter (fun o => o.osend || o.omc)

/-- One strand's message: the group, the serial and the number agree, whatever slot it has come to hold (R353). -/
def MsgKey.is (a b : MsgKey) : Bool := a.who.g == b.who.g && a.owner == b.owner && a.seq == b.seq
/-- A message's name. -/
def Mail.key (m : Mail) : MsgKey := ⟨m.sender, m.owner, m.seq⟩
/-- The channel's end from which it comes. -/
def Mail.src (m : Mail) : Agent := .strand m.sender.g m.owner
/-- A message of a channel to an inbox, with the way that it has come so far (R285). -/
def Msg.mail? (m : Msg) : Option Mail :=
  match m.act with
  | .mail x => some { x with hops := m.trail.hops, cost := m.trail.cost + 2 }
  | _ => none
/-- A block's name. -/
def Block.msgKey (b : Block) : MsgKey := ⟨b.who, b.owner, b.seq⟩
/-- A message of the issuing strand. -/
def State.myKey (s : State) (seq : Nat) : MsgKey := ⟨s.me, s.st.serial, seq⟩

/-- A message has been relayed, and its relay acknowledgement has not come (R301). -/
def State.relayedOut (s : State) (k : MsgKey) : Bool :=
  s.dies.any (fun d => d.relay.any (fun m => m.key.is k))
    || s.blocks.any (fun b => b.msgKey.is k && b.relay.isSome && b.refused)
    || s.relayAcks.any (fun a => a.key.is k)

/-- A message has been accepted: its acknowledgement is on its way. -/
def State.acceptedKey (s : State) (k : MsgKey) : Bool := s.msgAcks.any (fun a => a.key.is k && !a.hold)
/-- A probe of the issuing strand's OFENCE. -/
def State.myProbe (s : State) (p : OProbe) : Bool := p.who.g == s.g.gid && p.owner == s.st.serial

/-- The die CSR RTLAT counts a message that is accepted (R286). -/
def State.tellDie (s : State) (v lat : Nat) : State :=
  s.modDie v (fun d => { d with maxlat := min (2 ^ 32 - 1) (max d.maxlat lat), count := (d.count + 1) % 2 ^ 32 })

/-- An acknowledgement or a HOLD notice goes on as far as it can. -/
def State.goAck (s : State) (a : Ack) : Trail × State :=
  s.carry (s.follow a.trail ((s.group? a.key.who.g).bind Group.loc)) .response 1
    { a.key with seq := 2 ^ 67 + 2 * a.key.seq + (if a.hold then 1 else 0) } (.ack a.key a.hold)

/-- An acknowledgement or a HOLD notice starts on its way from a place to the source tile of a message (R291, R295). -/
def State.post (s : State) (k : MsgKey) (hold : Bool) (from_ : Option Loc) : State :=
  let mate (a : Ack) : Bool := a.key.who.g == k.who.g && a.key.owner == k.owner
  let a : Ack := { key := k, hold := hold, trail := s.trailOf from_ ((s.group? k.who.g).bind Group.loc) (s.cycAt k.who.g)
                    ((s.msgAcks.reverse.find? mate).map (·.trail)) }
  let x := s.goAck a
  { x.2 with msgAcks := x.2.msgAcks ++ [{ a with trail := x.1 }] }
/-- The acknowledgement of a message. -/
def State.postAck (s : State) (k : MsgKey) (from_ : Option Loc) : State := s.post k false from_
/-- A HOLD notice for a message, where none is on its way and the message's timer runs. -/
def State.postHold (s : State) (k : MsgKey) (from_ : Option Loc) : State :=
  let runs := ((s.strandOf k.who k.owner).map (fun t => t.outstanding.any (fun o => o.seq == k.seq && o.since.isSome))).getD false
  if !runs || s.msgAcks.any (fun a => a.hold && a.key.is k) then s else s.post k true from_

/-- An acknowledgement reaches its source tile, where the message is outstanding no more; at a HOLD notice its timer stops (R295). -/
def State.acked (s : State) (a : Ack) : State :=
  let stop (o : Outstanding) : Outstanding :=
    { o with counted := o.counted + (o.since.map (fun f => (s.now - f) / s.cycAt a.key.who.g)).getD 0, since := none }
  s.atOwner a.key.who a.key.owner (fun s => s.modSt (fun t =>
    { t with outstanding := if a.hold then updateFirst (fun o => o.seq == a.key.seq) stop t.outstanding
                            else t.outstanding.filter (fun o => o.seq != a.key.seq) }))

/-- The waits of OFENCE (R312): relay acknowledgements; then a probe for each die, behind the strand's messages to it, which
echoes once all of them are accepted; true when nothing is out. On the own die, and before stage 3, the probe has no slot to
wait for. -/
def State.ofenceRun (s : State) : Bool × State :=
  let out := s.omcWaits
  let mine := s.oprobes.filter s.myProbe
  if out.any (fun o => s.relayedOut (s.myKey o.seq)) then (false, s)
  else if mine.isEmpty then
    if out.isEmpty then (true, s.modSt (fun t => { t with ofences := t.ofences + 1 }))
    else
      let probe (v : Nat) : OProbe :=
        { who := s.me, owner := s.st.serial, src := s.g.die, dst := v, seq := ((out.filter (fun o => o.die == v)).map (·.seq)).foldl max 0
          sent := v == s.g.die || s.dev.stage < 3 }
      (false, { s with oprobes := s.oprobes ++ ((out.map (·.die)).eraseDups).map probe })
  else if mine.all (fun p => p.sent && out.all (fun o => o.die != p.dst || p.seq < o.seq || s.acceptedKey (s.myKey o.seq))) then
    (true, { s with oprobes := s.oprobes.filter (fun p => !s.myProbe p) }.modSt (fun t => { t with ofences := t.ofences + 1 }))
  else (false, s)

/-- The acquire of a fence at region scope and above: a new fill epoch (R235, R248). -/
def State.newEpoch (s : State) : State :=
  let v := s.g.die
  let de : Nat := (((s.die? v).map (·.de)).getD 0 + 1) % 2 ^ 32
  let s :=
    if de = 0 then
      let keys := (((s.die? v).map (·.lines)).getD []).map (·.key)
      keys.foldl (fun (s : State) k => s.flushLine v (k * 64) false) s
    else s
  (s.modDie v (fun d => { d with de := de })).modSt (fun t => { t with ae := de })

/-- The end of a fence (R248). -/
def State.fenceEnd (s : State) (sc : Scope) (k : FKind) (m : Lane) (n : Nat) : State :=
  let s := if k != .rel && 2 ≤ (scopeWide sc) then s.newEpoch else s
  let s := if k != .acq && 1 ≤ (scopeWide sc) then s.modSt (fun t => { t with tmask := t.tmask &&& ~~~m }) else s
  s.modSt (fun t => { t with prog := .fenced (n + 1) })

/-- A CTRL write of the strand has not reached its target: the control die has neither performed it nor taken it into the
egress escrow (R236, R248). -/
def State.ctrlOut (s : State) : Bool := (s.chan ⟨s.agent, .control⟩).any (fun m => m.act.shape.2.1)

/-- The last waits of a fence: the optical core's from DEVICE on, and the CTRL writes' at SYSTEM. -/
def State.fenceLast (s : State) (sc : Scope) (k : FKind) (m : Lane) (n : Nat) : Bool × State :=
  let r := if 3 ≤ scopeWide sc then s.ofenceRun else (true, s)
  if !r.1 || (scopeWide sc = 4 && r.2.ctrlOut) then (false, r.2) else (true, r.2.fenceEnd sc k m n)

/-- The write-backs of a fence are under way; done when their probes have echoed. -/
def State.fenceBack (s : State) (sc : Scope) (k : FKind) (m : Lane) (n : Nat) (ids : List Nat) : Bool × State :=
  if s.probesOut ids then (false, s) else s.fenceLast sc k m n

/-- The probes to the homes are under way; from REGION on the slices then write back and are probed. -/
def State.fenceProbe (s : State) (sc : Scope) (k : FKind) (m : Lane) (n : Nat) (ids : List Nat) : Bool × State :=
  if s.probesOut ids then (false, s)
  else if 2 ≤ (scopeWide sc) then
    let v := s.g.die
    let s := s.writeBackDie v m
    let (ids, s) := s.probe (fun c => match c.src with
      | .slice d x => d == v && maskHas m (.slice d x) && maskHas m c.home
      | _ => false) (some s.me)
    (s.modSt (fun t => { t with prog := .writingBack sc k m ids })).fenceBack sc k m n ids
  else s.fenceLast sc k m n

/-- Run the n-th fence of an instruction as far as it goes: true once it has completed (R248). -/
def State.fenceRun (s : State) (sc : Scope) (k : FKind) (m : Lane) (n : Nat) : Bool × State :=
  match s.st.prog with
  | .probing sc' k' m' ids => s.fenceProbe sc' k' m' n ids
  | .writingBack sc' k' m' ids => s.fenceBack sc' k' m' n ids
  | .fenced j => if n < j then (true, s) else start
  | .none | .untilFull _ _ _ => start
  | _ => (true, s)
where
  start : Bool × State :=
    if k != .rel && s.loadsOut s.me sc m then (false, s)
    else
      let (ids, s) := s.probe (fun c => c.src == s.agent && inScope sc s.g.gid c.home && maskHas m c.home) (some s.me)
      (s.modSt (fun t => { t with prog := .probing sc k m ids })).fenceProbe sc k m n ids

/-- A fence inside an instruction, then what follows it; `w` is the park in which it waits. -/
def State.fenceThen (s : State) (sc : Scope) (k : FKind) (n : Nat) (cont : State → Res) (w : Why := .fence) : Res :=
  let r := s.fenceRun sc k s.st.tmask n
  if r.1 then cont r.2 else .park w r.2

/-- The release of R254, before an engine's first access. -/
def State.engineRelease (s : State) (cont : State → Res) : Res := s.fenceThen .die .rel 0 cont

/-! ### Returning values (R232 Return) -/

/-- RETURN of the k-th value in flight; the two words of an LD.Q128 arrive together. -/
def State.returnOne (s : State) (k : Nat) : State :=
  match s.rets[k]? with
  | none => s
  | some r =>
    match r.half with
    | none => ({ s with rets := s.rets.eraseIdx k }).comeBack r
    | some hi =>
      let mate := s.rets.find? (fun x => x.who == r.who && x.owner == r.owner && x.dst == r.dst && x.half == some (!hi)
        && x.trail.legs.isEmpty && (x.id == r.id + 1 || r.id == x.id + 1))
      match mate with
      | none => s
      | some x =>
        let lo := if hi then x.v else r.v
        let up := if hi then r.v else x.v
        ({ s with rets := s.rets.filter (fun y => y.id != r.id && y.id != x.id) }).deliver r
          ((lo.setWidth 64).setWidth 128 ||| (up <<< 64))

/-- Late results of a group that have arrived by now: the register is written, flags are raised (R50, R146). -/
def State.arrive (s : State) (g : GroupId) (l : Late) : State :=
  s.atOwner ⟨g, l.slot⟩ l.owner (fun s =>
    let s := s.modSt (fun t => { t with fcsr := t.fcsr ||| BitVec.ofNat 64 l.flags })
    match l.dst with
    | .none => s
    | .reg r => s.writeReg r l.v
    | .pair k =>
      match pairRegs k with
      | [a, b] => (s.writeReg a l.v).writeReg b l.v2
      | _ => s)

/-- RESULT_ARRIVAL: the first late result of a group that may arrive now. -/
def execResultArrival (g : GroupId) (s : State) : Out :=
  .next <|
    match s.group? g with
    | none => s
    | some gr =>
      match gr.late.find? (fun l => l.lo ≤ s.now && !l.waits) with
      | none => s
      | some l =>
        let t := ({ s with now := min s.now l.due }.modGroup g (fun gr => { gr with late := gr.late.erase l })).arrive g l
        { t with now := s.now }

/-- LONG_COMMIT: the commit of a long instruction for which its strand waits (R146, R263): written, or trapped at the
instruction with every flag raised (R103). -/
def execLongCommit (w : StrandId) (s : State) : Out :=
  .next <|
    match (s.group? w.g).bind (fun gr => gr.late.find? (fun l => l.waits && l.slot == w.slot && l.lo ≤ s.now)), (s.strand? w).map (·.prog) with
    | some l, some Prog.committing =>
      let s := s.modGroup w.g (fun gr => { gr with late := gr.late.erase l })
      match l.trap with
      | some t =>
        (s.modStrand w (fun st => { st with fcsr := st.fcsr ||| BitVec.ofNat 64 l.flags })).trapStrand w t
      | none =>
        let t := { s with now := min s.now l.due }.arrive w.g l
        { t with now := s.now }.modStrand w Strand.step12
    | _, _ => s

/-- RETURN: a performed load's value reaches its register (R232), once it has come over the optical core where its way goes over
it, and through the mesh, whose full pools hold it back (R279, R284). -/
def execReturnValue (k : Nat) (s : State) : Out :=
  .next <|
    match s.rets[k]? with
    | none => s
    | some r =>
      let x := s.goBack r
      let s := { x.2 with rets := x.2.rets.set k { r with trail := x.1 } }
      if x.1.legs.isEmpty && !r.trail.lost then s.returnOne k else s

/-- A message of a strand's channel to an inbox waits in the arrival buffer: it is not accepted yet (R291). DEDUCED: it is
not performed either, so that a fence waits for it (R295). DEDUCED (log 27). -/
def State.unaccepted (s : State) (ch : ChanId) : Bool :=
  match ch.src, ch.home with
  | .strand w n, .inbox i => ((s.group? i).map (fun g => g.arrivals.any (fun m => m.sender.g == w && m.owner == n))).getD false
  | _, _ => false

/-- ECHO: a probe at the head of a channel leaves it (R232). DEDUCED (log 27). -/
def execEcho (ch : ChanId) (s : State) : Out :=
  .next <|
    match s.chan ch with
    | m :: rest => match m.act with
      | .probe =>
        if s.unaccepted ch then s
        else
          let x := s.headArrives ch
          if x.1 then (x.2.setChan ch rest).respondTo m ch.home (s.agentLoc ch.src) .echo else x.2
      | _ => s
    | [] => s

/-- EVICT: a slice writes back a dirty line and drops it (R232). DEDUCED (log 20). -/
def execEvict (die line : Nat) (s : State) : Out :=
  .next <|
    match (s.die? die).bind (fun d => d.lines[line]?) with
    | none => s
    | some l =>
      let drop (s : State) : State := s.modDie die (fun d => { d with lines := d.lines.filter (fun x => x.key != l.key) })
      if l.dirty = 0 then drop s
      else
        let (id, s) := s.newId
        drop (s.enter ⟨.slice die l.slice, keyHome (l.key * 64)⟩
          { id := id, who := none, act := .writeBack l.bytes l.dirty l.tags, target := .mem (l.key * 64) })

/-- SYNC_RESEND (R204): once a change of the word is reported or 256 c have passed, a refused synchronising access goes
again, or traps past SYNCLIM, when its strand issues. -/
def execSyncResend (w : StrandId) (s : State) : Out :=
  let cyc := s.cycAt w.g
  .next (s.modStrand w (fun t => match t.prog with
    | .refused _ at_ _ changed => if changed || at_ + 256 * cyc ≤ s.now then { t with run := .ready } else t
    | _ => t))

/-- A walk of a strand has finished: a TLBINV that waits for it waits no longer (15 R429). -/
def State.walkEnds (s : State) (w : StrandId) : State :=
  s.mapGroups (fun g => g.mapSt (fun t =>
    match t.prog with
    | .walksOut l => { t with prog := .walksOut (l.filter (· != w)) }
    | _ => t))

/-- What the second-level TLB of a die holds for a request (R215). -/
def State.l2Find (s : State) (die : Nat) (r : WalkReq) : Option TlbEntry :=
  (s.die? die).bind (fun d => d.l2.find? (fun e => e.hits r.space r.va))

/-- A walker of the die's 16 is free for a miss: those that came before it are fewer (R20, R215). -/
def State.walkerFree (s : State) (die : Nat) (r : WalkReq) : Bool :=
  let ahead (t : Strand) : Bool := match t.walkWant with
    | some q => q.num < r.num && (s.l2Find die q).isNone
    | none => false
  (((s.groups.filter (fun g => (g.place.map (·.die)) == some die)).map (fun g => (g.st.toList.filter ahead).length)).sum) < 16

/-- TLB_WALK_DONE: the second-level TLB or a walker answers a miss; the strand tries again. A translation that faults is not
cached (R214, R215). -/
def execTlbWalkDone (w : StrandId) (s : State) : Out :=
  .next <|
    match s.group? w.g with
    | none => s
    | some g =>
      match (g.st[w.slot]).walkWant, g.place with
      | some q, some p =>
        let tn := ((s.launch? w.g.launch).map (·.tenant)).getD 0
        let hit := s.l2Find p.die q
        if hit.isNone && !s.walkerFree p.die q then s
        else
          let r := match hit with | some e => (Except.ok e, s) | none => s.walk p.die tn q.space q.va
          let s := r.2.walkEnds w
          match r.1.bind (s.grant (s.launch? w.g.launch) q) with
          | .ok e => (s.fillTlb p.die p.tile e).modStrand w (fun t => { t with walkWant := none, run := .ready })
          | .error d => s.modStrand w (fun t =>
              { t with walkWant := none, walkFault := some (d, q.space, q.va), run := .ready })
      | _, _ => s

end Sys2Proof.Machine
end

