-- ==== Sys2Proof/Machine/Copy.lean ====
section
/-! DEFINITION. Class 0x9, stream registers, copies, gathers and transaction barriers, and the steps of the copy unit
(10 R252 to R276). -/

namespace Sys2Proof.Machine

/-! ### Checks (R260) -/

/-- What CheckCap asks. -/
structure CapAsk where
  ld : Bool := false
  st : Bool := false
  snd : Bool := false
  spaces : Nat → Bool
  align : Nat := 1
  /-- A must hold CST (15 R430). -/
  cst : Bool := false

/-- The address that a check of R260 reports: wrapped in the scratchpad spaces, as R218 forms it. -/
def State.capAddr (s : State) (c : Quad) : Nat :=
  let cur := capCursor c
  match capSpace c with
  | 0 => cur % s.wrapSize c
  | 1 => cur / 2 ^ 28 * 2 ^ 28 + cur % 2 ^ 28 % s.wrapSize c
  | _ => cur

/-- CheckCap (R260, R305). -/
def State.checkCap (s : State) (x : RegCell) (a : CapAsk) : Option Trap :=
  let c := x.v
  let sp := capSpace c
  let t (cause : Cause) (d v : Nat) : Option Trap := some ⟨cause, 0, d, pointer sp v⟩
  if !x.tag then some (⟨.captag, 0, 0x01, lane0 x⟩)
  else if 7 ≤ sp then t .captag 0x02 (capCursor c)
  else if !a.spaces sp then t .capperm 0x04 (capCursor c)
  else if a.ld && !capLD c then t .capperm 0x01 (capCursor c)
  else if a.st && !capST c then t .capperm 0x02 (capCursor c)
  else if a.snd && !capSND c then t .capperm 0x07 (capCursor c)
  else if a.cst && !capCST c then t .capperm 0x03 (capCursor c)
  else if capCursor c % a.align != 0 then t .align 0 (s.capAddr c)
  else if sp = 1 then
    match s.groupAt (capCursor c / 2 ^ 28) with
    | .bad d => t .outside d (s.capAddr c)
    | _ => none
  else none

/-- The checks of several operands in order: the first trap, or go on. -/
def State.checkCaps (s : State) (l : List (RegCell × CapAsk)) (k : Res) : Res :=
  match l.findSome? (fun x => s.checkCap x.1 x.2) with
  | some t => .trap t
  | none => k

/-- A barrier operand (R260). -/
def barAsk : CapAsk := { ld := true, st := true, spaces := (· ≤ 1), align := 16 }

/-- The pointer form of a barrier. -/
def State.barPtr (s : State) (c : Quad) : Lane := pointer (capSpace c) (s.capAddr c)

/-- Where a checked barrier lies, when its group can be reached. -/
def State.barPlace (s : State) (c : Quad) : GroupId × Nat :=
  if capSpace c = 0 then (s.g.gid, s.capAddr c)
  else (⟨s.g.gid.launch, capCursor c / 2 ^ 28⟩, s.capAddr c % 2 ^ 28)

/-- An access to a barrier at its home (R256): wait for its group, let the moves before it go, check it (R257), act. -/
def State.onBar (s : State) (c : Quad) (src : Agent) (write : Bool) (k : GroupId × Nat → State → Res) : Res :=
  let b := s.barPlace c
  match s.groupAt b.1.num with
  | .bad d => .trap ⟨.outside, 0, d, s.barPtr c⟩
  | .wait => .park .absent s
  | .at_ g =>
    if s.apart s.g g then .trap ⟨.outside, 0, 0x04, s.barPtr c⟩
    else if g.state == .swapping then .park .absent s
    else
      let fuel := s.chanFuel
      let s1 := State.drainTo fuel ⟨src, .bank b.1 (bankOf b.2)⟩ none s
      let s1 := State.drainTo fuel ⟨src, .bank b.1 (bankOf (b.2 + 8))⟩ none s1
      match s1.badIn b.1 b.2 16 with
      | some w => .trap ⟨.machine, 0, 0x02, wordPointer (s.barPtr c) (8 * (w - b.2 / 8))⟩
      | none =>
      let r := if s1.det then s1.check s1.me (.sp b.1 b.2) 16 s1.st.clock write (some .xchg) 2 else (none, s1)
      match r.1 with
      | some d => .trap ⟨.conflict, 0, d.1, wordPointer (s.barPtr c) d.2⟩
      | none => k b r.2

/-- An access of a TXB instruction: it sets the TMASK bits of its home (R237). -/
def State.txb (s : State) (x : RegCell) (write : Bool) (k : GroupId × Nat → State → Res) : Res :=
  s.checkCaps [(x, barAsk)] (s.onBar x.v s.agent write (fun b s =>
    k b ((s.mark (.bank b.1 (bankOf b.2))).mark (.bank b.1 (bankOf (b.2 + 8))))))

/-- A barrier as it stands. -/
def State.bar (s : State) (b : GroupId × Nat) : Bar := ((s.group? b.1).map (fun g => g.bar b.2)).getD ⟨0, 0, 0, 0⟩
/-- Update a barrier. -/
def State.updBar (s : State) (b : GroupId × Nat) (f : Bar → Bar) : State := s.modGroup b.1 (fun g => g.updBar b.2 f)

/-! ### Streams -/

/-- A pattern register (R261) as a descriptor, or none for an invalid one. -/
def patternOf (uid num : Nat) (slot : Fin 8) (owner : Nat) (reg : Fin 48) (out : Bool) (cap q : Quad) (clock : OrderClock) :
    Option StreamD :=
  let ew := (q.extractLsb' 0 3).toNat
  let strip := q.getLsbD 3
  let c0 := (q.extractLsb' 8 24).toNat
  let sz := 2 ^ ew
  if (q.extractLsb' 4 4) != 0 || 5 ≤ ew || c0 = 0 || (strip && (2 < sz || c0 % 8 != 0)) then none
  else some { uid := uid, num := num, slot := slot, owner := owner, reg := reg, output := out, cap := cap, count0 := c0
              count1 := (q.extractLsb' 64 32).toNat, stride0 := (q.extractLsb' 32 32).toInt
              stride1 := (q.extractLsb' 96 32).toInt, strip := strip, size := sz, clock := clock }

/-- The first of n numbers a, a + step, ... that leaves a range. -/
def firstOut (a step lo hi : Int) (n : Nat) : Option Nat :=
  if a < lo || hi < a then some 0
  else
    let k := if 0 < step then some ((hi - a) / step + 1).toNat
      else if step < 0 then some ((a - lo) / (-step) + 1).toNat else none
    k.bind (fun k => if k < n then some k else none)

/-- The first element of a stream that lies partly outside a capability (R262), as an address. -/
def StreamD.outside (d : StreamD) : Option Int :=
  let cur : Int := capCursor d.cap
  let lo : Int := capBase d.cap
  let hi : Int := capBase d.cap + capLen d.cap - d.size
  let rows := max 1 d.count1
  let w := ((d.count0 - 1 : Nat) : Int) * d.stride0
  let far : Int := 2 ^ 80
  let r1 := firstOut (cur + min 0 w) d.stride1 lo far rows
  let r2 := firstOut (cur + max 0 w) d.stride1 (-far) hi rows
  let r : Option Nat := match r1, r2 with
    | some a, some b => some (min a b)
    | some a, none => some a
    | none, b => b
  r.bind (fun (r : Nat) =>
    let row := cur + r * d.stride1
    (firstOut row d.stride0 lo hi d.count0).map (fun (j : Nat) => row + j * d.stride0))

/-- A free number below n. -/
def freeNum (n : Nat) (used : List Nat) : Option Nat := (List.range n).find? (fun k => !used.contains k)

/-- STRM (R262). -/
def execStrm (h : Head) (out : Bool) (d : Reg) (a b : PSrc) (s : State) : Out :=
  .next (s.issue h { ill := illGroup [d] } [pop1 a, pop1 b] [d] (fun l s =>
    s.checkCaps [(opv l 0, { ld := !out, st := out, spaces := (· ≤ 4), align := 2 ^ ((opv l 1).v.extractLsb' 0 3).toNat })] (
      let n := match d with | .c n => n | _ => 0
      let c := (opv l 0).v
      match patternOf s.nextId ((freeNum 32 ((s.g.streams.filter (fun d => !d.exhausted)).map (·.num))).getD 0) s.slot s.st.serial n out c (opv l 1).v s.st.clock with
      | none => .trap ⟨.copy, 0, 0x03, pointer (capSpace c) (s.capAddr c)⟩
      | some x =>
        if x.stride0 % x.size != 0 || x.stride1 % x.size != 0 then .trap ⟨.align, 0, 0, pointer (capSpace c) (s.capAddr c)⟩
        else
          match (if 2 ≤ capSpace c then x.outside else none) with
          | some v => .trap ⟨.capbound, 0, 0x04, pointer (capSpace c) (v % 2 ^ 44).toNat⟩
          | none =>
            if 32 ≤ (s.g.streams.filter (fun y => !y.exhausted)).length then .park .engineSlot s
            else
              s.engineRelease (fun s =>
                let s := s.modG (fun g => { g with streams := g.streams ++ [{ x with uid := s.nextId }] })
                .ok ({ s with nextId := s.nextId + 1 }.modSt (fun t =>
                  t.setCell d { v := 0, full := out, stream := true }))))))

/-- A register leaves stream mode and its descriptor is freed (R264). -/
def State.endStream (s : State) (d : Reg) (x : StreamD) : State :=
  let s := s.modG (fun g => { g with streams := g.streams.filter (fun y => y.uid != x.uid) })
  let s := { s with held := s.held.filter (fun m => match m.2.act with
    | .opRead u _ _ _ | .opWrite u _ _ => u != x.uid
    | _ => true) }
  s.modSt (fun t => { t.setCell d {} with clock := if s.det then insertKey t.clock (engineComp x.uid) (x.units + 1) else t.clock })

/-- STRMEND (R264). -/
def execStrmend (h : Head) (d : Reg) (s : State) : Out :=
  .next (s.issue h {} [] [] (fun _ s =>
    let n := match d with | .c n => n | _ => 0
    if !(s.cell d).stream then .ok s
    else
      match s.stream? n with
      | none => .ok (s.modSt (fun t => t.setCell d {}))
      | some x =>
        if !x.output then .ok (s.endStream d x)
        else
          match x.pause with
          | some p => .trap ⟨p.cause, 0, p.detail, p.ptr⟩ 0 (some x.num)
          | none =>
            if x.buffer.isEmpty && x.pieces.isEmpty then
              s.fenceThen .device .acq 0 (fun s => .ok (s.endStream d x))
            else .park .drain s))

/-- STRMQ (R265): in a deterministic launch the buffer's count reads as zero (R229). -/
def execStrmq (h : Head) (d : Reg) (a : Reg) (s : State) : Out :=
  .next (s.issue h {} [] [d] (fun _ s =>
    let v : Quad :=
      match a with
      | .c n =>
        match (if (s.cell a).stream then s.stream? n else none) with
        | none => 0
        | some x =>
          let bits := (if s.det then 0 else x.buffer.length % 256 * 256) + 128 + (if x.pause.isSome then 64 else 0)
            + (if x.output then 32 else 0) + x.num % 32
          quad2 (if x.exhausted then 0 else BitVec.ofNat 64 (x.units - x.moved)) (BitVec.ofNat 64 bits)
      | _ => 0
    .ok (s.writeReg d v)))

/-- STRMST of a strand (R266). -/
def Group.strmst (g : Group) (k : Fin 8) : Lane :=
  (g.streams.filter (fun d => d.owner == (g.st[k]).serial && !d.exhausted)).foldl (fun (v : Lane) d =>
    v ||| bitAt d.num ||| (if d.pause.isSome then bitAt (d.num + 32) else 0)) 0

/-! ### Bulk operations -/

/-- Start a bulk operation (R254, R252): release, slot, units added to SECT in one update, and the operation. -/
def State.startBulk (s : State) (exp : Bool) (bar : Quad) (o : BulkOp) : Res :=
  s.engineRelease (fun s =>
    match freeNum 16 ((s.g.ops.filter (fun o => !o.abandoned)).map (·.num)) with
    | none => .park .engineSlot s
    | some num =>
      let o := { o with uid := s.nextId, num := num, clock := s.st.clock }
      let put (s : State) : State := { s with nextId := s.nextId + 1, g := { s.g with ops := s.g.ops ++ [o] } }
      if exp then .ok (put s)
      else
        s.onBar bar (.copyUnit s.g.gid) true (fun b s =>
          let n := (s.bar b).sect + s.sectors o
          if 2 ^ 39 - 1 < n then .trap ⟨.copy, 0, 0x05, s.barPtr bar⟩
          else .ok (put (s.updBar b (fun x => { x with sect := n })))))

/-- A bulk operation before it starts. -/
def State.newBulk (s : State) (kind : BulkKind) (dst src idx bar : Quad) (size n total : Nat) : BulkOp :=
  { uid := 0, num := 0, slot := s.slot, owner := s.st.serial, kind := kind, dst := dst, src := src, idx := idx, bar := s.barPlace bar
    size := size, n := n, total := total }

/-- COPY (R267). -/
def execCopy (h : Head) (exp : Bool) (d : Reg) (a b : PSrc) (s : State) : Out :=
  .next (s.issue h { ill := illStream d } [pop1 a, pop1 b, dop d] [] (fun l s =>
    let dst := (opv l 2).v
    let src := (opv l 0).v
    s.checkCaps [(opv l 2, { st := true, spaces := (· ≤ 5) }), (opv l 0, { ld := true, spaces := (· ≤ 5) }),
      (opv l 1, barAsk)] (
      let n := min (capRest dst) (capRest src)
      if n = 0 then .ok s
      else s.startBulk exp (opv l 1).v
        (s.newBulk .copy dst src 0 (opv l 1).v 1 n ((capCursor dst % 64 + n + 63) / 64)))))

/-- COPYC (R268). -/
def execCopyc (h : Head) (rm : RMode) (sat exp : Bool) (src dst : BFmt) (d : Reg) (a b : PSrc) (s : State) : Out :=
  .next (s.issue h { ill := orIll (illMode rm) (illStream d) } [pop1 a, pop1 b, dop d] [] (fun l s =>
    let dc := (opv l 2).v
    let sc := (opv l 0).v
    s.checkCaps [(opv l 2, { st := true, spaces := (· ≤ 5), align := 64 }),
      (opv l 0, { ld := true, spaces := (· ≤ 5), align := 64 }), (opv l 1, barAsk)] (
      let nd := min (capRest dc / 64) (capRest sc / 64 * src.count / dst.count)
      if nd = 0 then .ok s
      else s.startBulk exp (opv l 1).v (s.newBulk (.copyc src dst (s.mode rm) sat) dc sc 0 (opv l 1).v 64 (64 * nd) nd))))

/-- GATHER and SCATTER (R269). -/
def State.gatherScatter (s : State) (kind : BulkKind) (exp : Bool) (t : Ty) (l : List RegCell) : Res :=
  let sz := memSize t
  let idx := (opv l 0).v
  let dst := (opv l 2).v
  let src := (opv l 3).v
  s.checkCaps [(opv l 2, { st := true, spaces := (· ≤ 4), align := sz }),
    (opv l 3, { ld := true, spaces := (· ≤ 4), align := sz }),
    (opv l 0, { ld := true, spaces := (· ≤ 4), align := 4 }), (opv l 1, barAsk)] (
    let m := min (capRest idx / 4) (capRest (if kind = .gather then dst else src) / sz)
    if m = 0 then .ok s else s.startBulk exp (opv l 1).v (s.newBulk kind dst src idx (opv l 1).v sz (m * sz) m))

/-- GATHER. -/
def execGather (h : Head) (t : Ty) (exp : Bool) (d : Fin 24) (a b : PSrc) (s : State) : Out :=
  .next (s.issue h { ill := illGroup (pairRegs d) } (pop1 a :: pop1 b :: members (pairRegs d) false) [] (fun l s =>
    s.gatherScatter .gather exp t l))
/-- SCATTER. -/
def execScatter (h : Head) (t : Ty) (exp : Bool) (d : Fin 24) (a b : PSrc) (s : State) : Out :=
  .next (s.issue h { ill := illGroup (pairRegs d) } (pop1 a :: pop1 b :: members (pairRegs d) false) [] (fun l s =>
    s.gatherScatter .scatter exp t l))

/-! ### Barrier instructions (R270 to R272) -/

/-- The lowest-numbered paused operation that names a barrier: its trap, and its number where it is the group's own (R272,
R274). DEDUCED (log 28). -/
def State.pausedTrap (s : State) (b : GroupId × Nat) : Option (Trap × Option Nat) :=
  match s.pausedOn b with
  | [] => none
  | x :: r =>
    let m := r.foldl (fun (m : GroupId × Nat × Pause) y => if y.2.1 < m.2.1 then y else m) x
    let p := m.2.2
    some (⟨p.cause, 0, p.detail, p.ptr⟩, if m.1 = s.g.gid && m.2.1 < 48 then some m.2.1 else none)

/-- TXBINIT (R270); its COPY trap names the paused operation that it concerns in CPAUSE.SEL (R274). -/
def execTxbinit (h : Head) (a : PSrc) (n : BitVec 20) (s : State) : Out :=
  .next (s.issue h {} [pop1 a] [] (fun l s =>
    s.txb (opv l 0) true (fun b s =>
      if (s.bar b).sect != 0 || !(s.pausedOn b).isEmpty then
        .trap ⟨.copy, 0, 0x01, s.barPtr (opv l 0).v⟩ 0 ((s.pausedTrap b).bind (·.2))
      else .ok (s.modGroup b.1 (fun g =>
        let g := (g.putBar b.2 ⟨0, n.toNat, 0, n.setWidth 64⟩).setFull (g.barTop b.2) false
        { g with barPend := g.barPend.filter (fun x => x.1 != b.2), barClocks := g.barClocks.filter (fun x => x.1 != b.2) })))))
/-- TXBARR (R271). -/
def execTxbarr (h : Head) (d : Reg) (a : PSrc) (s : State) : Out :=
  .next (s.issue h {} [pop1 a] [d] (fun l s =>
    s.txb (opv l 0) true (fun b s =>
      let x := s.bar b
      if x.arrive = 0 then .trap ⟨.copy, 0, 0x02, s.barPtr (opv l 0).v⟩
      else .ok ((s.updBar b (fun x => { x with arrive := x.arrive - 1 })).writeReg d (BitVec.ofNat 128 x.phase)))))
/-- TXBEXP (R271). -/
def execTxbexp (h : Head) (a : PSrc) (n : BitVec 32) (s : State) : Out :=
  .next (s.issue h {} [pop1 a] [] (fun l s =>
    s.txb (opv l 0) true (fun b s =>
      let k := (s.bar b).sect + n.toNat
      if 2 ^ 39 - 1 < k then .trap ⟨.copy, 0, 0x05, s.barPtr (opv l 0).v⟩
      else .ok (s.updBar b (fun x => { x with sect := k })))))

/-- The word at which a strand waits has not been marked full since it parked (R272). -/
def State.unmarked (s : State) : Bool :=
  match s.st.prog with
  | .untilFull g word n => (s.group? g).any (fun x => x.marksOf word == n)
  | _ => false

/-- Park at a barrier until its upper word is next marked full (R272). -/
def State.parkAtBar (s : State) (b : GroupId × Nat) (l : List RegCell) : Res :=
  match s.group? b.1 with
  | none => .park .barrier s
  | some g => .park .barrier (s.modSt (fun t =>
      { t with prog := .untilFull b.1 (g.barTop b.2) (g.marksOf (g.barTop b.2)), kept := l }))

/-- TXBWAIT and TXBTEST (R272): what is written once the phase has changed, and what happens before. -/
def State.barWait (s : State) (l : List RegCell) (wait : Bool) (done : Lane → State → State) (not : State → State) :
    Res :=
  let l := if s.st.prog.came && !s.st.kept.isEmpty then s.st.kept else l
  let p := (opv l 1).v
  if s.unmarked then .park .barrier s
  else s.txb (opv l 0) false (fun b s =>
    if (s.bar b).phase != (p.extractLsb' 0 4).toNat then
      s.fenceThen .device .acq 0 (fun s =>
        let s := if s.det then
          s.modSt (fun t => { t with clock := joinClock t.clock (((s.group? b.1).map (fun g => lookD g.barClocks b.2 [])).getD []) })
          else s
        .ok (done (s.bar b).hi s))
    else
      match s.pausedTrap b with
      | some t => .trap t.1 0 t.2
      | none => if wait || s.det then s.parkAtBar b l else .ok (not s))

/-- TXBWAIT. -/
def execTxbwait (h : Head) (d : Reg) (a b : PSrc) (s : State) : Out :=
  .next (s.issue h {} [pop1 a, pop1 b] [d] (fun l s =>
    s.barWait l true (fun hi s => s.writeReg d (quad2 hi 0)) id))
/-- TXBTEST: in a deterministic launch it parks as TXBWAIT does (R229). -/
def execTxbtest (h : Head) (p : Pred) (a b : PSrc) (s : State) : Out :=
  .next (s.issue h {} [pop1 a, pop1 b] [] (fun l s =>
    s.barWait l false (fun _ s => s.writePred p true) (fun s => s.writePred p false)))

/-! ### Steps of the copy unit -/

/-- Does a group's copy unit enter accesses now (R275, R276, R415)? DEDUCED (log 51). -/
def Group.copying (g : Group) : Bool := g.state == .resident && !g.frozen

/-- Enter the next unit of a stream. -/
def State.enterStream (s : State) (d : StreamD) : State :=
  let w : StrandId := ⟨s.g.gid, d.slot⟩
  if d.pause.isSome || d.exhausted then s
  else if d.output then
    match d.buffer with
    | [] => s
    | v :: rest =>
      let x := s.streamWords d d.next
      match x.1 with
      | .error (some p) => x.2.pauseOp s.g.gid d.uid p
      | .error none => x.2
      | .ok ws =>
        if x.2.wordsHeld ws then x.2
        else
        let bytes := quadBytes d.width v
        let s := x.2.engEnter w d.clock false ws (fun k => .opWrite d.uid d.next ((bytes.drop k.pos).take k.len))
        s.modG (fun g => g.modStream d.uid (fun d =>
          { d with buffer := rest, next := d.next + 1, pieces := d.pieces ++ [{ num := d.next, at_ := .writing, need := ws.length }] }))
  else if d.units ≤ d.next || StreamD.depth ≤ d.next - d.moved then s
  else
    let x := s.streamWords d d.next
    match x.1 with
    | .error (some p) => x.2.pauseOp s.g.gid d.uid p
    | .error none => x.2
    | .ok ws =>
      let s := x.2.engEnter w d.clock true ws (fun k => .opRead d.uid d.next k.pos k.len)
      let s := (d.elems d.next).foldl (fun (s : State) e =>
        s.traceStream s.g.gid (.entered s.now d.num e ((s.g.place.map (·.tile)).getD 0))) s
      s.modG (fun g => g.modStream d.uid (fun d =>
        { d with next := d.next + 1, pieces := d.pieces ++ [{ num := d.next, at_ := .reading, need := ws.length }] }))

/-- Change a piece of a bulk operation of the group in front. -/
def State.modPieceOf (s : State) (uid num : Nat) (f : Piece → Piece) : State :=
  s.modG (fun g => g.modOp uid (fun o => { o with pieces := modPiece num f o.pieces }))

/-- Enter a piece's writes: its data have come. -/
def State.enterWrites (s : State) (o : BulkOp) (p : Piece) : State :=
  let d := o.data p
  let s := s.modG (fun g => g.modOp o.uid (fun o => { o with stat := o.stat.plus d.2 }))
  let s := s.modPieceOf o.uid p.num (fun p => { p with at_ := .writing, need := p.out.length })
  s.engEnter ⟨s.g.gid, o.slot⟩ o.clock false p.out (fun k => .opWrite o.uid p.num ((d.1.drop k.pos).take k.len))

/-- Translate a piece's source and destination, then enter its reads (R273). -/
def State.enterReads (s : State) (o : BulkOp) (p : Piece) : State :=
  let rr := o.readRange p
  let wr := o.writeRange p
  let x := if o.outOfRange p then ((.ok [], s) : Except (Option Pause) (List EngWord) × State)
    else s.engWords o.src rr.1 rr.2 true false
  match x.1 with
  | .error (some q) => x.2.pauseOp s.g.gid o.uid q
  | .error none => x.2
  | .ok rs =>
    let y := x.2.engWords o.dst wr.1 wr.2 false true
    match y.1 with
    | .error (some q) => y.2.pauseOp s.g.gid o.uid q
    | .error none => y.2
    | .ok ws =>
      if y.2.wordsHeld ws then y.2
      else
      let s := y.2.modG (fun g => g.modOp o.uid (fun o =>
        let p : Piece := { p with at_ := .reading, need := rs.length, out := ws }
        let o := { o with stat := if o.outOfRange p then o.stat.plus { oor := true } else o.stat }
        if o.next = p.num then { o with next := o.next + 1, pieces := o.pieces ++ [p] }
        else { o with pieces := modPiece p.num (fun _ => p) o.pieces }))
      s.engEnter ⟨s.g.gid, o.slot⟩ o.clock true rs (fun k => .opRead o.uid p.num k.pos k.len)

/-- A gather's or scatter's index has come: skip it, count it out of range, or go on with its data. -/
def State.enterIndexed (s : State) (o : BulkOp) (p : Piece) : State :=
  let p := { p with idx := some (natOfBytes (p.bytes 4)), got := [] }
  let owe (s : State) (t : BarStat) : State := s.modG (fun g => g.modOp o.uid (fun o => { o with stat := o.stat.plus t }))
  if BulkOp.skips p then (owe s { skip := 1 }).pieceDone s.g.gid o.uid p.num
  else if o.kind = .scatter && o.outOfRange p then (owe s { oor := true }).pieceDone s.g.gid o.uid p.num
  else s.enterReads o p

/-- Begin the next piece of an operation. -/
def State.beginPiece (s : State) (o : BulkOp) : State :=
  match o.kind with
  | .gather | .scatter =>
    let x := s.engWords o.idx (4 * o.next) 4 true false
    match x.1 with
    | .error (some q) => x.2.pauseOp s.g.gid o.uid q
    | .error none => x.2
    | .ok ws =>
      let s := x.2.modG (fun g => g.modOp o.uid (fun o =>
        { o with next := o.next + 1, pieces := o.pieces ++ [{ num := o.next, at_ := .index, need := ws.length }] }))
      s.engEnter ⟨s.g.gid, o.slot⟩ o.clock true ws (fun k => .opRead o.uid o.next k.pos k.len)
  | _ => s.enterReads o { num := o.next, at_ := .reading }

/-- Pieces of one operation that the model keeps in flight. -/
def pieceRoom : Nat := 8

/-- The next move of a bulk operation: writes whose data have come (in order for SCATTER), the oldest index that has come,
or the next piece once no index is awaited, so that units are translated in order. A paused operation completes the units
that had entered, and enters no other (R273). -/
def State.enterBulk (s : State) (o : BulkOp) : State :=
    let ready (p : Piece) : Bool := p.at_ == .reading && p.need == 0
    let w := match o.kind with
      | .scatter => (o.pieces.dropWhile (fun (p : Piece) => p.at_ == PieceAt.writing)).head?.bind
          (fun (p : Piece) => if ready p then some p else none)
      | _ => o.pieces.find? ready
    match w with
    | some p => if s.wordsHeld p.out then s else s.enterWrites o p
    | none =>
      if o.pause.isSome then s
      else match o.pieces.find? (fun (p : Piece) => p.at_ == PieceAt.index) with
      | some p => if p.need = 0 then (match o.kind with | .gather | .scatter => s.enterIndexed o p | _ => s.enterReads o p) else s
      | none => if o.next < o.total && o.pieces.length < pieceRoom then s.beginPiece o else s

/-- COPY_UNIT_ENTER (R273): operation n of a group: a stream below 32, else a bulk slot. -/
def execCopyUnitEnter (g : GroupId) (op : Fin 48) (s : State) : Out :=
  .next (s.atGroup g (fun s =>
    if s.g.gid != g || !s.g.copying then s
    else if op.val < 32 then
      match s.g.streams.find? (fun d => d.num == op.val && !d.exhausted) with
      | some d => s.enterStream d
      | none => s
    else
      match s.g.ops.find? (fun o => o.num + 32 == op.val && (!o.abandoned || !o.pieces.isEmpty)) with
      | some o => s.enterBulk o
      | none => s))

/-- Streams whose oldest unit has been read: their groups and descriptors. -/
def State.deliverable (s : State) : List (GroupId × StreamD) :=
  s.groups.flatMap (fun g => (g.streams.filter (fun d => !d.output && !d.exhausted
    && ((d.pieces.head?.map (fun p => p.need == 0)).getD false))).map (fun d => (g.gid, d)))

/-- STREAM_DELIVERY (R262, R263): a unit joins its buffer, in pattern order. -/
def execStreamDelivery (k : Nat) (s : State) : Out :=
  .next <|
    match s.deliverable[k]? with
    | none => s
    | some (g, d) =>
      let join (d : StreamD) : StreamD :=
        match d.pieces with
        | [] => d
        | p :: r => { d with pieces := r, buffer := d.buffer ++ [quadOfBytes (p.bytes d.width)] }
      let tile := ((s.group? g).bind (fun x => x.place.map (·.tile))).getD 0
      let units := (d.pieces.head?.map (·.num)).toList
      (units.flatMap d.elems).foldl (fun (s : State) e => s.traceStream g (.landed s.now d.num e tile))
        (s.modGroup g (fun g => g.modStream d.uid join))

/-- Take 1 from SECT of a barrier for an engine's unit, with what is owed to STATUS. -/
def State.landOn (s : State) (b : GroupId × Nat) (comp : Nat) (t : BarStat) : State :=
  s.modGroup b.1 (fun g =>
    let g := { g with barPend := insertKey g.barPend b.2 (joinClock (lookD g.barPend b.2 []) [(comp, 1)]) }
    g.updBar b.2 (fun x => { x with sect := x.sect - 1, hi := t.onto x.hi }))

/-- An operation all of whose units have landed is freed. -/
def State.freeLanded (s : State) (l : Landed) : State :=
  if s.landed.any (fun x => x.g == l.g && x.uid == l.uid) then s else s.modGroup l.g (fun g => g.freeOp l.uid)

/-- COPY_UNIT_LANDING of a copy unit's unit: its decrement is performed at the barrier's home (R256). -/
def State.land (s : State) (k : Nat) (l : Landed) : State :=
  match s.group? l.bar.1 with
  | none => { s with landed := s.landed.eraseIdx k }
  | some g =>
    match g.state with
    | .retired => ({ s with landed := s.landed.eraseIdx k }).freeLanded l
    | .resident =>
      if l.stuck || ((s.group? l.g).map (·.frozen)).getD false then s
      else
        let w : StrandId := ⟨l.g, l.slot⟩
        let r := if s.detOf w then
            s.check w (.sp l.bar.1 l.bar.2) 16 l.clock true (some .xchg) 2 (some (l.owner, engineComp l.uid, 1))
          else (none, s)
        match r.1 with
        | some d =>
          { s with landed := s.landed.set k { l with stuck := true } }.pauseOp l.g l.uid
            ⟨.conflict, d.1, wordPointer (s.wordPtr w (.sp l.bar.1 l.bar.2)) d.2⟩
        | none => (({ r.2 with landed := r.2.landed.eraseIdx k }).landOn l.bar (engineComp l.uid) l.stat).freeLanded l
    | _ => s

/-- Where a block is accepted: at the port of its destination die, in the quadrant of its tile, or at that tile on its own die
(R299, R466). -/
def State.blockLoc (s : State) (b : Block) : Option Loc :=
  match (s.group? b.dst).bind Group.loc with
  | some (.tile v t) => some (.tile v (if b.src = v then t else attachment (s.offOn v) t))
  | _ => none

/-- A block's acceptance is counted (R285, R286): its way to the port, the wait for its window, and 2 cycles at the end; and it is
acknowledged (R295), by the relay die that brought it (R301). DEDUCED (log 25). -/
def State.ackBlock (s : State) (b : Block) (t : Nat) : State :=
  let s := s.tellDie b.src (max (b.cost + 2) ((t - b.sentAt) / s.cycAt b.who.g + 2))
  match b.relay with
  | some r => { s with relayAcks := s.relayAcks ++ [⟨r, b.msgKey, t⟩] }
  | none => s.postAck b.msgKey (s.blockLoc b)

/-- A refused block whose group is back is accepted before it lands (R411). DEDUCED (log 25). -/
def State.admitBlock (s : State) (b : Block) : State :=
  if b.refused then
    { s with blocks := updateFirst (fun x => x.uid == b.uid) (fun x => { x with refused := false }) s.blocks }.ackBlock b s.now
  else s

/-- OSEND data that the absent mailbox of a group holds (R411). DEDUCED (log 25). -/
def State.absentData (s : State) (g : GroupId) : Nat :=
  ((s.blocks.filter (fun b => b.dst == g && !b.refused && !b.coming)).map (fun b => b.bytes.length - 64 * b.landed)).sum

/-- A block is accepted at its arrival (R310, R411): for a group that waits in a queue or is saved, while its absent mailbox
holds at most 4 MiB with it, and no earlier block of the sender stands refused; for a frozen group never (R415).
DEDUCED (log 25). -/
def State.takesBlock (s : State) (b : Block) : Bool :=
  match s.group? b.dst with
  | none => true
  | some g => !g.frozen && (!(g.state == .queued || g.state == .saved)
      || (!s.blocks.any (fun x => x.refused && x.dst == b.dst && x.who.g == b.who.g && x.owner == b.owner)
        && s.absentData b.dst + b.bytes.length ≤ 4 * 2 ^ 20))

/-- A block reaches its destination: accepted, or refused with HOLD to its source (R411). DEDUCED (log 25). -/
def State.blockArrives (s : State) (b : Block) (t : Nat) : State :=
  let ok := s.takesBlock b
  let s := { s with blocks := s.blocks ++ [{ b with arrived := t, refused := !ok, coming := false }] }
  if ok then s.ackBlock b t else s.postHold b.msgKey (s.blockLoc b)

/-- The next unit of a block comes to the tile of its group: from the port's attachment in the bulk class (R279, R310, R466). Where it has
not, it has gone on as far as it could. -/
def State.unitComes (s : State) (b : Block) : Bool × State :=
  let there := (s.group? b.dst).bind Group.loc
  let t := if b.trail == {} then s.trailOf (s.blockLoc b) there (s.cycAt b.dst) none else s.follow b.trail there
  let u := s.goOn .bulk unitFlits t
  let s := s.carried t u
  (u.legs.isEmpty, { s with blocks := updateFirst (fun x => x.uid == b.uid) (fun x => { x with trail := if u.legs.isEmpty then {} else u }) s.blocks })

/-- A block on its way over its own die comes to its tile, where it is accepted or refused; what has not come has gone on as far as it
could (R310). -/
def State.blockComes (s : State) (b : Block) : State :=
  let t := s.follow b.trail ((s.group? b.dst).bind Group.loc)
  let u := s.goOn .bulk unitFlits t
  let s := s.carried t u
  if u.legs.isEmpty then
    { s with blocks := s.blocks.filter (fun x => x.uid != b.uid), now := max s.now u.due }.blockArrives { b with cost := u.cost, trail := {} } (max s.now u.due)
  else { s with blocks := updateFirst (fun x => x.uid == b.uid) (fun x => { x with trail := u }) s.blocks }

/-- One 64-byte unit of an OSEND's block lands: it is written at the group's banks and takes 1 from SECT (R310). ORDERED
blocks of one strand land one after another, and none lands before one that an OFENCE precedes it with (R246). -/
def State.landBlock (s : State) (k : Nat) (b : Block) : State :=
  match s.group? b.dst with
  | none => s
  | some g =>
    if b.pause.isSome || b.coming || s.blocks.any (fun x => x.who.g == b.who.g && x.owner == b.owner && x.fences < b.fences)
        || (b.ordered && (s.blocks.take k).any (fun x => x.ordered && x.who.g == b.who.g && x.owner == b.owner && x.die == b.die)) then s
    else if g.state == .retired then { s with blocks := s.blocks.eraseIdx k }
    else if g.state != .resident || g.frozen then s
    else
      let x := (s.admitBlock b).unitComes b
      if !x.1 then x.2
      else
      let s := x.2
      let off := (b.off + 64 * b.landed) % g.size
      let bs := (b.bytes.drop (64 * b.landed)).take 64
      let last := b.bytes.length ≤ 64 * (b.landed + 1)
      let eng := some (b.owner, engineComp b.uid, 1)
      let r := if s.detOf b.who then s.check b.who (.sp b.dst off) bs.length b.clock true none 1 eng else (none, s)
      let r := match r.1 with
        | some d => (some (d.1, off + d.2), s)
        | none =>
          if s.detOf b.who then
            match r.2.check b.who (.sp b.dst b.bar) 16 b.clock true (some .xchg) 2 eng with
            | (some d, _) => (some (d.1, b.bar + d.2), s)
            | (none, s) => (none, s)
          else (none, r.2)
      match r.1 with
      | some (d, o) =>
        let p : Pause := ⟨.conflict, d, wordPointer (s.wordPtr b.who (.sp b.dst o)) 0⟩
        let s := { s with blocks := updateFirst (fun x => x.uid == b.uid) (fun x => { x with pause := some p }) s.blocks }
        s.modGroup b.dst (fun g =>
          let x := g.bar b.bar
          (g.putBar b.bar { x with hi := x.hi ||| pauseBit }).setFull (g.barTop b.bar) true)
      | none =>
        let s := { r.2 with now := max r.2.now b.arrived }
        let s := s.agentPutSp (.port b.die) b.dst off bs (some b.who)
        let s := { s with blocks := if last then s.blocks.eraseIdx k
                          else updateFirst (fun x => x.uid == b.uid) (fun x => { x with landed := x.landed + 1 }) s.blocks }
        s.landOn (b.dst, b.bar) (engineComp b.uid) {}

/-- COPY_UNIT_LANDING (R256): the k-th unit that has landed; behind the copy units' come the blocks of OSEND. -/
def execCopyUnitLanding (k : Nat) (s : State) : Out :=
  .next <|
    match s.landed[k]? with
    | some l => s.land k l
    | none =>
      match s.blocks[k - s.landed.length]? with
      | some b =>
        let i := k - s.landed.length
        if !b.coming then s.landBlock i b
        else if (s.blocks.take i).any (fun x => x.coming && x.who.g == b.who.g && x.owner == b.owner) then s
        else s.blockComes b
      | none => s

/-! ### CPAUSE (R274) -/

/-- PENDING. -/
def Group.cpausePending (g : Group) : Lane :=
  (g.pausedOps (fun _ => true)).foldl (fun (v : Lane) n => v ||| bitAt n) 0

/-- The operation of an engine's message. -/
def Act.uid? : Act → Option Nat
  | .opRead u _ _ _ | .opWrite u _ _ => some u
  | _ => none

/-- And its piece. -/
def Act.piece? : Act → Option Nat
  | .opRead _ p _ _ | .opWrite _ p _ => some p
  | _ => none

/-- Resume operation n of the group in front at its faulting unit: what a conflict had turned away enters again. -/
def State.resumeOp (s : State) (n : Nat) : State :=
  let again (s : State) (uid : Nat) : State :=
    let l := s.held.filter (fun x => x.2.act.uid? == some uid)
    let s := { s with held := s.held.filter (fun x => x.2.act.uid? != some uid) }
    l.foldl (fun (s : State) x => s.enter x.1 x.2) s
  if n < 32 then
    match s.g.streams.find? (fun d => d.num == n && d.pause.isSome) with
    | none => s
    | some d => again (s.modG (fun g => g.modStream d.uid (fun d => { d with pause := none }))) d.uid
  else
    match s.g.ops.find? (fun o => o.num + 32 == n && o.pause.isSome) with
    | none => s
    | some o =>
      let s := (s.modG (fun g => g.modOp o.uid (fun o => { o with pause := none }))).unpauseBar o.bar
      again { s with landed := updateWhere (fun l => l.g == s.g.gid && l.uid == o.uid) (fun l => { l with stuck := false }) s.landed } o.uid

/-- Units of an operation that have not entered (R274), with pieces in flight that go with them. -/
def State.unentered (s : State) (o : BulkOp) (dropped kept : List Piece) : Nat :=
  let keep := kept.map (fun p => o.unitOf p.num)
  let lastU := o.unitOf (o.total - 1)
  let lap := s.lap o
  let lo := if lap = 0 then 0 else lastU + 1 - lap
  let fresh := if o.total ≤ o.next then []
    else [max lo (o.unitOf o.next)]
  let n := if o.total ≤ o.next then 0 else lastU + 1 - max lo (o.unitOf o.next)
  let extra := ((dropped.map (fun p => o.unitOf p.num)).eraseDups.filter (fun u => !keep.contains u && lo ≤ u
    && (o.total ≤ o.next || u < o.unitOf o.next))).length
  n + extra - (fresh.filter (fun u => keep.contains u)).length

/-- Abandon operation n of the group in front (R274). -/
def State.abandonOp (s : State) (n : Nat) : State :=
  let mine (uid : Nat) (m : Msg) : Bool := m.act.uid? == some uid
  if n < 32 then
    match s.g.streams.find? (fun d => d.num == n && d.pause.isSome) with
    | none => s
    | some d =>
      let s := { s with held := s.held.filter (fun x => !mine d.uid x.2)
                        chans := (s.chans.map (fun (c : ChanId × List Msg) => (c.1, c.2.filter (fun m => !mine d.uid m)))).filter (fun c => !c.2.isEmpty) }
      s.modG (fun g => g.modStream d.uid (fun d => { d with pause := none, exhausted := true, buffer := [], pieces := [] }))
  else
    match s.g.ops.find? (fun o => o.num + 32 == n && o.pause.isSome) with
    | none => s
    | some o =>
      let turned := (s.held.filter (fun x => mine o.uid x.2)).map (fun x => match x.2.act with
        | .opRead _ p _ _ | .opWrite _ p _ => p
        | _ => 0)
      let out (p : Piece) : Bool := p.at_ == .index || turned.contains p.num
      let dropped := o.pieces.filter out
      let kept := o.pieces.filter (fun p => !out p)
      let stuck (l : Landed) : Bool := l.stuck && l.g == s.g.gid && l.uid == o.uid
      let k := s.unentered o dropped kept + (s.landed.filter stuck).length
      let s := { s with landed := s.landed.filter (fun l => !stuck l), held := s.held.filter (fun x => !mine o.uid x.2) }
      let s := s.modG (fun g =>
        (g.modOp o.uid (fun o => { o with pause := none, abandoned := true, total := o.next, pieces := kept, stat := {} })).freeOp o.uid)
      ((s.updBar o.bar (fun x => { x with sect := x.sect - k, hi := o.stat.onto x.hi }))).unpauseBar o.bar

end Sys2Proof.Machine
end

