-- ==== Sys2Proof/Machine/Matrix.lean ====
section
/-! DEFINITION. Class 0x6, the accumulators and the block-dot unit (07 R173 to R195). -/

namespace Sys2Proof.Machine

/-! ### Accumulators (R173 to R175) -/

/-- The accumulator that an instruction of the unit writes. -/
def MxOp.acc : MxOp → Fin 4
  | .mdot a _ => a
  | .madd a _ _ _ => a
  | .mscl a _ _ => a

/-- An accumulator carries a busy mark (R174). -/
def Group.accBusy (g : Group) (a : Fin 4) : Bool := g.mx.any (fun f => f.op.acc == a)

/-- Element e = 8i + j of an accumulator. -/
def Group.accAt (g : Group) (a : Fin 4) (e : Nat) : BitVec 32 := (g.acc[a]).getD e 0
/-- Write an accumulator from its elements in order. -/
def Group.setAcc (g : Group) (a : Fin 4) (f : Nat → BitVec 32) : Group :=
  { g with acc := g.acc.set a.val (Vector.ofFn (fun (e : Fin 64) => f e.val)) a.isLt }

/-- The barriers of the instant that a strand of the group has completed, wherever it stands (R175, R353). -/
def Group.barsOf (g : Group) (slot : Fin 8) (serial : Nat) : List Nat :=
  if (g.st[slot]).serial = serial then (g.st[slot]).bars
  else
    match (g.st.toList ++ g.store.map (·.st)).find? (fun t => t.serial == serial) with
    | some t => t.bars
    | none => lookD g.goneBars serial []

/-- The CONFLICT of an accumulator in a deterministic launch (R175): another strand wrote it in this instant, and no
barrier that both completed lies between. -/
def State.accConflict (s : State) (a : Fin 4) : Option Trap :=
  if s.det && (s.g.accW[a]).any (fun w => w.serial != s.st.serial && w.instant == s.g.instant
      && !(s.g.barsOf w.slot w.serial).any (fun b => w.after ≤ b && s.st.bars.contains b))
  then some ⟨.conflict, 0, 0x40 + a.val, BitVec.ofNat 64 a.val⟩
  else none

/-- Record a write of an accumulator (R175). -/
def State.noteAcc (s : State) (a : Fin 4) : State :=
  let w : AccWrite := ⟨s.slot, s.st.serial, s.g.instant, s.nextId⟩
  s.modG (fun g => { g with accW := g.accW.set a.val (((g.accW[a]).filter (fun x => x.instant == g.instant)) ++ [w]) a.isLt })

/-- Check accumulators, record the one written, and go on. -/
def State.onAcc (s : State) (reads : List (Fin 4)) (writes : Option (Fin 4)) (k : State → Res) : Res :=
  match (reads ++ writes.toList).findSome? s.accConflict with
  | some t => .trap t
  | none => k (match writes with | some a => s.noteAcc a | none => s)

/-- Element m of row k, or of column k (R192). -/
def lineElem (col : Bool) (k : Nat) (m : Nat) : Nat := if col then 8 * m + k else 8 * k + m

/-- MZERO (R191). -/
def execMzero (h : Head) (ad : Fin 4) (s : State) : Out :=
  .next (s.issue h { busy := fun s => s.g.accBusy ad } [] [] (fun _ s =>
    s.onAcc [] (some ad) (fun s => .ok (s.modG (fun g => g.setAcc ad (fun _ => 0))))))

/-- MRD (R192): long, 8 c. -/
def execMrd (h : Head) (col : Bool) (d : Fin 24) (as : Fin 4) (k : BitVec 3) (s : State) : Out :=
  .next (s.issue h { ill := illGroup (pairRegs d), busy := fun s => s.g.accBusy as } [] (pairRegs d) (fun _ s =>
    s.onAcc [as] none (fun s =>
      let part (j : Nat) : Quad := packLanes 32 ((List.range 4).map (fun m => s.g.accAt as (lineElem col k.toNat (4 * j + m))))
      let due := s.now + 8 * s.cyc
      let l : Late := { slot := s.slot, owner := s.st.serial, lo := due, due := due, dst := .pair d, v := part 0, v2 := part 1, flags := 0
                        trap := none, fp := false }
      let s := s.modG (fun g => { g with late := g.late ++ [l] })
      .ok ((pairRegs d).foldl (fun (s : State) r => s.markOut r) s))))

/-- MWR (R192). -/
def execMwr (h : Head) (col : Bool) (ad : Fin 4) (a : Fin 24) (trapEmpty : Bool) (k : BitVec 3) (s : State) : Out :=
  .next (s.issue h { ill := illGroup (pairRegs a), busy := fun s => s.g.accBusy ad } (members (pairRegs a) trapEmpty) []
    (fun l s =>
      s.onAcc [] (some ad) (fun s =>
        let v (m : Nat) : BitVec 32 := laneAt 32 (opv l (m / 4)).v (m % 4)
        .ok (s.modG (fun g => g.setAcc ad (fun e =>
          let line := if col then e % 8 else e / 8
          let m := if col then e / 8 else e % 8
          if line = k.toNat then v m else g.accAt ad e))))))

/-- An instruction enters the unit and its issuer parks to the commit (R174, R184). -/
def State.startMx (s : State) (op : MxOp) (wa wb : List (Option Lane)) (due : Nat) : State :=
  let s := s.modG (fun g => { g with mx := g.mx ++ [{ num := s.nextId, slot := s.slot, op := op, wa := wa, wb := wb, due := due, since := s.now }] })
  { s with nextId := s.nextId + 1 }.modSt (fun t => { t with prog := .waiting s.nextId 0 })

/-- When a MADD or MSCL that issues now commits (R193). -/
def State.mxDue (s : State) : Nat :=
  let t := s.now + 8 * s.cyc
  match s.g.mx.getLast? with
  | some f => max t (f.due + s.cyc)
  | none => t

/-- MADD (R193). -/
def execMadd (h : Head) (rm : RMode) (ad as : Fin 4) (s : State) : Out :=
  .next (s.issue h { ill := illMode rm, busy := fun s => s.g.accBusy as } [] [] (fun _ s =>
    if s.st.consumed then .parkC .commit s
    else s.onAcc [as] (some ad) (fun s => .parkC .commit (s.startMx (.madd ad as s.g.acc[as] (s.mode rm)) [] [] s.mxDue))))
/-- MSCL (R193). -/
def execMscl (h : Head) (rm : RMode) (ad : Fin 4) (a : Src) (s : State) : Out :=
  .next (s.issue h { ill := illMode rm } [sop a] [] (fun l s =>
    if s.st.consumed then .parkC .commit s
    else s.onAcc [] (some ad) (fun s =>
      .parkC .commit (s.startMx (.mscl ad (laneAt 32 (opv l 0).v 0) (s.mode rm)) [] [] s.mxDue))))

/-- MSTAT (R194): in a deterministic launch it parks until nothing is in flight. -/
def execMstat (h : Head) (d : Reg) (s : State) : Out :=
  .next (s.issue h {} [] [d] (fun _ s =>
    if s.det && !s.g.mx.isEmpty then .park .value s
    else
      let busy := (List.range 4).foldl (fun (n : Nat) k => n + if s.g.accBusy (Fin.ofNat 4 k) then 2 ^ k else 0) 0
      let v := s.g.mxDone % 2 ^ 32 * 2 ^ 32 + s.g.fmtB * 2 ^ 16 + s.g.fmtA * 2 ^ 8 + s.g.mx.length % 16 * 16 + busy
      .ok (s.writeReg d (quad2 (BitVec.ofNat 64 v) 0))))

/-! ### MDOT: operands (R176 to R179) -/

/-- The registers and FIFOs that an operand reads (R176, R186). -/
def mxOpnds : MOperand → List Opnd
  | .pair k e => members (pairRegs k) e
  | .port p e f => [{ r := .link p, trapEmpty := e, fwd := f, words := 32 }]

/-- ILLEGAL 0x0B of a pair with a mailbox or stream register (R176). -/
def mxIll : MOperand → State → Option Nat
  | .pair k _ => illGroup (pairRegs k)
  | .port _ _ _ => fun _ => none

/-- The check of a descriptor (R179). -/
def descCheck (c : RegCell) (lay : Lane) : Option Trap :=
  let q := c.v
  let ptr := capPointer q
  if !c.tag then some ⟨.captag, 0, 0x01, lane0 c⟩
  else if 7 ≤ capSpace q then some ⟨.captag, 0, 0x02, ptr⟩
  else if !capLD q then some ⟨.capperm, 0, 0x01, ptr⟩
  else if capSpace q != 0 then some ⟨.capperm, 0, 0x04, ptr⟩
  else if capCursor q % 64 != 0 then some ⟨.align, 0, 0, ptr⟩
  else if lay.toNat / 2 ^ 34 != 0 || lay.toNat % 2 ^ 6 != 0 || lay.toNat / 2 ^ 16 % 2 ^ 6 != 0 then
    some ⟨.mformat, 0, 0x05, lay⟩
  else none

/-- TPITCH. -/
def layTpitch (lay : Lane) : Int := (lay.extractLsb' 16 16).toInt

/-- The offset of block i of a descriptor operand (R178). -/
def blockOffset (size cursor : Nat) (lay : Lane) (i : Nat) : Nat :=
  let o := (cursor + i * (lay.extractLsb' 0 16).toNat) % size
  let q := (o / 64 % 4 + (lay.extractLsb' 32 2).toNat * i) % 4
  o / 256 * 256 + q * 64 + o % 64

/-- An operand at issue: its block offsets, or the words that a port gave. -/
inductive MxSource where
  | blocks (offs : List Nat) (k : Fin 24) (tpitch : Int)
  | words (l : List Lane)

/-- An operand from what was read, or its trap. -/
def mxSource (m : MOperand) (size : Nat) (l : List RegCell) : Except Trap MxSource :=
  match m with
  | .pair k _ =>
    let lay := lane0 (opv l 1)
    match descCheck (opv l 0) lay with
    | some t => .error t
    | none => .ok (.blocks ((List.range 8).map (blockOffset size (capCursor (opv l 0).v) lay)) k (layTpitch lay))
  | .port _ _ _ => .ok (.words (l.flatMap (fun c => [lane0 c, lane1 c])))

/-- How many of the values read belong to an operand. -/
def mxCount : MOperand → Nat
  | .pair _ _ => 2
  | .port _ _ _ => 32

/-- The fetch count F (R187). -/
def fetchCount (offs : List Nat) : Nat :=
  (List.range 4).foldl (fun (n : Nat) q => max n (offs.filter (fun o => o / 64 % 4 == q)).length) 4

/-- The words of an operand as the unit holds them at the start. -/
def MxSource.words' : MxSource → List (Option Lane)
  | .blocks _ _ _ => List.replicate 64 none
  | .words l => l.map some
/-- Its blocks in scratchpad. -/
def MxSource.offs : MxSource → List Nat
  | .blocks o _ _ => o
  | .words _ => []
/-- The pair whose cursor moves at the commit (R185). -/
def MxSource.inc (x : MxSource) (inc : Bool) : List (Fin 24 × Int) :=
  match x with
  | .blocks _ k t => if inc then [(k, t)] else []
  | .words _ => []

/-- The unit's reads enter the channels as loads of the strand (R188). -/
def State.mxReads (s : State) (num : Nat) (isB : Bool) (offs : List Nat) : State :=
  let words := offs.flatMap (fun o => (List.range 8).map (fun w => o + 8 * w))
  (words.zip (List.range 64)).foldl (fun (s : State) x =>
    let r : Resolved := { space := 0, v := x.1, target := .sp s.g.gid x.1, pa := x.1, pol := 0, chk := false }
    (s.send r 0 false s.det (.mxLoad num isB x.2)).2) s

/-- Can the unit accept a start (R187, R447)? -/
def State.mxFree (s : State) : Bool :=
  s.g.mxLast + s.g.mxGap * s.cyc ≤ s.now && (s.region (s.regionOf s.g.die)).governor ≤ s.now

/-- The first uncorrectable word of some blocks (15 R402). -/
def Group.badBlock (g : Group) (offs : List Nat) : Option Nat :=
  offs.findSome? (fun o => g.badWords.find? (fun w => o / 8 ≤ w && w < o / 8 + 8))

/-- MDOT (R184 to R188). -/
def execMdot (h : Head) (inca incb : Bool) (ad : Fin 4) (a b : MOperand) (s : State) : Out :=
  .next (s.issue h { ill := orIll (mxIll a) (mxIll b), busy := fun s => !s.mxFree } (mxOpnds a ++ mxOpnds b) [] (fun l s =>
    if s.st.consumed then .parkC .commit s
    else
      match mxSource a s.g.size (l.take (mxCount a)), mxSource b s.g.size (l.drop (mxCount a)) with
      | .error t, _ => .trap t
      | _, .error t => .trap t
      | .ok x, .ok y =>
        match s.g.badBlock (x.offs ++ y.offs) with
        | some w => .trap ⟨.machine, 0, 0x02, pointer 0 (8 * w)⟩
        | none =>
        s.onAcc [] (some ad) (fun s =>
          let f := fetchCount (x.offs ++ y.offs)
          let inc := (x.inc inca ++ y.inc incb).eraseDups
          let num := s.nextId
          let s := s.startMx (.mdot ad inc) x.words' y.words' (s.now + (28 + f) * s.cyc)
          let s := s.modG (fun g => { g with mxLast := s.now, mxGap := max 4 f })
          .parkC .commit ((s.mxReads num false x.offs).mxReads num true y.offs))))

/-! ### MDOT: the block product (R180 to R183) -/

/-- A block of an operand: its format, scale, element codes and their values. -/
structure MxBlock where
  f : BFmt
  scale : Q
  codes : List Nat
  elems : List FVal

/-- The k-th block of an operand's words. -/
def blockBits (ws : List Lane) (k : Nat) : Nat :=
  natOfBytes (((ws.drop (8 * k)).take 8).flatMap (fun w => bytesOfNat 8 w.toNat))

/-- A block read by its header (R100): an MFORMAT detail, an empty block, or its elements. -/
def readBlock (b : Nat) : Except Nat (Option MxBlock) :=
  match header (b % 2 ^ 32) with
  | .bad e => .error e
  | .empty => .ok none
  | .ok f scale => .ok (some ⟨f, scale, (List.range f.count).map (f.element b), (List.range f.count).map (f.value b)⟩)

/-- The sixteen blocks, or the MFORMAT trap of the first bad header (R182). -/
def readBlocks (wa wb : List Lane) : Except Trap (List (Option MxBlock)) :=
  (List.range 16).foldl (fun (a : Except Trap (List (Option MxBlock))) k =>
    match a with
    | .error t => .error t
    | .ok l =>
      match readBlock (if k < 8 then blockBits wa k else blockBits wb (k - 8)) with
      | .error e => .error ⟨.mformat, 0, e, BitVec.ofNat 64 k⟩
      | .ok x => .ok (l ++ [x])) (.ok [])

/-- The trap of blocks whose counts disagree (R181). -/
def countTrap (l : List (Option MxBlock)) : Option Trap :=
  match l.findSome? id with
  | none => none
  | some x =>
    (l.zip (List.range 16)).findSome? (fun y => match y.1 with
      | none => none
      | some z => if z.f.count = x.f.count then none else some ⟨.mformat, 0, 0x06, BitVec.ofNat 64 y.2⟩)

/-- A finite element as a multiple of 2^-149. -/
def fixed149 (v : FVal) : Int :=
  let q := v.q
  q.num * 2 ^ 149 / q.den

/-- The product of two LNS6 codes (R95), as a multiple of 2^-298: the e fields add and the signs XOR. -/
def lnsProduct (a b : Nat) : Int :=
  if a % 64 = 0x20 || b % 64 = 0x20 then 0
  else
    let m := lnsMag ((a % 32 : Nat) + (b % 32 : Nat) - 16)
    let v := m.num * 2 ^ 298 / m.den
    if (a / 32 % 2 == 1) != (b / 32 % 2 == 1) then -v else v

/-- The exact sum of the products of two blocks, as a multiple of 2^-298 (R106, R180). -/
def blockSum (a b : Option MxBlock) : Int :=
  match a, b with
  | some x, some y =>
    if x.f == .lns6 && y.f == .lns6 then (x.codes.zip y.codes).foldl (fun (t : Int) p => t + lnsProduct p.1 p.2) 0
    else (x.elems.zip y.elems).foldl (fun (t : Int) p => t + fixed149 p.1 * fixed149 p.2) 0
  | _, _ => 0

/-- An element of FP32 or BF16 that is a signalling NaN. -/
def FVal.sigNan (v : FVal) : Bool := v.isNan && v.isSig

/-- One element of the product (R180, R183): its new code and flags. -/
def dotElement (acc : BitVec 32) (a b : Option MxBlock) : Nat × Flags :=
  let c := f32.decode acc.toNat
  let n := match a, b with
    | some x, _ => x.f.count
    | none, some y => y.f.count
    | none, none => 0
  let zero : FVal := .ofQ (Q.ofInt 0)
  let va := match a with | some x => x.elems | none => List.replicate n zero
  let vb := match b with | some y => y.elems | none => List.replicate n zero
  if c.isNan then (f32.nan c.neg (match c with | .nan _ fr => fr | _ => 0), if c.sigNan then NV else 0)
  else if va.any FVal.isNan || vb.any FVal.isNan then
    (f32.defNan, if va.any FVal.sigNan || vb.any FVal.sigNan then NV else 0)
  else
    let ps := va.zip vb
    if ps.any (fun p => (p.1.isInf && p.2.isZero) || (p.1.isZero && p.2.isInf)) then (f32.defNan, NV)
    else
      let infs := (ps.filter (fun p => p.1.isInf || p.2.isInf)).map (fun p => p.1.neg != p.2.neg)
      let all := if c.isInf then infs ++ [c.neg] else infs
      if all.contains true && all.contains false then (f32.defNan, NV)
      else
        match all with
        | neg :: _ => (f32.sgn neg + f32.inf, 0)
        | [] =>
          let sum := blockSum a b
          if sum = 0 then (acc.toNat, 0)
          else
            let one := Q.ofInt 1
            let sc := ((a.map (·.scale)).getD one).mul ((b.map (·.scale)).getD one)
            f32.putQ .rne (c.q.add ((Q.mk sum (2 ^ 298)).mul sc)) false

/-- The FMT code of the first valid block, or 0 (R194). -/
def firstFmt (l : List (Option MxBlock)) : Nat := ((l.findSome? id).map (fun x => x.f.code)).getD 0

/-- What an instruction of the unit makes of its accumulator: codes and flags, or a trap. -/
def Group.mxResult (g : Group) (f : MxFlight) (wa wb : List Lane) : Except Trap (List (Nat × Flags)) :=
  match f.op with
  | .madd ad _ v mode => .ok ((List.range 64).map (fun e => f32.fadd mode (g.accAt ad e).toNat (v.getD e 0).toNat))
  | .mscl ad k mode => .ok ((List.range 64).map (fun e => f32.fmul mode (g.accAt ad e).toNat k.toNat))
  | .mdot ad _ =>
    match readBlocks wa wb with
    | .error t => .error t
    | .ok l =>
      match countTrap l with
      | some t => .error t
      | none => .ok ((List.range 64).map (fun e =>
          dotElement (g.accAt ad e) ((l[e / 8]?).getD none) ((l[8 + e % 8]?).getD none)))

/-- TPITCH added to the OFFSET of a pair's first register, modulo 2^40 (R185). -/
def Strand.advance (t : Strand) (x : Fin 24 × Int) : Strand :=
  match (pairRegs x.1).head? with
  | some (.c n) => if n.val = 0 then t else t.setCell (.c n) { t.c[n] with v := capWithOffset (t.c[n]).v (capOffset (t.c[n]).v + x.2) }
  | _ => t

/-- The reads of an MDOT that have not been performed are performed (R188). -/
def State.forceReads (s : State) (w : StrandId) (num : Nat) : State :=
  let me := s.agentOf w
  (s.chans.map (·.1)).foldl (fun (s : State) ch =>
    if ch.src == me && (s.chan ch).any (fun m => match m.act with | .mxLoad n _ _ => n == num | _ => false) then
      State.drainTo s.chanFuel ch none s
    else s) s

/-- What an MDOT that traps has popped goes back, with the words that it forwarded (R45, R46): only FPE and CONFLICT leave its
operands consumed. DEDUCED (log 54). -/
def State.unread (s : State) (w : StrandId) : State := s.atStrand w (fun s => State.giveBackAll s.st.took s.st.kept s)

/-- The words of an MDOT as its homes have given them. -/
def mxWords (l : List (Option Lane)) : List Lane := l.map (fun x => x.getD 0)

/-- The trap that an MDOT raises with its operands as it found them: every one but FPE and CONFLICT (R45). -/
def Group.mxPrecise (g : Group) (f : MxFlight) : Option Trap :=
  match f.trap with
  | some t => if t.cause = .conflict then none else some t
  | none => match g.mxResult f (mxWords f.wa) (mxWords f.wb) with
    | .error t => some t
    | .ok _ => none

/-- The instruction of the unit that forwarded a word, while it has not committed. -/
def State.forwarder (s : State) (w : LinkFly) : Option (GroupId × MxFlight) :=
  match w.from_ with
  | none => none
  | some (i, serial, at_) =>
    (s.group? i).bind (fun g => (g.mx.find? (fun f => f.since == at_ && (g.st[f.slot]).serial == serial)).map (fun f => (i, f)))

/-- Before a word that an MDOT forwards arrives, the MDOT's reads are performed and its blocks checked: the words of one that will
trap take no effect (R45, R46, R188, R195). DEDUCED (log 54). -/
def State.vouch (s : State) (w : LinkFly) : State :=
  match s.forwarder w with
  | none => s
  | some (i, f) =>
    let s := s.atGroup i (fun s => s.forceReads ⟨i, f.slot⟩ f.num)
    match s.forwarder w, s.group? i with
    | some (_, f), some g => if (g.mxPrecise f).isSome then { s with linkWords := s.linkWords.filter (fun x => x.from_ != w.from_) } else s
    | _, _ => s

/-- The oldest instruction of the unit commits (R174, R184, R187, R193): its accumulator and cursors, or its trap.
DESIGN CHOICE (log 54). -/
def State.commitMx (s : State) (f : MxFlight) : State :=
  let w : StrandId := ⟨s.g.gid, f.slot⟩
  let s := { s with now := max s.now f.due }
  let s := s.forceReads w f.num
  let f := (s.g.mx.find? (fun x => x.num == f.num)).getD f
  let s := s.modG (fun g => { g with mx := g.mx.filter (fun x => x.num != f.num) })
  let wa := mxWords f.wa
  let wb := mxWords f.wb
  match f.trap with
  | some t => (if (s.g.mxPrecise f).isSome then s.unread w else s).trapStrand w t
  | none =>
    match s.g.mxResult f wa wb with
    | .error t => (s.unread w).trapStrand w t
    | .ok r =>
      let lf := r.map (·.2)
      let s := s.modStrand w (fun t => { t with fcsr := t.fcsr ||| BitVec.ofNat 64 (allFlags lf) })
      match fpeTrap ((s.g.st[f.slot]).fcsr.extractLsb' 8 5).toNat lf with
      | some t => s.trapStrand w t
      | none =>
        let s := s.modG (fun g => g.setAcc f.op.acc (fun e => BitVec.ofNat 32 (r.getD e (0, 0)).1))
        let s := match f.op with
          | .mdot _ inc =>
            let l := match readBlocks wa wb with | .ok l => l | .error _ => []
            let s := s.modG (fun g => { g with mxDone := (g.mxDone + 1) % 2 ^ 32, fmtA := firstFmt (l.take 8), fmtB := firstFmt (l.drop 8) })
            s.modStrand w (fun t => inc.foldl Strand.advance t)
          | _ => s
        s.modStrand w Strand.step12

/-- MDOT_COMMIT (R187). -/
def execMdotCommit (g : GroupId) (s : State) : Out :=
  .next (s.atGroup g (fun s =>
    match (if s.g.gid = g then s.g.mx.head? else none) with
    | some f => match f.op with | .mdot _ _ => s.commitMx f | _ => s
    | none => s))
/-- ACCUMULATOR_COMMIT (R193). -/
def execAccumulatorCommit (g : GroupId) (s : State) : Out :=
  .next (s.atGroup g (fun s =>
    match (if s.g.gid = g then s.g.mx.head? else none) with
    | some f => match f.op with | .mdot _ _ => s | _ => s.commitMx f
    | none => s))

/-- Commit what the unit of the issuing group has finished before a time (R174). -/
def State.commitDue (s : State) : Nat → State
  | 0 => s
  | n + 1 =>
    match s.g.mx with
    | f :: _ => if f.due < s.now then (s.commitMx f).commitDue n else s
    | [] => s

end Sys2Proof.Machine
end

