-- ==== Sys2Proof/Machine/Memory.lean ====
section
/-! DEFINITION. Class 0x7, the memory instructions (08 R216 to R227), class 0x8, the ordering instructions (09 R247 to
R251), and the step in which a home performs a message (R232). -/

namespace Sys2Proof.Machine

/-! ### Shared shapes -/

/-- The address of the first word of a scratchpad access that is uncorrectable (15 R402). -/
def State.badWord (s : State) (r : Resolved) (n : Nat) : Option Nat :=
  match r.target with
  | .sp g off => (s.badIn g off n).map (fun w => r.v / 8 * 8 + 8 * (w - off / 8))
  | .mem _ => none
/-- Some word of a scratchpad access is uncorrectable. -/
def State.badAt (s : State) (r : Resolved) (n : Nat) : Bool := (s.badWord r n).isSome

/-- A write that waits for a recovery point: for room in the undo log, or in the escrow (15 R419, R420). -/
def State.heldBack (s : State) (r : Resolved) : Option Why :=
  match s.myLaunch, r.target with
  | some l, .mem key => s.writeWaits l key
  | _, _ => none

/-- Resolve (R218), and go on with the address; a miss parks for the walk, an absent group for its return. -/
def State.addressed (s : State) (c : RegCell) (delta : Int) (a : Ask) (k : Resolved → State → Res) : Res :=
  match s.resolve c delta a with
  | .trap t => .trap t
  | .walk r => .park .walk (s.wantWalk r)
  | .wait => .park .absent s
  | .ok r => k r s

/-- Resolve an access, whose words must be sound where it reads and which may wait for a recovery point where it writes. -/
def State.access (s : State) (c : RegCell) (delta : Int) (a : Ask) (k : Resolved → State → Res) : Res :=
  s.addressed c delta a (fun r s =>
    match (if a.rd then s.badWord r a.size else none) with
    | some v => .trap ⟨.machine, 0, 0x02, pointer r.space v⟩
    | none =>
      match (if a.wr then s.heldBack r else none) with
      | some w => .park w s
      | none => k r s)

/-- An instruction that may wait for its home: what it does when the answer is there, and what it does first. -/
def State.resume (s : State) (w : Why) (done : Quad → Bool → Res) (fresh : Res) : Res :=
  match s.st.prog with
  | .answered v _ tag _ => done v tag
  | .failed c d v => .raw (s.unspare.trap ⟨c, d / 256, d % 256, v⟩)
  | .waiting _ _ => .parkC w s
  | _ => fresh

/-- Remember the message waited for. -/
def State.await (s : State) (id n : Nat) : State := s.modSt (fun t => { t with prog := .waiting id n })

/-- A register is an output stream: a long result for it is waited for, so that pushes are made in program order (R263). -/
def State.outStream (s : State) (d : Reg) : Bool :=
  match d with
  | .c n => (s.cell d).stream && ((s.stream? n).map (·.output)).getD false
  | _ => false

/-- A load entered (R219): long, or waited for, where it is checked (R228) or its D is an output stream (R263). -/
def State.loadFrom (s : State) (r : Resolved) (pol : Nat) (granule : Bool) (act : Act) (d : Reg) : Res :=
  if s.checked r || s.outStream d then
    let x := s.send r pol granule (s.checked r) act
    .parkC .check (((x.2.await x.1 0).spare d).markOut d)
  else .ok ((s.send r pol granule false act).2.markOut d)

/-- A store entered (R220): posted, or checked and waited for. -/
def State.storeTo (s : State) (r : Resolved) (pol : Nat) (granule : Bool) (act : Act) : Res :=
  if s.checked r then
    let x := s.send r pol granule true act
    .parkC .check (x.2.await x.1 0)
  else .ok (s.send r pol granule false act).2

/-- The second 8-byte word of a 16-byte access (R233). -/
def Resolved.hi (r : Resolved) : Resolved :=
  { r with v := r.v + 8, pa := r.pa + 8, target := r.target.up }

/-- The two words of an LD or ST with W = 7 enter in either order (R233). DESIGN CHOICE (log 55). -/
def State.twoWords (s : State) (lo hi : State → State) : State :=
  let t : State := { s with fresh := s.fresh + 1 }
  if Config.highFirst s.fresh then lo (hi t) else hi (lo t)

/-- LD and LDX once resolved: .Q128 is two words, performed in either order (R233): two messages, or one that is waited for and whose
home performs the words one after the other. -/
def State.load (s : State) (t : Ty) (d : Reg) (r : Resolved) : Res :=
  if t = .w7 && !s.checked r && !s.outStream d then
    let lo (s : State) : State := (s.send r r.pol false false (.loadQ d false)).2
    let hi (s : State) : State := (s.send r.hi r.pol false false (.loadQ d true)).2
    .ok ((s.twoWords lo hi).markOut d)
  else s.loadFrom r r.pol (t == .w7) (.load t d) d

/-- ST and STX once resolved. -/
def State.store (s : State) (t : Ty) (v : Quad) (r : Resolved) : Res :=
  if t = .w7 && !s.checked r then
    let lo (s : State) : State := (s.send r r.pol false false (.store 8 (v.setWidth 64 |>.setWidth 128))).2
    let hi (s : State) : State := (s.send r.hi r.pol false false (.store 8 (v >>> 64))).2
    .ok (s.twoWords lo hi)
  else s.storeTo r r.pol (t == .w7) (.store (memSize t) v)

/-- The signed, scaled index of LDX and STX (R217). -/
def index (x : RegCell) (t : Ty) : Int := (lane0 x).toInt * memSize t

/-- The checks of STC for a tagged B (R221), made after the ST check. -/
def stcExtra (tagged : Bool) (q : Quad) : Option Nat :=
  if !tagged then none
  else if !capCST q then some 0x03
  else none

/-- B must hold GLB unless v lies in LOCAL (R221). -/
def stcChecks (b : RegCell) (q : Quad) : Option Nat :=
  (stcExtra b.tag q).orElse (fun _ => if b.tag && !capGLB b.v && capSpace q != 0 then some 0x06 else none)

/-- A synchronising access (R203, R204): entered, refused and re-sent, or answered. -/
def State.sync (s : State) (l : List RegCell) (off : Int) (wr : Bool) (act : List RegCell → Act) (done : Quad → Res) : Res :=
  let l := if s.st.prog.came then s.st.kept else l
  match s.st.prog with
  | .answered v _ _ _ => done v
  | .failed cs d v => .raw (s.trap ⟨cs, d / 256, d % 256, v⟩)
  | .waiting _ _ => .park .sync s
  | p =>
    let n := match p with | .refused n _ _ _ => n | _ => 0
    s.access (opv l 0) off { size := 8, rd := !wr, wr := wr, localOnly := true } (fun r s =>
      if s.g.synclim < n then .trap ⟨.syncretry, 0, 0, pointer r.space r.v⟩
      else
        let x := s.send r 0 false (s.checked r) (act l)
        .park .sync ((x.2.await x.1 n).modSt (fun t => { t with kept := l })))

/-! ### Class 0x7 -/

/-- LD. -/
def execLd (h : Head) (t : Ty) (pol : PolMod) (d : Reg) (a : PSrc) (off : BitVec 32) (s : State) : Out :=
  .next (s.issue h {} [pop1 a] [d] (fun l s =>
    s.resume .check (fun v _ => .ok (s.writeReg d v))
      (s.access (opv l 0) off.toInt { size := memSize t, rd := true, pol := some pol } (fun r s => s.load t d r))))
/-- ST. -/
def execSt (h : Head) (t : Ty) (pol : PolMod) (a : PSrc) (b : Src) (off : BitVec 32) (s : State) : Out :=
  .next (s.issue h {} [pop1 a, sop b] [] (fun l s =>
    s.resume .check (fun _ _ => .ok s)
      (s.access (opv l 0) off.toInt { size := memSize t, wr := true, pol := some pol }
        (fun r s => s.store t (opv l 1).v r))))
/-- LDX. -/
def execLdx (h : Head) (t : Ty) (pol : PolMod) (d : Reg) (a b : PSrc) (s : State) : Out :=
  .next (s.issue h {} [pop1 a, pop1 b] [d] (fun l s =>
    s.resume .check (fun v _ => .ok (s.writeReg d v))
      (s.access (opv l 0) (index (opv l 1) t) { size := memSize t, rd := true, pol := some pol }
        (fun r s => s.load t d r))))
/-- STX: D holds the data. -/
def execStx (h : Head) (t : Ty) (pol : PolMod) (d : Reg) (a b : PSrc) (s : State) : Out :=
  .next (s.issue h { ill := illStream d } [pop1 a, pop1 b, dop d] [] (fun l s =>
    s.resume .check (fun _ _ => .ok s)
      (s.access (opv l 0) (index (opv l 1) t) { size := memSize t, wr := true, pol := some pol }
        (fun r s => s.store t (opv l 2).v r))))
/-- LDC: the granule's tag comes with it when the capability holds CLD (R221). -/
def execLdc (h : Head) (pol : PolMod) (d : Reg) (a : PSrc) (off : BitVec 32) (s : State) : Out :=
  .next (s.issue h {} [pop1 a] [d] (fun l s =>
    s.resume .check (fun v tag => .ok (s.writeReg d v tag))
      (s.access (opv l 0) off.toInt { size := 16, rd := true, pol := some pol } (fun r s =>
        s.loadFrom r r.pol true (.loadCap d (capCLD (opv l 0).v && r.space != 5)) d))))
/-- STC. -/
def execStc (h : Head) (pol : PolMod) (a : PSrc) (b : Src) (off : BitVec 32) (s : State) : Out :=
  .next (s.issue h {} [pop1 a, sop b] [] (fun l s =>
    s.resume .check (fun _ _ => .ok s)
      (s.access (opv l 0) off.toInt
        { size := 16, wr := true, pol := some pol, noCtrl := (opv l 1).tag, extra := stcChecks (opv l 1) }
        (fun r s => s.storeTo r r.pol true (.storeCap (opv l 1).v (opv l 1).tag)))))
/-- LDE. -/
def execLde (h : Head) (d : Reg) (a : PSrc) (off : BitVec 32) (s : State) : Out :=
  .next (s.issue h {} [pop1 a] [d] (fun l s =>
    s.sync l off.toInt false (fun _ => .lde true) (fun v => .ok (s.writeReg d v))))
/-- LDF. -/
def execLdf (h : Head) (d : Reg) (a : PSrc) (off : BitVec 32) (s : State) : Out :=
  .next (s.issue h {} [pop1 a] [d] (fun l s =>
    s.sync l off.toInt false (fun _ => .lde false) (fun v => .ok (s.writeReg d v))))
/-- STF. -/
def execStf (h : Head) (a : PSrc) (b : Src) (off : BitVec 32) (s : State) : Out :=
  .next (s.issue h {} [pop1 a, sop b] [] (fun l s =>
    s.sync l off.toInt true (fun l => .stf (lane0 (opv l 1))) (fun _ => .ok s)))
/-- FESET (R222). -/
def execFeset (h : Head) (full : Bool) (a : PSrc) (off : BitVec 32) (s : State) : Out :=
  .next (s.issue h {} [pop1 a] [] (fun l s =>
    s.resume .check (fun _ _ => .ok s)
      (s.access (opv l 0) off.toInt { size := 8, wr := true, localOnly := true }
        (fun r s => s.storeTo r 0 false (.feset full)))))
/-- AMO: always at the memory home or the bank (R207, R223). -/
def execAmo (h : Head) (t : Ty) (fn : AmoFn) (d : Reg) (a : PSrc) (b : Src) (off : BitVec 32) (s : State) : Out :=
  .next (s.issue h {} [pop1 a, sop b] [d] (fun l s =>
    s.resume .check (fun v _ => .ok (s.writeReg d v))
      (s.access (opv l 0) off.toInt { size := min 8 (memSize t), rd := true, wr := true, noCtrl := true, atHome := true }
        (fun r s => s.loadFrom r 2 false (.amo t fn (opv l 1).v d) d))))
/-- CAS: expected in D, read under policy 0 (R224). -/
def execCas (h : Head) (t : Ty) (d : Reg) (a : PSrc) (b : Src) (off : BitVec 32) (s : State) : Out :=
  .next (s.issue h { ill := illStream d } [pop1 a, sop b, dop d] [d] (fun l s =>
    s.resume .check (fun v _ => .ok (s.writeReg d v))
      (s.access (opv l 0) off.toInt { size := memSize t, rd := true, wr := true, noCtrl := true, atHome := true }
        (fun r s => s.loadFrom r 2 (t == .w7) (.cas t (opv l 2).v (opv l 1).v d) d))))

/-- PREF (R225): fills the line where the checks pass, else nothing. A miss parks for the walk (R215). -/
def execPref (h : Head) (a : PSrc) (off : BitVec 32) (s : State) : Out :=
  .next (s.issue h {} [{ pop1 a with lax := true }] [] (fun l s =>
    if !(opv l 0).full || (opv l 0).poison.isSome then .ok s
    else
    match s.resolve (opv l 0) off.toInt { size := 1, rd := true } with
    | .ok r =>
      match r.target with
      | .mem key =>
        if 2 ≤ r.space && r.space ≤ 4 then
          let v := s.g.die
          let n := ((s.die? v).map (fun d => sliceOf d r.pa)).getD 0
          .ok (if (s.line? v key).isSome then s else s.fillLine v n key)
        else .ok s
      | _ => .ok s
    | .walk r => .park .walk (s.wantWalk r)
    | _ => .ok s))

/-- The line of a resolved address in spaces 2 to 4. -/
def Resolved.lineKey (r : Resolved) : Option Nat :=
  match r.target with
  | .mem key => if r.space = 5 then none else some key
  | _ => none

/-- LINEWB (R226): the write-back enters the line home's channel as a store of the strand. -/
def execLinewb (h : Head) (a : PSrc) (off : BitVec 32) (s : State) : Out :=
  .next (s.issue h {} [pop1 a] [] (fun l s =>
    s.addressed (opv l 0) off.toInt { size := 1, rd := true } (fun r s =>
      match r.lineKey with
      | none => .ok s
      | some key =>
        let v := s.g.die
        match s.line? v key with
        | none => .ok s
        | some ln =>
          if ln.dirty = 0 then .ok s
          else
            let s := s.mark (keyHome key)
            let x := s.newId
            let s := x.2.enter ⟨s.agent, keyHome key⟩
              { id := x.1, who := some s.me, owner := s.st.serial, act := .writeBack ln.bytes ln.dirty ln.tags, target := .mem (ln.key * 64) }
            .ok (s.modDie v (fun d => { d with
              lines := updateFirst (fun y => y.key == ln.key) (fun y => { y with dirty := 0 }) d.lines })))))

/-- LINEINV (R226): the line goes, dirty bytes and all. -/
def execLineinv (h : Head) (a : PSrc) (off : BitVec 32) (s : State) : Out :=
  .next (s.issue h {} [pop1 a] [] (fun l s =>
    s.addressed (opv l 0) off.toInt { size := 1, wr := true } (fun r s =>
      match r.lineKey with
      | none => .ok s
      | some key => .ok (s.modDie s.g.die (fun d =>
          { d with lines := d.lines.filter (fun y => y.key != key / 64) })))))

/-! ### Class 0x8 -/

/-- FENCE (R248). -/
def execFence (h : Head) (sc : Scope) (k : FKind) (s : State) : Out :=
  .next (s.issue h {} [] [] (fun _ s => s.fenceThen sc k 0 (fun s => .ok s)))
/-- TMGET (R251). -/
def execTmget (h : Head) (d : Reg) (s : State) : Out :=
  .next (s.issue h {} [] [d] (fun _ s => .ok (s.writeReg d (quad2 s.st.tmask 0))))
/-- TMCLR (R250). -/
def execTmclr (h : Head) (s : State) : Out :=
  .next (s.issue h {} [] [] (fun _ s => .ok (s.modSt (fun t => { t with tmask := 0 }))))
/-- FENCEH (R248): the mask is TMASK AND A. -/
def execFenceh (h : Head) (sc : Scope) (k : FKind) (a : Src) (s : State) : Out :=
  .next (s.issue h {} [sop a] [] (fun l s =>
    let r := s.fenceRun sc k (s.st.tmask &&& lane0 (opv l 0)) 0
    if r.1 then .ok r.2 else .park .fence r.2))

end Sys2Proof.Machine
end

