-- ==== Sys2Proof/Machine/Network.lean ====
section
/-! DEFINITION. Class 0xA, messages, link ports, static routes and the optical matching core (11 R277 to R312). -/

namespace Sys2Proof.Machine

/-! ### The way of a SEND (R280 to R285) -/

/-- Where a group stands or will stand. -/
def Group.spot (g : Group) : Nat × Nat := match g.place with | some p => (p.die, p.tile) | none => (g.homeDie, g.logical)

/-- The way of a SEND (R281, R283): its legs, by default routing alone or, behind the hops of a static route, on from their end, or
the detail of OUTSIDE. -/
def State.sendWay (s : State) (dst : Group) (route : Option Nat) : Except Nat (List Leg) :=
  let a := s.g.spot
  let b := dst.spot
  match route with
  | none =>
    if a.1 = b.1 then
      match defaultPath (s.offOn a.1) (fun _ => 0) a.2 b.2 with
      | some l => .ok (if l.isEmpty then [] else [.mesh a.1 a.2 b.2 false])
      | none => .error 0x04
    else
      match s.legsOf (.tile a.1 a.2) (.tile b.1 b.2) with
      | some l => .ok l
      | none => .error 0x04
  | some n =>
    match s.g.routes.lookup n with
    | none => .error 0x06
    | some r =>
      match routeHops (s.offOn a.1) r (a.2 % 12 : Nat) (a.2 / 12 : Nat) with
      | .error e => .error e
      | .ok hops =>
        match s.legsOf (.tile a.1 ((hops.getLast?.map (·.1)).getD a.2)) (.tile b.1 b.2) with
        | some l => .ok (.named a.1 a.2 hops :: l)
        | none => .error 0x04

/-- A group whose messages go to its absent mailbox in panel memory, whatever the way to its tile (R292). -/
def Group.away (g : Group) : Bool := g.state == .queued || g.state == .saved

/-- The way of a SEND, which a group that is away needs only as far as its absent mailbox. -/
def State.sendOver (s : State) (dst : Group) (route : Option Nat) : Except Nat (List Leg) :=
  match s.sendWay dst route with
  | .error d => if d = 0x04 && dst.away then .ok [] else .error d
  | .ok w => .ok w

/-- A die lies in the rectangle of the strand's tenant (R297, R443). -/
def State.inRectangle (s : State) (v : Nat) : Bool :=
  match s.tenant? s.myTenant with
  | none => true
  | some t => t.vx0 ≤ v % 8 && v % 8 < t.vx0 + t.width && t.vy0 ≤ v / 8 && v / 8 < t.vy0 + t.height

/-! ### SEND (R305) -/

/-- A message is outstanding from its issue (R295). -/
def State.putOut (s : State) (o : Outstanding) : State :=
  s.modSt (fun t => { t with msgSeq := o.seq, outstanding := t.outstanding ++ [o] })

/-- SEND and SENDI once the capability has passed its checks. -/
def State.sendWord (s : State) (c : Quad) (route : Option Nat) (payload : Quad) : Res :=
  let cur := capCursor c
  let gn := if capSpace c = 0 then s.g.gid.num else cur / 2 ^ 28
  let gid : GroupId := ⟨s.g.gid.launch, gn⟩
  let out (d : Nat) : Res := .trap ⟨.outside, 0, d, pointer (capSpace c) (s.capAddr c)⟩
  match s.group? gid with
  | none => .park .absent s
  | some dst =>
    if !s.inRectangle dst.die then out 0x03
    else
      match s.sendOver dst route with
      | .error d => out d
      | .ok way =>
        if 16 ≤ s.st.outstanding.length then .park .messages s
        else
          let seq := s.st.msgSeq + 1
          let omc := way.any (fun l => match l with | .omc .. => true | _ => false)
          let m : Mail :=
            { payload := payload, inbox := cur / 2 ^ 11 % 2 = 1, slot := Fin.ofNat 8 (cur / 2 ^ 8), reg := cur % 64
              sender := s.me, vdie := s.g.die, seq := seq, clock := s.st.clock, instant := s.g.instant
              sentAt := s.now, owner := s.st.serial, fences := s.st.ofences, omc := omc }
          let s := s.mark (.inbox gid)
          let s := s.putOut { seq := seq, osend := false, omc := omc, die := dst.die, since := some s.now }
          let s := s.modSt (fun t => { t with lastMsg := some ⟨seq, false, false, 0, 0, omc⟩ })
          let i := s.newId
          .ok (i.2.enterBy ⟨s.agent, .inbox gid⟩
            { id := i.1, who := some s.me, owner := s.st.serial, act := .mail m, target := .mem 0, clock := m.clock } (some way))

/-- The capability of a SEND. -/
def sendAsk : CapAsk := { snd := true, spaces := (· ≤ 1) }

/-- SEND. -/
def execSend (h : Head) (route : Option (BitVec 6)) (a : PSrc) (b : Src) (s : State) : Out :=
  .next (s.issue h {} [pop1 a, sop b] [] (fun l s =>
    s.checkCaps [(opv l 0, sendAsk)] (s.sendWord (opv l 0).v (route.map BitVec.toNat) (opv l 1).v)))
/-- SENDI. -/
def execSendi (h : Head) (route : Option (BitVec 6)) (a : PSrc) (imm : BitVec 32) (s : State) : Out :=
  .next (s.issue h {} [pop1 a] [] (fun l s =>
    s.checkCaps [(opv l 0, sendAsk)] (s.sendWord (opv l 0).v (route.map BitVec.toNat) (imm.setWidth 128))))

/-! ### Arrival (R289 to R293) -/

/-- The description of a message in an inbox (R290). -/
def Mail.description (m : Mail) (miss : Bool) : Lane :=
  BitVec.ofNat 64 ((if miss then 2 ^ 40 else 0) + (if m.inbox then 0 else m.reg) * 2 ^ 34 + m.slot.val * 2 ^ 31
    + m.vdie % 128 * 2 ^ 24 + m.sender.slot.val * 2 ^ 21 + m.sender.g.num % 2 ^ 16)

/-- Is the message's target a mailbox of a slot that holds a strand (R291)? -/
def Group.mailboxOf (g : Group) (m : Mail) : Option (Fin 48) :=
  if h : m.reg < 48 then
    let t := g.st[m.slot]
    if !m.inbox && t.run != .idle && t.isMbox ⟨m.reg, h⟩ then some ⟨m.reg, h⟩ else none
  else none

/-- Put a message where it belongs, if there is room now (R291): in an empty mailbox even while a result that names that
register is under way (R50), which the payload does not settle. -/
def Group.takeMail (g : Group) (m : Mail) : Option Group :=
  match g.mailboxOf m with
  | some n =>
    if ((g.st[m.slot]).c[n]).full then none
    else some (g.modSt m.slot (fun t => t.setCell (.c n) { v := m.payload, out := (t.c[n]).out }))
  | none =>
    if 32 ≤ g.inbox.length then none
    else some { g with inbox := g.inbox ++ [⟨m.payload, m.description (!m.inbox)⟩] }

/-- A message has been accepted (R285, R286, R295): the die's RTLAT, the sender's last message, and an acknowledgement. -/
def State.accepted (s : State) (g : GroupId) (m : Mail) : State :=
  if m.done then s
  else
    let lat := max m.cost ((s.now - m.sentAt) / s.cycAt m.sender.g)
    let s := s.tellDie m.vdie lat
    let s := s.atOwner m.sender m.owner (fun s => s.modSt (fun t =>
      { t with lastMsg := t.lastMsg.map (fun l => if l.seq = m.seq then { l with settled := true, latency := lat, hops := m.hops } else l) }))
    s.postAck m.key ((s.group? g).bind Group.loc)

/-- The arrival buffer gives up what its targets can take, entries of one channel in order (R291). -/
def State.drainBuffer (s : State) (g : GroupId) : List Mail → List Agent → State
  | [], _ => s
  | m :: r, waiting =>
    match (if waiting.contains m.src then none else (s.group? g).bind (fun gr => gr.takeMail m)) with
    | some gr =>
      let s := s.modGroup g (fun _ => { gr with arrivals := gr.arrivals.filter (fun x => !x.key.is m.key) })
      (s.accepted g m).drainBuffer g r waiting
    | none => s.drainBuffer g r (m.src :: waiting)

/-- HOLD notices of a message that is refused (R291): one is sent where none is on its way and the timer runs. -/
def State.holdTimer (s : State) (g : GroupId) (m : Mail) : State := s.postHold m.key ((s.group? g).bind Group.loc)

/-- Arrive of R291 for a message that heads its channel: true when it leaves the channel. -/
def State.arriveMail (s : State) (g : Group) (m : Mail) : Bool × State :=
  let behind := g.arrivals.any (fun x => x.src == m.src)
  match (if behind then none else g.takeMail m) with
  | some gr => (true, ((s.modGroup g.gid (fun _ => gr)).accepted g.gid m))
  | none =>
    if 8 ≤ g.arrivals.length then
      (false, (s.holdTimer g.gid m).modGroup g.gid (fun g =>
        { g with refusals := if g.refusals.contains m.src then g.refusals else g.refusals ++ [m.src] }))
    else (true, s.modGroup g.gid (fun g => { g with arrivals := g.arrivals ++ [m] }))

/-- The word by which a deterministic launch names a target of messages (R293): a mailbox, or the inbox, to which a message that
names no mailbox goes too (R291). -/
def mailWord (g : Group) (m : Mail) : Nat × Nat :=
  (2 ^ 30 + g.gid.num, match g.mailboxOf m with | none => 512 | some n => m.slot.val * 64 + n.val)

/-- The end of a message that will not be accepted: its sender is told at its next boundary (R293, R295). -/
def State.loseMail (s : State) (k : MsgKey) (t : Trap) : State :=
  s.atOwner k.who k.owner (fun s => s.modSt (fun x =>
    { x with
      ackLost := x.ackLost ++ [t]
      outstanding := x.outstanding.filter (fun o => o.seq != k.seq)
      lastMsg := x.lastMsg.map (fun l => if l.seq = k.seq then { l with settled := true, lost := true } else l) }))

/-- Retry refused messages of a group in the order of their refusal. -/
def State.retry (s : State) (g : GroupId) : List Agent → State
  | [] => s
  | w :: r =>
    let ch : ChanId := ⟨w, .inbox g⟩
    match s.chan ch, s.group? g with
    | m :: rest, some gr =>
      match m.mail? with
      | some x =>
        let y := s.arriveMail gr x
        if y.1 then
          ((y.2.setChan ch rest).modGroup g (fun gr => { gr with refusals := gr.refusals.filter (· != w) })).retry g r
        else s
      | none => s.retry g r
    | _, _ => s.retry g r

/-- What waits before a resident group is accepted as soon as its target can take it. -/
def State.pump (s : State) (g : GroupId) : State :=
  match s.group? g with
  | some gr =>
    if gr.state == .resident && !gr.frozen then
      let s := if gr.arrivals.isEmpty then s else s.drainBuffer g gr.arrivals []
      if gr.refusals.isEmpty then s else s.retry g gr.refusals
    else s
  | none => s

/-- The channels to inboxes whose head is a message. -/
def State.mailChans (s : State) : List (ChanId × GroupId × Mail) :=
  s.chans.filterMap (fun c =>
    match c.1.home, c.2 with
    | .inbox g, m :: _ => m.mail?.map (fun x => (c.1, g, x))
    | _, _ => none)

/-- Every strand of a group stands still for a stop: its messages are kept as if it were saved already (15 R411, R418). -/
def Group.out (g : Group) : Bool := g.stop.isSome && g.st.toList.all (fun t => t.stopped || t.run == .idle)

/-- A message at the head of its channel meets its group (R291 to R293): in a deterministic launch it is first checked
against the other messages of the instant; a group that is not resident has it kept, 4,096 at most (R411). -/
def State.meetGroup (s : State) (ch : ChanId) (g : Group) (m : Mail) : State :=
  let rest := (s.chan ch).drop 1
  let r := if s.detOf m.sender && !g.arrivals.any (fun x => x.key.is m.key) then
      s.checkWords m.sender [mailWord g m] m.instant m.clock true none 4 else (none, s)
  match r.1 with
  | some d => (s.setChan ch rest).loseMail m.key ⟨.conflict, 0, d.1, BitVec.ofNat 64 m.seq⟩
  | none =>
    if g.state == .resident && !g.out then
      let y := r.2.arriveMail g m
      if y.1 then (y.2.setChan ch rest).modGroup g.gid (fun g => { g with refusals := g.refusals.filter (· != m.src) })
      else y.2
    else if 4096 ≤ g.absent.length then s.holdTimer g.gid m
    else ((r.2.setChan ch rest).modGroup g.gid (fun g => { g with absent := g.absent ++ [{ m with done := true }] })).accepted g.gid m

/-- A message of the optical core that follows an OFENCE waits for the blocks that its strand has sent before it (R246). -/
def State.fencedOff (s : State) (m : Mail) : Bool :=
  m.omc && s.blocks.any (fun b => b.who.g == m.sender.g && b.owner == m.owner && b.fences < m.fences)

/-- MESSAGE_ARRIVAL (R291, R292, R293): the message at the head of the k-th channel to an inbox. DEDUCED (log 26). -/
def execMessageArrival (k : Nat) (s : State) : Out :=
  .next <|
    match s.mailChans[k]? with
    | none => s
    | some (ch, gid, m) =>
      match s.group? gid with
      | none => s
      | some g =>
        let x := s.headArrives ch
        let t := ((x.2.chan ch).head?.map (·.trail)).getD {}
        let m := (((x.2.chan ch).head?).bind Msg.mail?).getD m
        if !x.1 || s.fencedOff m then x.2
        else
          let s0 := { x.2 with now := max s.now (t.due + 2 * t.cyc) }
          match g.state with
          | .retired => s0.setChan ch ((s.chan ch).drop 1)
          | .swapping => x.2
          | _ =>
            if g.frozen then x.2.holdTimer gid m
            else if (g.refusals.contains m.src && g.refusals.head? != some m.src) then x.2
            else s0.meetGroup ch g m

/-- MESSAGE_ACK (R295): an acknowledgement, or a HOLD notice, reaches its source tile, behind what was sent to the strand before it. -/
def execMessageAck (k : Nat) (s : State) : Out :=
  .next <|
    match s.msgAcks[k]? with
    | none => s
    | some a =>
      if (s.msgAcks.take k).any (fun b => b.key.who.g == a.key.who.g && b.key.owner == a.key.owner && b.key.seq == a.key.seq) then s
      else
        let x := s.goAck a
        if x.1.legs.isEmpty && !a.trail.lost then ({ x.2 with msgAcks := x.2.msgAcks.eraseIdx k }).acked a
        else { x.2 with msgAcks := x.2.msgAcks.set k { a with trail := x.1 } }

/-- A message leaves every channel, queue and arrival buffer: it is never delivered. -/
def State.dropMail (s : State) (k : MsgKey) : State :=
  let mine (m : Msg) : Bool := match m.act with | .mail x => x.key.is k | _ => false
  let keep (m : OmcMsg) : Bool := !m.key.is k
  let s := s.mapGroups (fun g => { g with arrivals := g.arrivals.filter (fun m => !m.key.is k) })
  { s with chans := (s.chans.map (fun (c : ChanId × List Msg) => (c.1, c.2.filter (fun m => !mine m)))).filter (fun c => !c.2.isEmpty)
           dies := s.dies.map (fun d => { d with sendq := d.sendq.filter keep, relay := d.relay.filter keep }) }

/-- MSGLOST (R295): the timer of an outstanding message has reached MSGTIM. DEDUCED (log 26). -/
def execMsglost (w : StrandId) (seq : Nat) (s : State) : Out :=
  .next <|
    match s.group? w.g, (s.strand? w).bind (fun t => t.outstanding.find? (fun o => o.seq == seq)) with
    | some g, some o =>
      let cycles := o.counted + (o.since.map (fun f => (s.now - f) / s.cycOf g)).getD 0
      if cycles < g.msgtim then s
      else
        let k : MsgKey := ⟨w, s.serialOf w, seq⟩
        (s.dropMail k).loseMail k ⟨.msglost, 0, if o.osend then 2 else 1, BitVec.ofNat 64 seq⟩
    | _, _ => s

/-- The messages in the optical core's queues. -/
def State.omcMsgs (s : State) : List OmcMsg := s.dies.flatMap (fun d => d.sendq ++ d.relay)
/-- A message of the optical core that will change a group's scratchpad or inbox. -/
def OmcMsg.bringsTo (m : OmcMsg) (g : GroupId) : Bool :=
  match m.body with
  | .block b => b.dst == g
  | .access c _ => (match c.home with | .inbox i => i == g | _ => false)
  | _ => false

/-- A header error is counted (R294): for the link, as transient where the resend succeeds and else as a lasting fault, which is
logged to the control die. DEDUCED (log 46). -/
def State.noteLink (s : State) (again : Bool) : State :=
  let n := Config.errorLink s.fresh
  let d := s.dev
  { s with
    fresh := s.fresh + 1
    dev := if again then { d with linkErrors := insertKey d.linkErrors n (lookD d.linkErrors n 0 + 1), faults := d.faults ++ [⟨.link n, s.now, false⟩] }
           else { d with partFaults := insertKey d.partFaults n (lookD d.partFaults n 0 + 1), faults := d.faults ++ [⟨.link n, s.now, true⟩] } }

/-- A packet that has a header (R294): a message that heads its channel to an inbox, one in the optical core, any other message of a
channel, a response, an acknowledgement, a link word on the mesh, a fill, a pool's summary between two dies, a forwarded take. -/
inductive Packet where
  | mail (m : Mail)
  | omc (m : OmcMsg)
  | message (ch : ChanId) (m : Msg)
  | response (r : InFlight)
  | ack (a : Ack)
  | word (w : LinkFly)
  | fill (die : Nat) (f : Fill)
  | summary (pool src dst : Nat)
  | take (f : TakeFly)
  deriving DecidableEq, Repr

/-- The packets on their way. DEDUCED (log 46). -/
def State.packets (s : State) : List Packet :=
  s.mailChans.map (fun x => .mail x.2.2)
    ++ s.omcMsgs.map .omc
    ++ s.chans.flatMap (fun c => c.2.map (.message c.1))
    ++ s.rets.map .response
    ++ s.msgAcks.map .ack
    ++ (s.linkWords.filter (·.trail.isSome)).map .word
    ++ s.dies.flatMap (fun d => d.fills.map (.fill d.v))
    ++ s.pools.flatMap (fun p => p.shards.flatMap (fun a => (p.shards.filter (fun b => b.die != a.die)).map (fun b =>
        .summary p.num a.die b.die)))
    ++ s.takes.map .take

/-- A message of a channel is dropped; what its strand waits for of it never comes (R294). -/
def State.dropRequest (s : State) (m : Msg) : State :=
  match m.act, m.who with
  | .mail x, _ => s.dropMail x.key
  | _, w =>
    let s := s.dropMsg m.id
    let s := { s with dies := s.dies.map (fun d => { d with sendq := d.sendq.filter (fun x => x.key != m.key) }) }
    match w with
    | some w =>
      let lost (b : Back) : State :=
        { s with rets := s.rets ++ [{ id := m.id, who := w, owner := m.owner, dst := .c 0, v := 0, tag := false, bad := none, half := none
                                      home := .control, back := b, trail := { lost := true } }] }
      if m.act.isLoad then lost .value else match m.act with | .probe => lost .echo | _ => s
    | none => s

/-- A packet is dropped: it is never delivered, and what follows it goes on (R294). DEDUCED (log 46). -/
def State.dropPacket (s : State) (p : Packet) : State :=
  let lose (t : Trail) : Trail := { t with lost := true }
  let loseResponse (id : Nat) (s : State) : State := { s with rets := updateFirst (fun r => r.id == id) (fun r => { r with trail := lose r.trail }) s.rets }
  let loseFill (v key : Nat) (s : State) : State :=
    s.modDie v (fun d => { d with fills := updateFirst (fun f => f.key == key) (fun f => { f with trail := lose f.trail }) d.fills })
  let loseAck (k : MsgKey) (hold : Bool) (s : State) : State := { s with msgAcks := s.msgAcks.filter (fun a => !(a.key.is k && a.hold == hold)) }
  match p with
  | .mail m => s.dropMail m.key
  | .omc m =>
    let s := s.dropMail m.key
    match m.body with
    | .access ch id => (match (s.chan ch).find? (fun x => x.id == id) with | some x => s.dropRequest x | none => s)
    | .value id => loseResponse id s
    | .ack k hold => loseAck k hold s
    | .fill v key => loseFill v key s
    | .block _ | .reply _ => s
  | .message _ m => s.dropRequest m
  | .response r => loseResponse r.id s
  | .ack a => loseAck a.key a.hold s
  | .word w => { s with linkWords := s.linkWords.erase w }
  | .fill v f => loseFill v f.key s
  | .summary pool a b => s.modShard pool b (fun h => if h.seen.any (fun y => y.1 == a) then h else { h with missed := h.missed ++ [a] })
  | .take f => { s with takes := s.takes.erase f }

/-- The port of the optical core that meets a packet's header errors (R303). -/
def Packet.port : Packet → Option Nat
  | .mail m => if m.omc then some m.vdie else none
  | .omc m => some m.src
  | .summary _ a _ => some a
  | .take f => some f.src
  | _ => none

/-- HEADER_RESEND (R294): a header error met by the k-th packet on its way. The link sends its flits again from its buffer; that
succeeds, or the packet is dropped. The OMC port counts its errors (R303). Every error of up to three bits is detected, so a header
that is taken is the one that was sent: it needs no code of its own here. DEDUCED (log 46). -/
def execHeaderResend (k : Nat) (again : Bool) (s : State) : Out :=
  .next <|
    match s.packets[k]? with
    | none => s
    | some p =>
      let s := s.noteLink again
      let s := match p.port with
        | some v => s.modDie v (fun d => { d with herr := min 65535 (d.herr + 1) })
        | none => s
      if again then s else s.dropPacket p

/-! ### Subnetworks (R277) -/

/-- Ticks for which a router must be crowded before the next subnetwork switches on, and a subnetwork idle before it switches
off: 4,096 and 65,536 cycles (R277). -/
def hotTicks : Nat := 4096 * Config.cycleTicks
def idleTicks : Nat := 65536 * Config.cycleTicks

/-- Subnetwork k of a die may switch on: k - 1 is on, and some router has had more than three quarters of its shared permits
there in use for 4,096 cycles (R277). -/
def Die.mayOpen (d : Die) (k now : Nat) : Bool :=
  d.subnets == k && 1 ≤ k && k ≤ 3 && d.hotSince.any (fun x => x.1.2 == k - 1 && x.2 + hotTicks ≤ now)
/-- Subnetwork k may switch off: it is the highest that is on, and it has carried nothing for 65,536 cycles (R277). -/
def Die.mayShut (d : Die) (k now : Nat) : Bool :=
  d.subnets == k + 1 && 1 ≤ k && (match d.idleSince.lookup k with | some t => t + idleTicks ≤ now | none => false)

/-- SUBNETWORK_ON (R277): what the routers hold is looked at now. -/
def execSubnetworkOn (die k : Nat) (s : State) : Out :=
  .next (s.watchMeshes.modDie die (fun d => if d.mayOpen k s.now then { d with subnets := k + 1 } else d))
/-- SUBNETWORK_OFF (R277): from the highest number down; 0 stays on. -/
def execSubnetworkOff (die k : Nat) (s : State) : Out :=
  .next (s.watchMeshes.modDie die (fun d => if d.mayShut k s.now then { d with subnets := k } else d))

/-! ### The inbox (R306), RTLAT (R307), routes (R308), LINKCLR (R309) -/

/-- The inbox of a deterministic launch is read by one strand, or in an order (R229). The check is made as the instruction first
issues, and not again where it issues from its park. -/
def State.inboxCheck (s : State) (w : Why) (k : State → Res) : Res :=
  if s.det && s.st.again != some w then
    match s.checkWords s.me [(2 ^ 31 + s.g.gid.num, 0)] s.g.instant s.st.clock true none 5 with
    | (some d, _) => .trap ⟨.conflict, 0, d.1, Config.trapValue s.fresh⟩
    | (none, s) => k s
  else k s

/-- The slots that wait at INPOP and issued before slot k (R306). -/
def Group.inboxAhead (g : Group) (k : Fin 8) : List (Fin 8) :=
  let waits (j : Fin 8) : Bool := j != k && (g.st[j]).again == some .inbox
  match (g.st[k]).again with
  | some .inbox => (g.inboxQ.takeWhile (· != k)).filter waits
  | _ => g.inboxQ.filter waits

/-- INPOP: strands that wait take the entries in the order in which they issued. -/
def execInpop (h : Head) (d : Reg) (s : State) : Out :=
  .next (s.issue h {} [] [d] (fun _ s => s.inboxCheck .inbox (fun s =>
    let ahead := s.g.inboxAhead s.slot
    match s.g.inbox, ahead with
    | e :: r, [] => .ok (((s.modG (fun g =>
        { g with inbox := r, inboxQ := g.inboxQ.filter (· != s.slot) })).writeReg d e.payload).pump s.g.gid)
    | _, _ => .park .inbox (s.modG (fun g =>
        { g with inboxQ := if (g.st[s.slot]).again == some .inbox then g.inboxQ else g.inboxQ.filter (· != s.slot) ++ [s.slot] })))))
/-- INPEEK: in a deterministic launch it parks until there is an entry, and lane 1 is 1 (R229). -/
def execInpeek (h : Head) (d : Reg) (s : State) : Out :=
  .next (s.issue h {} [] [d] (fun _ s => s.inboxCheck .inpeek (fun s =>
    match s.g.inbox with
    | [] => if s.det then .park .inpeek s else .ok (s.writeReg d 0)
    | e :: _ => .ok (s.writeReg d (quad2 e.desc (if s.det then 1 else BitVec.ofNat 64 s.g.inbox.length))))))
/-- RTLAT. -/
def execRtlat (h : Head) (d : Reg) (s : State) : Out :=
  .next (s.issue h {} [] [d] (fun _ s =>
    match s.st.lastMsg with
    | none => .ok (s.writeReg d 0)
    | some m =>
      if !m.settled then .park .rtlat s
      else
        let lo := m.latency % 2 ^ 32 * 2 ^ 32 + (if m.lost then 2 ^ 17 else 0) + (if m.omc then 2 ^ 16 else 0) + m.hops % 2 ^ 16
        .ok (s.writeReg d (quad2 (if s.det then 0 else BitVec.ofNat 64 lo) (BitVec.ofNat 64 (m.seq % 2 ^ 32))))))

/-- A route record (R81, R308): its number and hops. -/
def routeRecord (q : Quad) : Option (Nat × Route) :=
  let n := q.toNat % 256
  let k := q.toNat / 256 % 256
  let v := q.toNat / 2 ^ 16
  let hops : Route := (List.range k).map (fun i => Fin.ofNat 8 (v / 8 ^ i))
  if 63 < n || k < 1 || 37 < k || v / 8 ^ k != 0 || breaksWest false hops then none else some (n, hops)

/-- RTLOAD (R308): CheckCap comes first, so ALIGN goes before CAPBOUND (R46). -/
def execRtload (h : Head) (a : PSrc) (s : State) : Out :=
  .next (s.issue h { konly := true } [pop1 a] [] (fun l s =>
    s.resume .value (fun v _ =>
        match routeRecord v with
        | none => .trap ⟨.illegal, 0, 0x0C, 0⟩
        | some (n, r) => .ok (s.modG (fun g => { g with routes := insertKey g.routes n r })))
      (s.checkCaps [(opv l 0, { ld := true, spaces := (· ≤ 4), align := 16 })]
        (s.access (opv l 0) 0 { size := 16, rd := true, noCtrl := true } (fun r s =>
          let x := s.send r r.pol true (s.checked r) .record
          .parkC .value (x.2.await x.1 0))))))

/-- LINKCLR (R309). -/
def execLinkclr (h : Head) (d : Reg) (mask : BitVec 4) (s : State) : Out :=
  .next (s.issue h {} [] [d] (fun _ s =>
    let n (k : Nat) : Nat := if mask.getLsbD k then (s.g.links.toList.getD k []).length else 0
    let v := n 0 + n 1 * 2 ^ 16 + n 2 * 2 ^ 32 + n 3 * 2 ^ 48
    let s := s.modG (fun g => { g with links := Vector.ofFn (fun (k : Fin 4) => if mask.getLsbD k.val then [] else g.links[k]) })
    .ok (s.writeReg d (quad2 (BitVec.ofNat 64 v) 0))))

/-- LINK_WORD_ARRIVAL (R52, R287): the k-th word in flight, behind those of its port that were pushed before it. -/
def execLinkWordArrival (k : Nat) (s : State) : Out :=
  .next <|
    match s.linkWords[k]? with
    | none => s
    | some w =>
      if (s.linkWords.take k).any (fun x => x.dst == w.dst && x.port == w.port) then s
      else
        let s := s.vouch w
        match s.group? w.dst with
        | none => { s with linkWords := s.linkWords.eraseIdx k }
        | some g =>
          if s.linkWords[k]? != some w then s
          else if g.state == .swapping || g.state == .saved || g.state == .queued then s
          else
            let x := s.goWord w
            if x.1 then x.2.landWord w else x.2

/-! ### The optical matching core (R298 to R303, R310 to R312) -/

/-- KiB of a relay buffer that are free (R301). -/
def Die.relayFree (d : Die) : Nat := 512 - (((d.relay.map (·.flits)).sum * 128 + 1023) / 1024)

/-- OSLOT (R311). -/
def execOslot (h : Head) (d : Reg) (s : State) : Out :=
  .next (s.issue h {} [] [d] (fun _ s =>
    match s.die? s.g.die with
    | some x =>
      if s.det || s.dev.stage < 3 then .ok (s.writeReg d 0)
      else
        let step := s.now / Config.omcStepTicks % 32
        let ns := s.now % Config.omcStepTicks / Config.nsTicks
        let lo := (if 115 ≤ ns then 2 ^ 16 else 0) + x.plup % 16 * 2 ^ 12 + ns * 2 ^ 5 + step
        .ok (s.writeReg d (quad2 (BitVec.ofNat 64 lo) (BitVec.ofNat 64 x.relayFree)))
    | none => .ok (s.writeReg d 0)))

/-- OFENCE (R312): relay acknowledgements, then the echoes of the direct paths. -/
def execOfence (h : Head) (s : State) : Out :=
  .next (s.issue h {} [] [] (fun _ s => let r := s.ofenceRun; if r.1 then .ok r.2 else .park .ofence r.2))

/-- OSEND's block, sent (R310): over the mesh to the own die's tile in the bulk class, else from the port, which has copied it, into the
send queue. `way` is the way of the source bytes to the port. DEDUCED (log 25). -/
def State.sendBlock (s : State) (unordered : Bool) (dst : Group) (d b : Quad) (bytes : List Byte) (way : Trail) : State :=
  let seq := s.st.msgSeq + 1
  let same := dst.die == s.g.die || s.dev.stage < 3
  let blk : Block := { uid := s.nextId, who := s.me, owner := s.st.serial, seq := seq, dst := dst.gid, off := (s.barPlace d).2
                       bar := (s.barPlace b).2, bytes := bytes, ordered := !unordered, die := dst.die, src := s.g.die
                       sentAt := s.now - way.cost * s.cyc, cost := way.cost, fences := s.st.ofences, arrived := s.now, clock := s.st.clock }
  let s := { s with nextId := s.nextId + 1 }
  let s := s.putOut { seq := seq, osend := true, omc := !same, die := dst.die, since := some s.now }
  if same then
    let t := s.trailOf s.g.loc dst.loc s.cyc none
    if t.legs.isEmpty then s.blockArrives blk s.now
    else { s with blocks := s.blocks ++ [{ blk with sentAt := s.now, cost := 0, trail := t, coming := true }] }
  else s.joinQueue s.g.die
    { src := s.g.die, dst := dst.die, flits := omcFlits bytes.length, ordered := !unordered, relayed := false, key := blk.msgKey
      body := .block blk, joined := s.now }

/-- The way of an OSEND's source bytes to the port of the sender's die (R310, R466); none where the block stays on the die. -/
def State.portWay (s : State) (g : Group) (slot : Fin 8) : Trail :=
  match (g.portCopies.find? (fun x => x.1 == slot)).map (·.2) with
  | some t => t
  | none =>
    match g.loc with
    | some (.tile v t) => s.trailOf g.loc (some (.tile v (attachment (s.offOn v) t))) (s.cycOf g) none
    | _ => {}

/-- OSEND (R310). DEDUCED (log 25). -/
def execOsend (h : Head) (unordered : Bool) (d : Reg) (a b : PSrc) (s : State) : Out :=
  .next (s.issue h { ill := illStream d } [pop1 a, pop1 b, dop d] [] (fun l s =>
    let dc := (opv l 2).v
    let ac := (opv l 0).v
    let bc := (opv l 1).v
    s.checkCaps [(opv l 2, { st := true, spaces := (· ≤ 1), align := 64 }),
      (opv l 0, { ld := true, spaces := (· == 0), align := 64 }), (opv l 1, barAsk)] (
      let n := min (capRest dc) (capRest ac)
      if (s.barPlace bc).1 != (s.barPlace dc).1 then .trap ⟨.capperm, 0, 0x08, capPointer bc⟩
      else if n = 0 then .ok s
      else if 11504 < n then .trap ⟨.capbound, 0, 0x06, capPointer ac⟩
      else
        match s.group? (s.barPlace dc).1 with
        | none => .park .absent s
        | some dst =>
          if !s.inRectangle dst.die then .trap ⟨.outside, 0, 0x03, s.barPtr dc⟩
          else if s.apart s.g dst then .trap ⟨.outside, 0, 0x04, s.barPtr dc⟩
          else if 16 ≤ s.st.outstanding.length then .park .messages s
          else
            match s.st.prog with
            | .copied _ =>
              match s.g.badFrom (s.barPlace ac).2 n with
              | some w => .trap ⟨.machine, 0, 0x02, pointer 0 (8 * w)⟩
              | none =>
                let s1 := s.modG (fun g => { g with portCopies := g.portCopies.filter (fun x => x.1 != s.slot) })
                .ok (s1.sendBlock unordered dst dc bc (s.g.readSp (s.barPlace ac).2 n)
                  (((s.g.portCopies.find? (fun x => x.1 == s.slot)).map (·.2)).getD {}))
            | _ => s.engineRelease (fun s => .park .portCopy s))))

/-- PORT_COPY_DONE (R310): the source bytes have gone over the mesh to the port, which has copied them; the committed park ends and the
block is sent. -/
def execPortCopyDone (w : StrandId) (s : State) : Out :=
  .next <|
    match s.group? w.g with
    | none => s
    | some g =>
      if (g.st[w.slot]).run != .parked .portCopy then s
      else
        let t := s.portWay g w.slot
        let u := s.goOn .bulk unitFlits t
        let s := (s.carried t u).modGroup w.g (fun g =>
          { g with portCopies := (w.slot, if u.legs.isEmpty then { u with spot := none } else u) :: g.portCopies.filter (fun x => x.1 != w.slot) })
        if u.legs.isEmpty then s.modStrand w (fun t => { t with prog := .copied [], run := .ready }) else s

/-- A slot's partner (R298): the physical die that plane p meets in a step; none for the calibration slot. -/
def partnerOf (phys step plane : Nat) : Option Nat :=
  if 4 * step + plane = 0 then none else some (Nat.xor phys (4 * step + plane))

/-- The next opening of a plane's window that the port has not composed. -/
def Die.nextWindow (d : Die) (plane now : Nat) : Nat :=
  let t := (now + Config.omcStepTicks - 1) / Config.omcStepTicks * Config.omcStepTicks
  match d.windows.lookup plane with
  | some last => if t ≤ last then last + Config.omcStepTicks else t
  | none => t

/-- What fits of a queue for a partner: messages that have joined by the window's opening, in order until one does not fit, which
ends steps 3 and 4 for the window; what they leave of the room, and whether they have ended (R299). -/
def fitOf (dst t : Nat) : List OmcMsg → Nat → List OmcMsg × Nat × Bool
  | [], room => ([], room, false)
  | m :: r, room =>
    if m.dst != dst || t < m.joined then fitOf dst t r room
    else if room < m.flits then ([], room, true)
    else let x := fitOf dst t r (room - m.flits); (m :: x.1, x.2)

/-- The POOL flits of a window from one die to another (R299, 14 R380): the summaries of the pools on both, and the takes that
it carries, four in a flit. -/
def State.poolFlits (s : State) (v w t : Nat) : Nat :=
  let on (p : Pool) (x : Nat) : Bool := p.shards.any (fun h => h.die == x)
  let sums := ((s.pools.filter (fun p => 0 < p.round && on p v && on p w)).map (fun p => (32 + 8 * p.k + 127) / 128)).sum
  min 8 (sums + ((s.takes.filter (fun f => f.src == v && f.dst == w && f.opens == t)).length + 3) / 4)

/-- The flits of a window that TREE and POOL traffic leave (R299). DESIGN CHOICE (log 56). -/
def State.windowRoom (s : State) (v w t : Nat) : Nat := 90 - Config.treeFlits s.fresh % 3 - s.poolFlits v w t

/-- The advertisements of every die for a window, fixed before the windows change the buffers (R300). -/
def State.advertise (s : State) (t : Nat) : State :=
  { s with dies := s.dies.map (fun d => if d.advert.1 = t + 1 then d else { d with advert := (t + 1, d.relayFree) }) }

/-- A message is accepted at the port of its destination die (R299, R301). -/
def State.omcDeliver (s : State) (relay : Nat) (t : Nat) (m : OmcMsg) : State :=
  let done := t + 115 * Config.nsTicks
  let acked (s : State) : State :=
    if m.relayed then { s with relayAcks := s.relayAcks ++ [⟨relay, m.key, done⟩] } else s
  match m.body with
  | .reply id =>
    let come (r : ReplyFly) : ReplyFly := { r with crossed := some done, via := if m.relayed then some relay else none }
    { acked s with replies := updateFirst (fun r => r.id == id) come s.replies }
  | .block b => s.blockArrives { b with relay := if m.relayed then some relay else none } done
  | .access ch id =>
    let s := acked s
    s.setChan ch ((s.chan ch).map (fun x => if x.id = id then { x with trail := x.trail.crossed done } else x))
  | .value id => { acked s with rets := updateFirst (fun r => r.id == id) (fun r => { r with trail := r.trail.crossed done }) s.rets }
  | .ack k hold =>
    { acked s with msgAcks := updateFirst (fun a => a.key.is k && a.hold == hold) (fun a => { a with trail := a.trail.crossed done }) s.msgAcks }
  | .fill v key =>
    (acked s).modDie v (fun d => { d with fills := updateFirst (fun f => f.key == key) (fun f => { f with trail := f.trail.crossed done }) d.fills })

/-- The direct slot of two physical dies is in a step. -/
def directStep (a b step : Nat) : Bool := Nat.xor a b / 4 == step

/-- Record a step of a reply in the pool trace (R462). -/
def State.traceReply (s : State) (id : Nat) (die : ReplyFly → Nat) (w : PoolWhat) : State :=
  match s.replies.find? (fun r => r.id == id) with
  | some r => s.tracePool r.take.pool (die r) w r.elem.key r.elem.payload
  | none => s

/-- The probes of OFENCEs that travel in a window: those behind whose messages nothing waits in the queue (R312). -/
def State.probesGo (s : State) (v w : Nat) : State :=
  let stuck (p : OProbe) : Bool := ((s.die? v).map (fun d => d.sendq.any (fun m => m.dst == w && m.key.who.g == p.who.g && m.key.owner == p.owner && m.key.seq ≤ p.seq))).getD false
  { s with oprobes := s.oprobes.map (fun p => if p.src == v && p.dst == w && !stuck p then { p with sent := true } else p) }

/-- Steps 1 to 4 of R299 for a plane's window that opens at `t`: the partner and the room that they leave; none where the slot
stays idle (R298, R302). -/
def State.sendPlane (s : State) (v t plane : Nat) : State × Option (Nat × Nat) :=
  match s.die? v with
  | none => (s, none)
  | some d =>
    let partner := if d.plup / 2 ^ plane % 2 = 0 then none else partnerOf d.phys (t / Config.omcStepTicks % 32) plane
    match partner.bind (fun q => s.dies.find? (fun x => x.phys == q && x.live)) with
    | none => (s, none)
    | some i =>
      let a := fitOf i.v t d.relay (s.windowRoom v i.v t)
      let b := if a.2.2 then ([], a.2) else fitOf i.v t d.sendq a.2.1
      let s := s.modDie v (fun d =>
        { d with relay := d.relay.filter (fun x => !a.1.any (fun y => y.key == x.key))
                 sendq := d.sendq.filter (fun x => !b.1.any (fun y => y.key == x.key)) })
      let s := (a.1 ++ b.1).foldl (fun (s : State) m => s.omcDeliver v t m) s
      ({ s with fresh := s.fresh + 1 }.probesGo v i.v, some (i.v, b.2.1))

/-- Step 5 of R299 (R300): each message that may relay, in queue order, goes to the partner of the first plane, lowest number
first, that has room for it and has advertised enough. A room is a die, the flits left and the plane. -/
def State.relays (s : State) (v phys step t : Nat) : List OmcMsg → List (Nat × Nat × Nat) → State
  | [], _ => s
  | m :: r, rooms =>
    let dphys := ((s.die? m.dst).map (·.phys)).getD m.dst
    let takes (x : Nat × Nat × Nat) : Bool := m.flits ≤ x.2.1 && x.1 != m.dst
      && m.flits * 128 + 65536 ≤ (((s.die? x.1).map (fun i => i.advert.2)).getD 0) * 1024
    match (if !m.ordered && !m.relayed && m.joined ≤ t && !directStep phys dphys step then rooms.find? takes else none) with
    | none => s.relays v phys step t r rooms
    | some x =>
      let s := s.modDie v (fun d => { d with sendq := d.sendq.filter (fun y => y.key != m.key) })
      let s := s.modDie x.1 (fun i => { i with relay := i.relay ++ [{ m with relayed := true, joined := t + 115 * Config.nsTicks }] })
      let s := match m.body with
        | .reply id => s.traceReply id (fun r => r.server) (.relay x.1 x.2.2)
        | _ => s
      s.relays v phys step t r (updateFirst (fun y => y.1 == x.1) (fun y => (y.1, y.2.1 - m.flits, y.2.2)) rooms)

/-- OMC_WINDOW (R298 to R302): the next window of a die's plane opens, and with it those of the planes that it has not composed
for that time. Each is composed at its opening: first steps 1 to 4 of every plane, then the relays, lowest plane first. -/
def execOmcWindow (die plane : Nat) (s : State) : Out :=
  .next <|
    match s.die? die with
    | none => s
    | some d =>
      if s.dev.stage < 3 || 4 ≤ plane || !d.live then s
      else
        let t := d.nextWindow plane s.now
        let planes := (List.range 4).filter (fun p => d.nextWindow p s.now ≤ t)
        let s := ({ s with now := t }.modDie die (fun d =>
          { d with windows := planes.foldl (fun w p => insertKey w p t) d.windows })).advertise t
        let r := planes.foldl (fun (a : State × List (Nat × Nat × Nat)) p =>
          let x := a.1.sendPlane die t p
          (x.1, a.2 ++ x.2.toList.map (fun y => (y.1, y.2, p)))) (s, [])
        match r.1.die? die with
        | some d => r.1.relays die d.phys (t / Config.omcStepTicks % 32) t d.sendq r.2
        | none => r.1

/-- The first opening of the direct slot of two physical dies after a time. -/
def directAfter (a b t : Nat) : Nat :=
  let off := Nat.xor a b / 4 * Config.omcStepTicks
  let cyc := t / Config.omcCycleTicks * Config.omcCycleTicks + off
  if t < cyc then cyc else cyc + Config.omcCycleTicks

/-- RELAY_ACK (R301): in the relay die's next direct slot with the source. -/
def execRelayAck (k : Nat) (s : State) : Out :=
  .next <|
    match s.relayAcks[k]? with
    | none => s
    | some a =>
      let phys (v : Nat) : Nat := ((s.die? v).map (·.phys)).getD v
      let src := ((s.group? a.key.who.g).map Group.die).getD 0
      let t := directAfter (phys a.relay) (phys src) a.at_
      ({ s with now := max s.now t, relayAcks := s.relayAcks.eraseIdx k }).acked { key := a.key }

end Sys2Proof.Machine
end

