-- ==== Sys2Proof/Machine/Reactive.lean ====
section
/-! DEFINITION. Class 0xB, reactive instructions, the waves of the combining tree and the instant boundary (12 R313 to
R338). -/

namespace Sys2Proof.Machine

/-! ### Signal tests (R319, R320) -/

/-- What a test of a signal finds at a group's tile: present, absent, or undecided. -/
def Group.test (g : Group) (now : Nat) (s : Sig) : Option Bool :=
  if g.present.getLsbD s.toNat || g.emits.any (fun e => e.2.1 == s && e.1 ≤ now) then some true
  else if g.absentS.getLsbD s.toNat then some false
  else none

/-- An EMIT.REL of a signal has reached the tile (R243). -/
def Group.relHere (g : Group) (now : Nat) (s : Sig) : Bool :=
  g.relSeen.getLsbD s.toNat || g.emits.any (fun e => e.2.1 == s && e.2.2 && e.1 ≤ now)

/-- A strand counts as active (R314). -/
def Strand.active (t : Strand) : Bool :=
  !t.excused && (match t.run with | .idle | .paused _ => false | _ => true)

/-- The strand is parked on a signal test: the signal tested. -/
def Strand.testing (t : Strand) : Option Sig := match t.run with | .parked (.signal s _) => some s | _ => none
/-- The strand is parked at RBAR. -/
def Strand.atRbar (t : Strand) : Bool := match t.run with | .parked .rbar => true | _ => false

/-! ### Watches (R325) -/

/-- The strand pauses: no can-emit bits, and its watchdog count is cleared. -/
def Strand.pause (t : Strand) : Strand :=
  { t with run := .paused t.awaitSig, canemit := 0, wdcount := 0, wdFrom := none }

/-- Act(k): the entry and those inside it go, and the strand runs from the handler. -/
def Strand.act (t : Strand) (k : Fin 4) : Strand :=
  { t with wdepth := k.val, fcap := (t.watch[k]).handler, run := .ready, whNext := true, prog := .none, awaitSig := none, poolFault := none
           consumed := false, again := none }

/-- What R325 leaves: the strand resumes; an AWAIT tests its signal. -/
def Strand.resumePaused (t : Strand) (test : Sig → Option Bool) : Strand :=
  match t.awaitSig with
  | none => { t with run := .ready }
  | some s =>
    match test s with
    | some true => { t with run := .ready, prog := .answered 1 0 false true }
    | some false => t.pause
    | none => { t with run := .parked (.signal s none) }

/-- Evaluate the watch entries from k on, outermost first (R325). -/
def Strand.evalFrom (t : Strand) (test : Sig → Option Bool) : List (Fin 4) → Strand
  | [] => t.resumePaused test
  | k :: r =>
    let e := t.watch[k]
    if t.wdepth ≤ k.val then t.resumePaused test
    else if e.kind = 2 && e.fired then t.act k
    else if e.kind = 1 || e.kind = 3 then
      match test e.sig with
      | none => { t with run := .parked (.signal e.sig (some k)) }
      | some true => if e.kind = 1 then t.act k else t.pause
      | some false => t.evalFrom test r
    else t.evalFrom test r

/-- The entries after k. -/
def entriesAfter (k : Fin 4) : List (Fin 4) := ([0, 1, 2, 3] : List (Fin 4)).filter (fun j => k < j)

/-- The answer of a signal test: what it found, and whether a release of the signal has reached the tile (R243). -/
def Strand.signalled (t : Strand) (v rel : Bool) : Strand :=
  { t with run := .ready, prog := .answered (if v then 1 else 0) (if rel then 1 else 0) false true }

/-- A signal test of a parked strand is decided: PRESENT and AWAIT are answered, a watch test goes on. -/
def Strand.decide (t : Strand) (test : Sig → Option Bool) (rel : Sig → Bool := fun _ => false) : Strand :=
  match t.run with
  | .parked (.signal s none) =>
    match test s with
    | none => t
    | some v => if t.awaitSig.isSome && !v then t.pause else t.signalled v (rel s)
  | .parked (.signal s (some k)) =>
    match test s with
    | none => t
    | some true => if (t.watch[k]).kind = 1 then t.act k else t.pause
    | some false => t.evalFrom test (entriesAfter k)
  | _ => t

/-! ### The group barrier (13 R371) -/

/-- The strand is parked at GBAR. -/
def Strand.atGbar (t : Strand) : Bool := match t.run with | .parked .gbar => true | _ => false

/-- A completed GBAR wakes its strands, each ordered after all that completed it. -/
def Group.gbarWake (g : Group) (num : Nat) : Group :=
  let c := (g.st.toList.filter Strand.atGbar).foldl (fun (c : OrderClock) t => joinClock c (bump t.serial t.clock)) []
  g.mapSt (fun t => if t.atGbar then
    { t with run := .ready, prog := .fenced 2, clock := joinClock (bump t.serial t.clock) c, bars := t.bars ++ [num] } else t)

/-- Complete the GBAR of a group when every strand that it waits for is parked there. -/
def State.releaseGbar (s : State) (i : GroupId) : State :=
  match s.group? i with
  | none => s
  | some g =>
    let l := g.st.toList
    if l.any Strand.atGbar && l.all (fun t => !t.active || t.atGbar) then
      { s with nextId := s.nextId + 1 }.modGroup i (fun g => g.gbarWake s.nextId)
    else s

/-! ### Waking (02 R45) -/

/-- The reasons to wait that only an answer ends. -/
def Why.answered : Why → Bool
  | .rbar | .gbar | .take | .put | .rejoin | .commit | .sync | .launchCopy | .portCopy | .pinit | .join => true
  | _ => false

/-- STRAND_WAKE: a parked strand tries its instruction again; the check of R45 runs in full. A signal test wakes on an
emission of its own tile (R320). DEDUCED (log 21). -/
def execStrandWake (w : StrandId) (s : State) : Out :=
  .next <|
    match s.group? w.g with
    | none => s
    | some g =>
      let wake (t : Strand) : Strand :=
        match t.run with
        | .parked (.signal _ _) => t.decide (g.test s.now) (g.relHere s.now)
        | .parked y => if y.answered || t.stopped then t else { t with run := .ready }
        | _ => t
      (s.modStrand w wake).releaseGbar w.g

/-! ### Waves (R317 to R319) -/

/-- An OR of signal bits. -/
def sigBits (l : List Sig) : Lane := l.foldl (fun (v : Lane) s => v ||| bitAt s.toNat) 0

/-- An OR of lanes. -/
def orLanes (l : List Lane) : Lane := l.foldl (fun (a : Lane) b => a ||| b) 0

/-- A park as a wave samples it. -/
def Strand.parkSeen (t : Strand) (w : StrandId) : ParkSeen := ⟨w, t.serial, t.nextIssue, t.run⟩

/-- The strands of a group and of its join store. -/
def Group.allStrands (g : Group) : List Strand := g.st.toList ++ g.store.map (·.st)

/-- The tile of a group is excused: the tree passes over it (R317, R321). -/
def State.passedOver (s : State) (g : Group) : Bool :=
  match g.place with
  | none => false
  | some p => ((s.die? p.die).map (fun d => d.excuse.getLsbD p.tile)).getD false

/-- The summary of a group: its strands, those of its join store, the records of its deque, and a record that it has handed
over until the thief's tile holds it (R314, R317, R322). -/
def State.tileSum (s : State) (g : Group) : TileSum :=
  if s.passedOver g then { group := g.gid.num }
  else
    let ts := g.allStrands.filter Strand.active
    let recs := g.deque ++ (s.steals.filter (fun x => x.victim == g.gid)).filterMap (·.rec_)
    let at_ := ts.filter Strand.atRbar
    { group := g.gid.num
      act := ts.length + recs.length
      ce := orLanes (ts.map (·.canemit) ++ recs.map (·.cur))
      em := g.em
      blk := (ts.filter (fun t => t.atRbar || t.testing.isSome)).length
      rbn := at_.length
      tst := sigBits (ts.filterMap Strand.testing)
      rel := sigBits (g.emits.filterMap (fun e => if e.2.2 then some e.2.1 else none))
      rclock := at_.foldl (fun (c : OrderClock) t => joinClock c (bump t.serial t.clock)) []
      parks := (g.strands.filter (fun t => t.2.atRbar || t.2.testing.isSome)).map (fun t => t.2.parkSeen ⟨g.gid, t.1⟩) }

/-- Summaries combined: a sum for ACT, BLK and RBN, an OR for CE, EM and TST (R318). -/
def Wave.combine (num : Nat) (inst : Lane) (since : Nat) (waiting : List Nat) (l : List TileSum) : Wave :=
  { num := num, inst := inst, since := since, waiting := waiting
    act := (l.map (·.act)).sum
    ce := orLanes (l.map (·.ce))
    em := orLanes (l.map (·.em))
    blk := (l.map (·.blk)).sum
    rbn := (l.map (·.rbn)).sum
    tst := orLanes (l.map (·.tst))
    rel := orLanes (l.map (·.rel))
    rclock := l.foldl (fun (c : OrderClock) x => joinClock c x.rclock) []
    parks := l.flatMap (·.parks) }

/-- The groups of a launch. -/
def State.groupsOf (s : State) (n : Nat) : List Group := s.groups.filter (fun g => g.gid.launch == n)

/-- The sample of a launch at one moment: every group's summary, combined (R317, R318, R322). -/
def State.sample (s : State) (l : Launch) (num : Nat) : Wave :=
  let gs := s.groupsOf l.num
  Wave.combine num (((gs.head?).map (·.instant)).getD 0) s.now (gs.map (·.gid.num)) (gs.map s.tileSum)

/-- The sizes that PSIZE reports in a deterministic launch: those at the start of the instant (R229). -/
def State.notePools (s : State) (launch : Nat) : State :=
  let note (p : Pool) : Pool :=
    { p with startPool := (p.shards.map (fun h => h.elems.length)).sum
             shards := p.shards.map (fun h => { h with startSize := h.elems.length }) }
  { s with pools := updateWhere (fun p => p.launch == launch) note s.pools }

/-- Exact takes that a launch has recorded in an instant wait for their service (R390). -/
def State.exactWaits (s : State) (launch : Nat) (inst : Lane) : Bool :=
  s.pools.any (fun p => p.exact.any (fun x => x.who.g.launch == launch && x.instant == inst))

/-- Decided absent: in neither EM nor CE (R319). -/
def Wave.absent (w : Wave) : Lane := ~~~(w.em ||| w.ce)
/-- The wave finds a causality cycle (R323). -/
def Wave.cycle (w : Wave) : Bool :=
  0 < w.act && w.blk == w.act && w.rbn < w.act && (w.tst &&& (w.em ||| w.absent)) == 0

/-- A park that a wave has counted still stands (R318, R337): the release before may have ended it. DEDUCED (log 23). -/
def Wave.counts (w : Wave) (t : Strand) (who : StrandId) : Bool := w.parks.contains (t.parkSeen who)

/-- A wave decides something that no wave of the instant has decided (R319). -/
def State.decides (s : State) (n : Nat) (w : Wave) : Bool :=
  let here (g : Group) : Bool := (w.em &&& ~~~g.present) != 0 || (w.absent &&& ~~~g.absentS) != 0
  let stands (p : ParkSeen) : Bool := ((s.strand? p.who).map (fun t => t.parkSeen p.who == p)).getD false
  w.act == 0 || (s.groupsOf n).any here || ((w.rbn == w.act || w.cycle) && w.parks.any stands)

/-- The band of the tree that serves a launch's reaction (R313). -/
def State.bandOf (s : State) (l : Launch) : Nat :=
  if l.groups = 1 then 0
  else match s.reactionScope l with
    | .tile | .die => 1
    | .region => 2
    | _ => 3

/-- The slowest clock step of the tiles of a launch's groups (R452). -/
def State.slowest (s : State) (n : Nat) : Nat :=
  (s.groupsOf n).foldl (fun m g => match g.place with | none => m | some p => max m (s.stepOf p.die p.tile)) 0

/-- The latency of a wave and the release skew of a band at step 0, in ticks (R24). -/
def bandBounds : Nat → Nat × Nat
  | 0 => (4 * Config.cycleTicks, 0)
  | 1 => (96 * Config.cycleTicks, 12 * Config.cycleTicks)
  | 2 => (280 * Config.nsTicks, 40 * Config.nsTicks)
  | _ => (720 * Config.nsTicks, 120 * Config.nsTicks)

/-- The bounds of a launch's band, widened where its slowest tile is throttled (R24, R452). -/
def State.bounds (s : State) (l : Launch) : Nat × Nat :=
  let b := bandBounds l.band
  let k := min 15 (s.slowest l.num)
  (b.1 * 16 / (16 - k), b.2 * 16 / (16 - k))

/-- By when a wave's releases have reached every tile: its latency after its first sample, and its skew after its first
release (R24, R318). DEDUCED (log 23). -/
def State.waveDue (s : State) (l : Launch) (w : Wave) : Nat :=
  let b := s.bounds l
  match w.first with
  | none => w.since + b.1
  | some t => min (w.since + b.1) (t + b.2)

/-- WAVE_SAMPLE (R318): a wave of which no release is under way is sampled, as the release of one that has decided nothing
reaches every tile. DEDUCED (log 23). -/
def execWaveSample (launch : Nat) (s : State) : Out :=
  .next <|
    match s.launch? launch with
    | none => s
    | some l =>
      if l.wave.isSome || !l.started || l.status.isSome then s
      else
        let w := s.sample l s.nextId
        let s := if w.act = 0 then s.notePools launch else s
        { s with nextId := s.nextId + 1 }.modLaunch launch (fun x => { x with wave := some w, sampled := s.now })

/-- The period of a wave never exceeds its band's latency (R318): one that is due by a time is sampled, and where it decides
something its release is under way. -/
def State.sampleBy (s : State) (launch t : Nat) : State :=
  match s.launch? launch with
  | none => s
  | some l =>
    if l.wave.isSome || !l.started || l.status.isSome || t < l.sampled + (s.bounds l).1 then s
    else if s.decides launch (s.sample l 0) then (match execWaveSample launch s with | .next u => u | _ => s)
    else s.modLaunch launch (fun x => { x with sampled := t })

/-- The detail of a CAUSALITY trap (R323). -/
def Strand.cycleDetail (t : Strand) : Nat :=
  match t.run with
  | .parked (.signal _ (some k)) => 0x10 + k.val
  | _ => if t.awaitSig.isSome then 0x01 else 0x00

/-- A strand that a wave has counted on a signal test traps CAUSALITY; one whose group is not resident, when it is again (R323).
WH is set for a watch test, and where the test is the first instruction of a handler (R325). -/
def State.cycleTrap (s : State) (wv : Wave) (w : StrandId) : State :=
  match s.strand? w with
  | none => s
  | some t =>
    match t.run with
    | .parked (.signal sig e) =>
      if t.excused || !wv.counts t w then s
      else
        let x : Trap := ⟨.causality, 0, t.cycleDetail, BitVec.ofNat 64 sig.toNat⟩
        let wh := t.whNext || e.isSome
        if ((s.group? w.g).map (fun g => g.state == .resident || g.state == .swapping)).getD false then
          (s.modStrand w (fun t => { t with whNext := wh })).trapStrand w x
        else s.modStrand w (fun t => { t with run := .ready, prog := .none, again := none, awaitSig := none, cycleDue := some (x, wh) })
    | _ => s

/-- RBAR release (R319, R337): a strand parked at RBAR, and counted there, wakes, ordered after all that completed it. -/
def Strand.rbarWake (t : Strand) (wv : Wave) (w : StrandId) : Strand :=
  if t.atRbar && wv.counts t w then
    { t with run := .ready, prog := .fenced 2, clock := joinClock (bump t.serial t.clock) wv.rclock, bars := t.bars ++ [wv.num] }
  else t

/-- A strand's acquire at the start of an instant (R243, R324): its loads have returned; a new fill epoch. -/
def State.instantAcquire (s : State) (w : StrandId) (sc : Scope) : State :=
  let mine := s.rets.filter (fun r => r.who.g == w.g && r.owner == s.serialOf w)
  let s := mine.foldl (fun (s : State) r =>
    match s.rets.findIdx? (fun x => x.id == r.id) with
    | some k => s.returnOne k
    | none => s) s
  if 2 ≤ scopeWide sc then s.atStrand w State.newEpoch else s

/-- The watch marks of a strand at a boundary (R324 step 2). -/
def Strand.markWatches (t : Strand) (em : Lane) : Strand :=
  if t.excused then t
  else { t with watch := Vector.ofFn (fun (k : Fin 4) =>
    let e := t.watch[k]
    if t.wdepth ≤ k.val then e
    else { e with fired := e.fired || (e.kind == 2 && e.armed && em.getLsbD e.sig.toNat), armed := true }) }

/-- A strand at the start of an instant, up to its evaluation (R324 step 4, R328, R338). An excused strand that tests a signal is
answered by what is present on its tile with the ending wave's decision, and an undecided signal is absent; its AWAIT tests
again from instant to instant. -/
def Strand.startInstant (t : Strand) (there rel : Sig → Bool) : Strand :=
  let t := { t with bars := [] }
  match t.run with
  | .paused _ =>
    if t.excused then
      (match t.awaitSig with
        | none => { t with run := .ready }
        | some s => { t with run := .parked (.signal s none) })
    else { t with canemit := t.canrld, run := .ready, prog := .starting }
  | .parked .rejoin =>
    { t with run := .ready, excused := false, rejoin := false, canemit := t.canrld, prog := .fenced 2 }
  | .parked (.signal s none) =>
    if !t.excused then t
    else if there s then t.signalled true (rel s)
    else if t.awaitSig.isSome then t else t.signalled false false
  | _ => t

/-- The evaluation that follows (R325): a strand in K passes over its watches. -/
def Strand.evaluate (t : Strand) : Strand :=
  match t.prog with
  | .starting =>
    let t := { t with prog := .none }
    if t.kernel then t.resumePaused (fun _ => none) else t.evalFrom (fun _ => none) [0, 1, 2, 3]
  | _ => t

/-- A group stands on a tile. -/
def Group.on (g : Group) (die tile : Nat) : Bool :=
  g.place == some ⟨die, tile⟩ && (g.state == .resident || g.state == .swapping)
/-- Release a group's held strands (13 R357). -/
def Group.unhold (g : Group) : Group := g.mapSt (fun t => { t with held := false })
/-- Change the groups on the two tiles of a pair. -/
def State.onPair (s : State) (die : Nat) (q : Pair) (f : Group → Group) : State :=
  s.mapGroups (fun g => if g.on die q.hot || g.on die q.cool then f g else g)
/-- A pair ends. -/
def State.endPair (s : State) (die k : Nat) : State := s.modDie die (fun d => { d with pairs := d.pairs.filter (fun q => q.num != k) })
/-- A request ends the pair of a group in HOLD without a clock step (13 R357, 15 R403). -/
def State.endHold (s : State) (g : Group) : State :=
  match g.place with
  | none => s
  | some p =>
    match (s.die? p.die).bind (fun d => d.pairs.find? (fun q => q.state == .hold && (q.hot == p.tile || q.cool == p.tile))) with
    | none => s
    | some q => (s.onPair p.die q Group.unhold).endPair p.die q.num

/-- Halt a group for the debugger (15 R413): its watchdog counts and its message timers stand. -/
def Group.halt (g : Group) (now cyc : Nat) : Group :=
  let stand (t : Strand) : Strand :=
    { t with
      wdcount := t.count now cyc, wdFrom := none
      outstanding := t.outstanding.map (fun o =>
        { o with counted := o.counted + (o.since.map (fun f => (now - f) / cyc)).getD 0, since := none }) }
  if g.dhalt then g else { g.mapSt stand with dhalt := true }
/-- The debugger's halt of a named group; its pair in HOLD ends (13 R357). -/
def State.halt (s : State) (i : GroupId) : State :=
  let s := match s.group? i with | some g => s.endHold g | none => s
  s.modGroup i (fun g => g.halt s.now ({ s with g := g }).cyc)

/-! ### When a recovery point is due (15 R418, R419) -/

/-- A point falls due at the end of the instant that a wave ends, before the start of the next at any group. A launch has points
or not from its queueing on, whatever EN says later (R417). -/
def State.pointDue (s : State) (l : Launch) (w : Wave) : Bool :=
  l.recov && w.act == 0
    && (l.ckpt || l.undoFull || l.dies.any (fun v =>
          let r := s.region (s.regionOf v)
          decide (0 < r.rpEvery) && w.inst.toNat % r.rpEvery == 0))
    && (s.groups.filter (fun g => g.gid.launch == l.num)).all (fun g => w.waiting.contains g.gid.num)
    && !(s.points.any (fun p => p.launch == l.num && p.num == l.points && p.instant == w.inst + 1))

/-- An instant stop of the debugger meets a group of its launch (R458). -/
def State.instantStop (s : State) (g : GroupId) (n : Lane) : Bool :=
  s.dbg.launch == some g.launch && s.dbg.istop == some n.toNat

/-- The instant boundary at a group (R324). -/
def State.boundary (s : State) (g : GroupId) (em rels : Lane) (sc : Scope) : State :=
  let old := s.group? g
  let there (x : Sig) : Bool := em.getLsbD x.toNat || ((old.map (fun o => o.test s.now x == some true)).getD false)
  let rel (x : Sig) : Bool := rels.getLsbD x.toNat || ((old.map (fun o => o.relHere s.now x)).getD false)
  let s := s.modGroup g (fun x =>
    { x.mapSt (fun t => t.markWatches em) with
      prevEm := em, instant := x.instant + 1, em := 0, emits := [], present := 0, absentS := 0, relSeen := 0, goneBars := []
      deque := x.deque.map (fun r => { r with cur := r.rld }) })
  let s := slots.foldl (fun (s : State) k =>
    let w : StrandId := ⟨g, k⟩
    let paused := match (s.strand? w).map (·.run) with | some (.paused _) => true | _ => false
    let s := if paused then s.instantAcquire w sc else s
    s.modStrand w (fun t => t.startInstant there rel)) s
  if s.instantStop g (((s.group? g).map (·.instant)).getD 0) then s.halt g
  else s.modGroup g (fun x => x.mapSt Strand.evaluate)

/-- Record an RBAR release at a group's tile in a wave trace (R465): releases are numbered from 1 as they are decided. -/
def State.traceRelease (s : State) (wave : Nat) (g : GroupId) : State :=
  if s.dbg.launch != some g.launch then s
  else
    let s := if s.dbg.releases.contains wave then s else { s with dbg := { s.dbg with releases := s.dbg.releases ++ [wave] } }
    s.traceWave (.release s.now (s.dbg.releases.findIdx (· == wave) + 1) g)

/-- A wave's release at a group's tile: the tile is sampled for the next wave, before the release has any effect (R318). -/
def Wave.reached (w : Wave) (x : TileSum) (now : Nat) : Wave :=
  { w with waiting := w.waiting.filter (· != x.group), first := some (w.first.getD now), next := w.next ++ [x] }

/-- The wave that follows one whose releases have reached every tile: a sample of an instant that has ended decides nothing, and
one that adds nothing shows nowhere (R318). DEDUCED (log 23). -/
def State.following (s : State) (l : Launch) (w : Wave) : Option Wave :=
  let n := Wave.combine s.nextId w.inst (w.first.getD s.now) ((s.groupsOf l.num).map (·.gid.num)) w.next
  if w.act != 0 && s.decides l.num n then some n else none

/-- What a wave decides, at a group's tile (R319). -/
def State.released (s : State) (l : Launch) (w : Wave) (g : GroupId) : State :=
  if w.act = 0 then (s.boundary g w.em w.rel (s.reactionScope l)).releaseGbar g
  else
    let s := s.modGroup g (fun x =>
      { x with present := x.present ||| w.em, absentS := x.absentS ||| w.absent, relSeen := x.relSeen ||| w.rel })
    let s := (s.modGroup g (fun x => x.mapSt (fun t => t.decide (x.test s.now) (x.relHere s.now)))).releaseGbar g
    let s := if w.rbn = w.act then
        slots.foldl (fun (s : State) k => s.modStrand ⟨g, k⟩ (fun t => t.rbarWake w ⟨g, k⟩)) (s.traceRelease w.num g)
      else s
    if w.cycle then slots.foldl (fun (s : State) k => s.cycleTrap w ⟨g, k⟩) s else s

/-- Accesses recorded in an instant that has ended everywhere conflict with no later one (R228). -/
def Launch.forget (l : Launch) (inst : Lane) : Launch := { l with recs := l.recs.filter (fun r => inst.toNat < r.word.2.2) }

/-- WAVE_RELEASE (R318, R319): the wave's decision reaches a group's tile. DEDUCED (log 23). -/
def execWaveRelease (g : GroupId) (s : State) : Out :=
  .next <|
    match s.launch? g.launch, s.group? g with
    | some l, some x =>
      match l.wave with
      | none => s
      | some w =>
        if !w.waiting.contains g.num || (w.act == 0 && s.exactWaits l.num w.inst) || s.pointDue l w then s
        else
          let v := w.reached (s.tileSum x) s.now
          let s := (s.modLaunch l.num (fun x => { x with wave := some v })).released l w g
          if !v.waiting.isEmpty then s
          else
            let next := s.following l v
            let s := if (next.map (·.act)) == some 0 then s.notePools l.num else s
            { s with nextId := s.nextId + 1 }.modLaunch l.num (fun x =>
              { (if w.act = 0 then x.forget w.inst else x) with wave := next, sampled := v.first.getD s.now })
    | _, _ => s

/-- The release of a wave that is due at a group by a time has reached it, at the bound (R24). -/
def State.releaseBy (s : State) (g : GroupId) (t : Nat) : State :=
  match s.launch? g.launch with
  | none => s
  | some l =>
    match l.wave with
    | none => s
    | some w =>
      let due := s.waveDue l w
      if t < due || !w.waiting.contains g.num then s
      else match execWaveRelease g { s with now := min s.now due } with
        | .next u => { u with now := s.now }
        | _ => s

/-! ### The instructions -/

/-- The strand is in the part of its instruction that follows the wait: its acquire. -/
def Strand.woken (t : Strand) : Bool :=
  match t.prog with
  | .fenced j => 2 ≤ j
  | .probing _ .acq _ _ | .writingBack _ .acq _ _ => true
  | _ => false

/-- FENCE.REL at the reaction scope, then go on (R243); its park is a yield point but at EMIT (R329). -/
def State.reactRel (s : State) (k : State → Res) (w : Why := .yieldFence) : Res :=
  let r := s.fenceRun s.myScope .rel s.st.tmask 0
  if r.1 then k r.2 else .park w r.2
/-- FENCE.ACQ at the reaction scope, as the instruction's second fence, then go on; its park is a yield point (R329). -/
def State.reactAcq (s : State) (k : State → Res) : Res :=
  let s := if s.st.woken then s else s.modSt (fun t => { t with prog := .fenced 2 })
  let r := s.fenceRun s.myScope .acq s.st.tmask 2
  if r.1 then k r.2 else .park .yieldFence r.2

/-- PAUSE (R330). -/
def execPause (h : Head) (s : State) : Out :=
  .next (s.issue h {} [] [] (fun _ s =>
    s.reactRel (fun s => .raw ((s.modSt (fun t => ({ t.step12 with awaitSig := none }).pause)).releaseGbar s.g.gid))))

/-- EMIT (R331). -/
def execEmit (h : Head) (rel : Bool) (sig : Sig) (s : State) : Out :=
  .next (s.issue h {} [] [] (fun _ s =>
    if !s.st.canemit.getLsbD sig.toNat then .trap ⟨.undeclared, 0, 0, BitVec.ofNat 64 sig.toNat⟩
    else
      let put (s : State) : State := s.modG (fun g =>
        { g with em := g.em ||| bitAt sig.toNat
                 emits := if g.emits.any (fun e => e.2.1 == sig && (e.2.2 || !rel)) then g.emits
                          else g.emits ++ [(s.now + 4 * s.cyc, sig, rel)] })
      if rel then s.reactRel (fun s => .ok (put s)) .fence else .ok (put s)))

/-- PRESENT (R332). -/
def execPresent (h : Head) (p : Pred) (sig : Sig) (s : State) : Out :=
  .next (s.issue h {} [] [] (fun _ s =>
    let yes (s : State) : Res := .ok (s.writePred p true)
    let acq (s : State) : Res := if s.g.relHere s.now sig then s.reactAcq yes else yes s
    if s.st.woken then s.reactAcq yes
    else
      match s.st.prog with
      | .answered v r _ _ => if v = 0 then .ok (s.writePred p false) else if r = 1 then s.reactAcq yes else acq s
      | _ =>
        match s.g.test s.now sig with
        | some true => acq s
        | some false => .ok (s.writePred p false)
        | none => .park (.signal sig none) s))

/-- PREV (R332). -/
def execPrev (h : Head) (p : Pred) (sig : Sig) (s : State) : Out :=
  .next (s.issue h {} [] [] (fun _ s => .ok (s.writePred p (s.g.prevEm.getLsbD sig.toNat))))

/-- The code of a watch kind (R326). -/
def WKind.code : WKind → BitVec 2
  | .strong => 1 | .weak => 2 | .suspend => 3

/-- WATCH (R334). -/
def execWatch (h : Head) (k : WKind) (sig : Sig) (off : BitVec 32) (s : State) : Out :=
  .next (s.issue h { ill := fun s => if 4 ≤ s.st.wdepth then some 0x0D else none } [] [] (fun _ s =>
    .ok (s.modSt (fun t =>
      let handler : CapReg := ⟨capWithOffset t.fcap.v (capOffset t.fcap.v + 12 * off.toInt), t.fcap.tag⟩
      let d := Fin.ofNat 4 t.wdepth
      { t with wdepth := t.wdepth + 1
               watch := t.watch.set d.val { kind := WKind.code k, sig := sig, handler := handler } d.isLt }))))
/-- UNWATCH (R334). -/
def execUnwatch (h : Head) (s : State) : Out :=
  .next (s.issue h { ill := fun s => if s.st.wdepth = 0 then some 0x0E else none } [] [] (fun _ s =>
    .ok (s.modSt (fun t =>
      let d := Fin.ofNat 4 (t.wdepth - 1)
      { t with wdepth := t.wdepth - 1, watch := t.watch.set d.val { handler := (t.watch[d]).handler } d.isLt }))))

/-- CANEMIT (R335). -/
def execCanemit (h : Head) (d : Reg) (a : Src) (s : State) : Out :=
  .next (s.issue h {} [sop a] [d] (fun l s =>
    let m := lane0 (opv l 0)
    let old := s.st.canrld
    .ok ((s.modSt (fun t => { t with canrld := m, canemit := t.canemit &&& m })).writeReg d (quad2 old 0))))
/-- DISCLAIM (R335). -/
def execDisclaim (h : Head) (a : Src) (s : State) : Out :=
  .next (s.issue h {} [sop a] [] (fun l s =>
    .ok (s.modSt (fun t => { t with canemit := t.canemit &&& ~~~(lane0 (opv l 0)) }))))
/-- INSTANT (R336). -/
def execInstant (h : Head) (d : Reg) (s : State) : Out :=
  .next (s.issue h {} [] [d] (fun _ s => .ok (s.writeReg d (quad2 s.g.instant 0))))
/-- RBAR (R337). -/
def execRbar (h : Head) (s : State) : Out :=
  .next (s.issue h {} [] [] (fun _ s =>
    if s.st.woken then s.reactAcq (fun s => .ok s)
    else s.reactRel (fun s => .park .rbar (s.traceWave (.atRbar s.now s.g.gid)))))

/-- REXCUSE.ON (R338). -/
def execRexcuseOn (h : Head) (d : Reg) (s : State) : Out :=
  .next (s.issue h { konly := true } [] [d] (fun _ s =>
    let s := if s.st.excused then s else s.modSt (fun t => { t with excused := true, canemit := 0 })
    let s := s.releaseGbar s.g.gid
    .ok (s.writeReg d (quad2 s.g.instant 0))))
/-- REXCUSE.OFF (R338). -/
def execRexcuseOff (h : Head) (d : Reg) (s : State) : Out :=
  .next (s.issue h { konly := true } [] [d] (fun _ s =>
    if s.st.woken then s.reactAcq (fun s => .ok (s.writeReg d (quad2 s.g.instant 0)))
    else if !s.st.excused then .ok (s.writeReg d (quad2 s.g.instant 0))
    else .park .rejoin (s.modSt (fun t => { t with rejoin := true }))))

/-- AWAIT (R333): as PAUSE, at the AWAIT; once its signal is present the strand goes on. -/
def execAwait (h : Head) (sig : Sig) (s : State) : Out :=
  .next (s.issue h {} [] [] (fun _ s =>
    let go (s : State) : Res := .ok (s.modSt (fun t => { t with awaitSig := none }))
    let fresh : Res := s.reactRel (fun s => .raw ((s.modSt (fun t =>
      ({ t with awaitSig := some sig, prog := .none, consumed := false, whNext := false }).pause)).releaseGbar s.g.gid))
    if s.st.woken then s.reactAcq go
    else
      match s.st.prog with
      | .answered _ r _ _ => if r = 1 || s.g.relHere s.now sig then s.reactAcq go else go s
      | _ => fresh))

/-! ### The reactive CSRs (R316, R326 to R328) -/

/-- WATCHST (R326). -/
def Strand.watchst (t : Strand) : Lane :=
  let entry (k : Nat) : Nat :=
    let e := t.watch.toList.getD k {}
    ((if e.armed then 2 ^ 9 else 0) + (if e.fired then 2 ^ 8 else 0) + e.sig.toNat * 4 + e.kind.toNat) * 2 ^ (12 * k)
  BitVec.ofNat 64 (entry 0 + entry 1 + entry 2 + entry 3 + t.wdepth * 2 ^ 48)

/-- A K write of WATCHST: DEPTH above 4 stores 4; the handlers stay (R326, R327). -/
def Strand.setWatchst (t : Strand) (v : Lane) : Strand :=
  { t with
    wdepth := min 4 (v.extractLsb' 48 3).toNat
    watch := Vector.ofFn (fun (k : Fin 4) =>
      let b := 12 * k.val
      { kind := v.extractLsb' b 2, sig := v.extractLsb' (b + 2) 6, fired := v.getLsbD (b + 8), armed := v.getLsbD (b + 9)
        handler := (t.watch[k]).handler }) }

/-- EXCST (R328). -/
def Strand.excst (t : Strand) : Lane := (if t.rejoin then 2 else 0) ||| (if t.excused then 1 else 0)

end Sys2Proof.Machine
end

