-- ==== Sys2Proof/Machine/Pool.lean ====
section
/-! DEFINITION. Class 0xD, the Sett: pools, the exchange of summaries, takes, leases and exact takes (14 R372 to R395). -/

namespace Sys2Proof.Machine

/-! ### Order -/

/-- The least element of a list. -/
def leastBy {α : Type} (lt : α → α → Bool) : List α → Option α
  | [] => none
  | a :: r => match leastBy lt r with | none => some a | some b => if lt b a then some b else some a

/-- Insert into a rising list. -/
def insertKeyIn (k : Lane) : List Lane → List Lane
  | [] => [k]
  | a :: r => if k ≤ a then k :: a :: r else a :: insertKeyIn k r
/-- Keys in rising order. -/
def sortKeys (l : List Lane) : List Lane := l.foldr insertKeyIn []

/-- The pool's order of elements: key, then sequence (R382). -/
def Elem.before (a b : Elem) : Bool := a.key < b.key || (a.key == b.key && a.seq < b.seq)
/-- The order of aged elements: applied round, key, sequence (R382). -/
def Elem.elder (a b : Elem) : Bool := a.round < b.round || (a.round == b.round && a.before b)

/-! ### Pools and shards -/

/-- A pool. -/
def State.pool? (s : State) (n : Nat) : Option Pool := s.pools.find? (fun p => p.num == n)
/-- The shard on a die. -/
def Pool.shard? (p : Pool) (v : Nat) : Option Shard := p.shards.find? (fun h => h.die == v)
/-- A shard of a pool. -/
def State.shard? (s : State) (n v : Nat) : Option Shard := (s.pool? n).bind (fun p => p.shard? v)

/-- The handle of a pool (R375). -/
def poolHandle (n : Nat) : Quad := mkCap 0b10000011 6 0 1 0 (2 ^ 40 + n)

/-- The trap of a pool instruction: TRAPVAL is A (R376, R377). -/
def poolTrap (c : Cause) (d : Nat) (x : RegCell) : Trap := ⟨c, 0, d, lane0 x⟩

/-- The checks of a handle (R376): the pool, with a shard on the strand's die. -/
def State.onPool (s : State) (x : RegCell) (ld st : Bool) (k : Pool → Shard → Res) : Res :=
  let q := x.v
  let cur := capCursor q
  if !x.tag then .trap (poolTrap .captag 0x01 x)
  else if 7 ≤ capSpace q then .trap (poolTrap .captag 0x02 x)
  else if capSpace q != 6 then .trap (poolTrap .capperm 0x04 x)
  else if ld && !capLD q then .trap (poolTrap .capperm 0x01 x)
  else if st && !capST q then .trap (poolTrap .capperm 0x02 x)
  else
    match (if cur / 2 ^ 16 = 2 ^ 24 then s.pool? (cur % 2 ^ 16) else none) with
    | none => .trap (poolTrap .pool 0x01 x)
    | some p =>
      match (if p.tenant = s.myTenant then p.shard? s.g.die else none) with
      | none => .trap (poolTrap .pool 0x01 x)
      | some h => k p h

/-- The physical number of a die. -/
def State.physOf (s : State) (v : Nat) : Nat := ((s.die? v).map (·.phys)).getD v
/-- A die is in the live set. -/
def State.liveDie (s : State) (v : Nat) : Bool := ((s.die? v).map (·.live)).getD false
/-- The pools with a shard on a die. -/
def State.poolsOn (s : State) (v : Nat) : List Pool := s.pools.filter (fun p => (p.shard? v).isSome)
/-- Flits of a pool's summary (R380); a pool of one shard sends none (R378). -/
def summaryFlits (n k : Nat) : Nat := if n ≤ 1 then 0 else (32 + 8 * k + 127) / 128
/-- Flits of a pool. -/
def Pool.flits (p : Pool) : Nat := summaryFlits p.shards.length p.k

/-- Elements of a die's SRAM store in use (R372). -/
def State.sramUsed (s : State) (v : Nat) : Nat :=
  ((s.poolsOn v).map (fun p => ((p.shard? v).map (fun h => (h.elems.filter (fun e => !e.spilled)).length)).getD 0)).sum
/-- Elements of a shard that lie in its part of the spill area. -/
def Shard.spillUsed (h : Shard) : Nat := (h.elems.filter (·.spilled)).length
/-- Neither the store nor the shard's part has room (R393). -/
def State.poolFull (s : State) (h : Shard) : Bool := 65536 ≤ s.sramUsed h.die && h.spillLen ≤ h.spillUsed

/-- The interval and last snapshot of a pool. -/
def Pool.last (p : Pool) : Nat := p.round - 1
/-- DET of the pool's launch. -/
def State.poolDet (s : State) (p : Pool) : Bool := ((s.launch? p.launch).map (·.det)).getD false

/-! ### Takes (R382, R385 to R387, R394) -/

/-- The status of a take. -/
def takeStatus (g round : Lane) (hops : Nat) (fwd empty aged got : Bool) : Quad :=
  quad2 (BitVec.ofNat 64 (round.toNat % 2 ^ 32 * 2 ^ 32 + hops % 256 * 256 + fwd.toNat * 8 + empty.toNat * 4
    + aged.toNat * 2 + got.toNat)) g

/-- G in force at a shard, or all ones. -/
def Shard.gNow (h : Shard) : Lane := h.g.getD (BitVec.allOnes 64)
/-- The round of the G in force at a shard; a free value with none. DESIGN CHOICE (log 8). -/
def State.roundNow (s : State) (h : Shard) : Lane × State :=
  if h.g.isSome then (BitVec.ofNat 64 h.ground, s) else (Config.freeLane s.fresh, { s with fresh := s.fresh + 1 })

/-- Write the result of a take of the issuing strand; an element opens a lease. -/
def State.giveTake (s : State) (pool : Nat) (pair : Fin 24) (pred : Pred) (e : Option Elem) (status : Quad) : State :=
  let v : Quad := (e.map (fun e => quad2 e.key e.payload)).getD 0
  let s := (s.writeReg (.c ⟨2 * pair.val, by omega⟩) v).writeReg (.c ⟨2 * pair.val + 1, by omega⟩) status
  let s := s.writePred pred e.isSome
  if e.isSome then s.modSt (fun t => { t with lease := some pool }) else s

/-- End the wait of a parked take: its operands are consumed and its strand goes on. -/
def State.endTake (s : State) (t : Take) (e : Option Elem) (status : Quad) : State :=
  s.atStrand t.who (fun s =>
    (((s.pop { r := t.a }).2).giveTake t.pool t.pair t.pred e status).modSt Strand.step12)

/-- The element that a shard would serve (R382), and whether it is aged. -/
def Shard.candidate (h : Shard) (last ageMax : Nat) (det : Bool) : Option (Elem × Bool) :=
  match leastBy Elem.elder (h.elems.filter (fun e => !det && e.round + ageMax ≤ last)) with
  | some e => some (e, true)
  | none =>
    match h.g, leastBy Elem.before h.elems with
    | some g, some e => if e.key ≤ g then some (e, false) else none
    | _, _ => none

/-- Serve from a shard: the element removed, its AGED flag, and the G that the status reports. -/
def State.serve (s : State) (pool v : Nat) : Option (Elem × Bool × Lane) × State :=
  match s.pool? pool, s.shard? pool v with
  | some p, some h =>
    match h.candidate p.last p.ageMax (s.poolDet p) with
    | none => (none, s)
    | some (e, aged) =>
      (some (e, aged, if aged then BitVec.allOnes 64 else h.gNow),
        s.modShard pool v (fun h => { h with elems := h.elems.erase e }))
  | _, _ => (none, s)

/-- The window that carries a take between two dies (R380): the next of their direct slot with room, at 4 takes a flit. -/
def State.takeWindow (s : State) (src dst : Nat) : Nat :=
  let t := directAfter (s.physOf src) (s.physOf dst) s.now
  let sums := (((s.poolsOn src).filter (fun p => (p.shard? dst).isSome)).map Pool.flits).sum
  let before := (s.takes.filter (fun f => f.src == src && f.dst == dst && t ≤ f.opens)).length
  t + before / (4 * (8 - sums)) * Config.omcCycleTicks

/-- The rank of a key in a pool (R374). -/
def State.rank (s : State) (pool : Nat) (key : Lane) : Nat :=
  ((s.pool? pool).map (fun p => ((p.shards.flatMap (·.elems)).filter (fun e => e.key < key)).length)).getD 0

/-- Put a take on its way. -/
def State.flyTake (s : State) (t : Take) (src dst : Nat) (home : Bool) : State :=
  { s.tracePool t.pool src (if home then .back t.origin dst else .forward t.origin dst) with takes := s.takes ++ [⟨t, src, dst, home, s.takeWindow src dst⟩] }

/-- KEYS[0] of a summary. -/
def Summary.first (x : Summary) : Lane := x.keys.headD (BitVec.allOnes 64)

/-- Forward (R382). A take that is tried again where it is held is no new event of the trace (R462). -/
def State.forward (s : State) (t : Take) (v : Nat) (again : Bool := false) : State :=
  match s.shard? t.pool v with
  | none => s
  | some h =>
    let cs := match h.g with
      | none => []
      | some g => h.formed.filter (fun x => x.1 != v && x.1 != t.origin && !t.visited.contains x.1 && x.2.first ≤ g)
    match leastBy (fun (a b : Nat × Summary) => a.2.first < b.2.first || (a.2.first == b.2.first && a.1 < b.1)) cs with
    | some c => s.flyTake { t with visited := t.visited ++ [c.1], hops := t.hops + 1 } v c.1 false
    | none =>
      if v = t.origin then
        let s := s.modShard t.pool v (fun h => { h with held := h.held ++ [{ t with visited := [] }] })
        if again then s else s.tracePool t.pool v .held
      else s.flyTake { t with visited := [] } v t.origin true

/-- Serve or forward a take that waits (R382): at its origin its strand goes on; elsewhere its element travels back. -/
def State.serveTake (s : State) (t : Take) (v : Nat) (again : Bool := false) : State :=
  match s.shard? t.pool v with
  | none => s
  | some h =>
    let r := s.serve t.pool v
    match r.1 with
    | none => s.forward t v again
    | some (e, aged, g) =>
      let what : PoolWhat := if v = t.origin then .take (s.rank t.pool e.key) else .serve t.origin (s.rank t.pool e.key)
      let n := (r.2.tracePool t.pool v what e.key e.payload).roundNow h
      if v = t.origin then n.2.endTake t (some e) (takeStatus g n.1 t.hops false false aged true)
      else
        let i := n.2.newId
        let s := i.2.modShard t.pool v (fun h => { h with unacked := h.unacked ++ [i.1] })
        let fly : ReplyFly := ⟨i.1, t, v, e, aged, g, n.1, none, none⟩
        { s with replies := s.replies ++ [fly] }.joinQueue v
          { src := v, dst := t.origin, flits := omcFlits 16, ordered := false, relayed := false, key := ⟨t.who, 0, 2 ^ 64 + i.1⟩
            body := .reply i.1, joined := s.now }

/-- Serve the takes held at a shard again. -/
def State.serveHeld (s : State) (pool v : Nat) : State :=
  match s.shard? pool v with
  | none => s
  | some h => h.held.foldl (fun (s : State) t => s.serveTake t v true) (s.modShard pool v (fun h => { h with held := [] }))

/-! ### Puts (R383, R393) -/

/-- The 32 bytes of the spill area that hold an element change, and the manual does not say to what (R392).
DESIGN CHOICE (log 8). -/
def State.spillWrite (s : State) (c : Quad) (slot : Nat) : State :=
  (List.range 4).foldl (fun (s : State) k =>
    let x := s.engAddr c (32 * slot + 8 * k : Nat) false true
    match x.1 with
    | .ok (.mem key) pa _ _ =>
      let r := x.2.routeAt x.2.g.die key pa 2
      let v := Config.freeLane r.2.fresh
      { r.2 with fresh := r.2.fresh + 1 }.agentPut (.pool x.2.g.die) r.1 (.mem key) (bytesOfNat 8 v.toNat) (some s.me)
    | _ => s) s

/-- The shard applies a put; then the takes held there are served again. -/
def State.applyPut (s : State) (p : Pool) (h : Shard) (w : StrandId) (key payload : Lane) : State :=
  let spilled := 65536 ≤ s.sramUsed h.die
  let e : Elem := ⟨key, payload, p.last, h.seq, spilled⟩
  let s := (s.modShard p.num h.die (fun h =>
    { h with elems := h.elems ++ [e], seq := h.seq + 1, applied := h.applied + 1, appliedNow := h.appliedNow + 1 })).modPool
      p.num (fun p => { p with lastPut := insertKey p.lastPut (s.serialOf w) p.last })
  let s := s.tracePool p.num h.die .put key payload
  let s := if spilled then s.atStrand w (fun s => s.spillWrite p.spillCap (h.spillFrom + h.spillUsed)) else s
  s.serveHeld p.num h.die

/-- The budget of R383. -/
def State.admits (s : State) (p : Pool) (h : Shard) : Bool := s.poolDet p || h.appliedPrev + h.appliedNow < p.w

/-- End the wait of a parked put: its operands are consumed and its strand goes on, or traps at it. -/
def State.endPut (s : State) (u : Put) (full : Bool) : State :=
  if full then
    s.modStrand u.who (fun t =>
      { t with run := .ready, prog := .failed .pool 0x04 0 })
  else s.atStrand u.who (fun s => ((s.pops [pop1 u.a, sop u.b]).2).modSt Strand.step12)

/-- Admit parked puts of a shard in issue order, as the rule allows. -/
def State.admitPuts (s : State) (pool v : Nat) : List Put → State
  | [] => s
  | u :: r =>
    match s.pool? pool, s.shard? pool v with
    | some p, some h =>
      if !s.admits p h then s
      else
        let full := s.poolFull h
        let s := s.modShard pool v (fun h => { h with puts := h.puts.drop 1, issued := if full then h.issued - 1 else h.issued })
        let s := if full then s else s.applyPut p h u.who u.key u.payload
        (s.endPut u full).admitPuts pool v r
    | _, _ => s

/-! ### The exchange (R378 to R381, R388) -/

/-- Open leases that a die counts for a pool (R387). -/
def State.leasesOn (s : State) (pool v : Nat) : Nat :=
  let gs := s.groups.filter (fun g => g.die == v && g.state != .retired)
  let ts := gs.flatMap (fun g => g.st.toList ++ g.store.map (·.st))
  (ts.filter (fun t => t.lease == some pool)).length + ((s.shard? pool v).map (fun h => h.unacked.length)).getD 0

/-- The summary of a shard (R379). -/
def State.summary (s : State) (p : Pool) (h : Shard) (round : Nat) : Summary :=
  { keys := (sortKeys (h.elems.map (·.key))).take p.k, leases := s.leasesOn p.num h.die, applied := h.applied
    issued := h.issued, size := h.elems.length, round := round }

/-- Every live shard's summary of the last round has reached every shard (R381). -/
def State.complete (s : State) (p : Pool) : Bool :=
  let live := p.shards.filter (fun h => s.liveDie h.die)
  live.all (fun h => h.snap.isSome && live.all (fun j => h.die == j.die || h.seen.any (fun x => x.1 == j.die)))

/-- The summaries of a round, by die. -/
def State.roundSums (s : State) (p : Pool) : List (Nat × Summary) :=
  (p.shards.filter (fun h => s.liveDie h.die)).filterMap (fun h => h.snap.map (fun x => (h.die, x)))

/-- G of a union of summaries (R381). -/
def gOf (k : Nat) (l : List (Nat × Summary)) : Lane := (sortKeys (l.flatMap (fun x => x.2.keys))).getD (k - 1) (BitVec.allOnes 64)

/-- The agreement of R388. -/
def emptyRound (l : List (Nat × Summary)) : Bool :=
  l.all (fun x => x.2.size == 0) && (l.map (fun x => x.2.issued)).sum == (l.map (fun x => x.2.applied)).sum
    && (l.map (fun x => x.2.leases)).sum == 0

/-- The waiting takes of a pool that were issued before a time return EMPTY. -/
def State.returnEmpty (s : State) (p : Pool) (t : Nat) (g : Lane) (r : Nat) : State :=
  let old (x : Take) : Bool := x.pool == p.num && x.issuedAt < t
  let ts := p.shards.flatMap (fun (h : Shard) => h.held.filter old) ++ (s.takes.filter (fun f => old f.take)).map (·.take)
  let keep (h : Shard) : Shard := { h with held := h.held.filter (fun x => !old x) }
  let s := { s with takes := s.takes.filter (fun f => !old f.take) }.modPool p.num (fun p => { p with shards := p.shards.map keep })
  ts.foldl (fun (s : State) x =>
    (s.tracePool p.num x.origin .empty).endTake x none (takeStatus g (BitVec.ofNat 64 r) x.hops false true false false)) s

/-- Install the G of the last round, or drop the one in force (R381); then EMPTY_AGREEMENT; PINIT is answered at G_0. -/
def State.install (s : State) (p : Pool) : State :=
  if p.round = 0 then s
  else if !s.complete p then s.modPool p.num (fun p => { p with shards := p.shards.map (fun h => { h with g := none, formed := [] }) })
  else
    let r := p.last
    let l := s.roundSums p
    let g := gOf p.k l
    let s := s.modPool p.num (fun p =>
      { p with installed := p.round, poolSize := (l.map (fun x => x.2.size)).sum, maker := none
               shards := p.shards.map (fun h => { h with g := some g, ground := r, formed := l }) })
    let note : RoundNote := ⟨p.num, r, g, p.k - 1 + p.shards.length * p.w, l⟩
    let s := if s.dbg.tracing && s.dbg.launch == some p.launch then
        { s with dbg := { s.dbg with rounds := s.dbg.rounds ++ [note] } } else s
    let s := p.shards.foldl (fun (s : State) h => s.tracePool p.num h.die .install g) s
    let s := if emptyRound l then s.returnEmpty p (p.t0 + r * Config.omcCycleTicks) g r else s
    match p.maker with
    | none => s
    | some (w, d) => s.atStrand w (fun s => (s.writeReg d (poolHandle p.num) true).modSt Strand.step12)

/-- The snapshot of a round (R378), and the next interval of the budget (R383). -/
def State.snapshot (s : State) (p : Pool) : State :=
  let r := p.round
  s.modPool p.num (fun q =>
    { q with round := r + 1
             shards := q.shards.map (fun h =>
               { h with snap := some (s.summary p h r), seen := [], missed := [], appliedPrev := h.appliedNow, appliedNow := 0 }) })

/-- POOL_EXCHANGE_ROUND (R378): at the next boundary of the pool's exchange, install, snapshot, admit parked puts, and
serve the takes held at every shard. -/
def execPoolExchangeRound (pool : Nat) (s : State) : Out :=
  .next <|
    match s.pool? pool with
    | none => s
    | some p =>
      let s := { s with now := max s.now (p.t0 + p.round * Config.omcCycleTicks) }
      let s := s.install p
      let s := ((s.pool? pool).map s.snapshot).getD s
      let dies := p.shards.map (·.die)
      let s := dies.foldl (fun (s : State) v => s.admitPuts pool v (((s.shard? pool v).map (·.puts)).getD [])) s
      dies.foldl (fun (s : State) v => s.serveHeld pool v) s

/-- POOL_SUMMARY_ARRIVAL (R378, R379): in the direct slot of the two dies. -/
def execPoolSummaryArrival (pool src dst : Nat) (s : State) : Out :=
  .next <|
    match s.pool? pool, s.shard? pool src with
    | some p, some h =>
      match h.snap with
      | none => s
      | some x =>
        let t := directAfter (s.physOf src) (s.physOf dst) (p.t0 + p.last * Config.omcCycleTicks - 1) + 115 * Config.nsTicks
        if src = dst || p.round = 0 then s
        else
          { s with now := max s.now t }.modShard pool dst (fun d =>
            if d.seen.any (fun y => y.1 == src) || d.missed.contains src then d else { d with seen := d.seen ++ [(src, x)] })
    | _, _ => s

/-- The summaries of a pool's round that no header error has lost have reached every shard (R378, R381). -/
def Pool.summed (p : Pool) : Pool :=
  let from_ (d : Shard) : List (Nat × Summary) := p.shards.filterMap (fun h =>
    if h.die == d.die || d.missed.contains h.die || d.seen.any (fun y => y.1 == h.die) then none else h.snap.map (fun x => (h.die, x)))
  { p with shards := p.shards.map (fun d => { d with seen := d.seen ++ from_ d }) }

/-- The exchange rounds of a pool that begin by a time, each at its boundary (R378). -/
def State.poolBy (s : State) (n t : Nat) : Nat → State
  | 0 => s
  | k + 1 =>
    match s.pool? n with
    | none => s
    | some p =>
      let b := p.t0 + p.round * Config.omcCycleTicks
      if t < b then s
      else
        match execPoolExchangeRound n { s.modPool n Pool.summed with now := b } with
        | .next u => ({ u with now := s.now }).poolBy n t k
        | _ => s

/-- No strand and no take goes past the boundary of an exchange before every shard has installed its G and taken its snapshot
(R378). -/
def State.exchangeBy (s : State) (t : Nat) : State :=
  s.pools.foldl (fun (s : State) p => s.poolBy p.num t ((t - p.t0) / Config.omcCycleTicks + 1 - p.round)) s

/-- FORWARDED_TAKE_ARRIVAL (R382): by the end of its window, under the G in force then; a take that comes home is held there. -/
def execForwardedTakeArrival (k : Nat) (s : State) : Out :=
  .next <|
    match s.takes[k]? with
    | none => s
    | some f =>
      let s := { s with takes := s.takes.eraseIdx k, now := max s.now (f.opens + 115 * Config.nsTicks) }
      let s := s.exchangeBy s.now
      if f.home then (s.modShard f.take.pool f.dst (fun h => { h with held := h.held ++ [f.take] })).tracePool f.take.pool f.dst .held
      else s.serveTake f.take f.dst

/-- TAKE_REPLY_ARRIVAL (R387): the element reaches its origin, which opens the lease and then acknowledges. -/
def execTakeReplyArrival (k : Nat) (s : State) : Out :=
  .next <|
    match s.replies[k]? with
    | none => s
    | some r =>
      match r.crossed with
      | none => s
      | some t =>
        let s := { s with replies := s.replies.eraseIdx k, now := max s.now t }
        if (s.pool? r.take.pool).isNone then s
        else
          let s := s.tracePool r.take.pool r.take.origin (.accept r.via) r.elem.key r.elem.payload
          let s := s.endTake r.take (some r.elem) (takeStatus r.g r.round r.take.hops true false r.aged true)
          { s with leaseAcks := s.leaseAcks ++ [⟨r.take.pool, r.id, r.server, r.take.origin, s.now⟩] }

/-- LEASE_ACK (R387): in the slot header of the origin's next direct slot with the serving die. -/
def execLeaseAck (k : Nat) (s : State) : Out :=
  .next <|
    match s.leaseAcks[k]? with
    | none => s
    | some a =>
      let t := directAfter (s.physOf a.origin) (s.physOf a.server) a.since
      { s with leaseAcks := s.leaseAcks.eraseIdx k, now := max s.now t }.modShard a.pool a.server (fun h =>
        { h with unacked := h.unacked.filter (· != a.id) })

/-! ### Freeing and withdrawing (R392, R394) -/

/-- Free a pool: elements discarded, leases closed, waiters trap POOL 0x01. -/
def State.freePool (s : State) (n : Nat) : State :=
  match s.pool? n with
  | none => s
  | some p =>
    let val : Lane := (poolHandle n).setWidth 64
    let fail (s : State) (w : StrandId) : State :=
      s.modStrand w (fun t => { t with run := .ready, prog := .failed .pool 0x01 val })
    let waiting := p.shards.flatMap (fun h => h.held.map (·.who) ++ h.puts.map (·.who))
      ++ (s.takes.filter (fun f => f.take.pool == n)).map (fun f => f.take.who)
      ++ (s.replies.filter (fun r => r.take.pool == n)).map (fun r => r.take.who)
    let s := waiting.foldl fail s
    let s := p.exact.foldl (fun (s : State) x => s.modStrand x.who (fun t => { t with poolFault := some ⟨.pool, 0, 0x01, x.a⟩ })) s
    let close (t : Strand) : Strand := if t.lease = some n then { t with lease := none } else t
    let s := s.mapGroups (fun g => { g.mapSt close with store := g.store.map (fun x => { x with st := close x.st }) })
    { s with
      pools := s.pools.filter (fun p => p.num != n)
      takes := s.takes.filter (fun f => f.take.pool != n)
      replies := s.replies.filter (fun r => r.take.pool != n)
      leaseAcks := s.leaseAcks.filter (fun a => a.pool != n) }

/-- Elements of a pool, the sum of SIZE. -/
def Pool.size (p : Pool) : Nat := (p.shards.map (fun h => h.elems.length)).sum

/-- A strand's element is in flight (R394). -/
def State.replyFor (s : State) (w : StrandId) : Bool := s.replies.any (fun r => r.take.who == w)

/-- Withdraw a strand's take or put that has not been served or applied, with nothing consumed (R394, R403).
DEDUCED (log 34). -/
def State.withdraw (s : State) (w : StrandId) : State :=
  let other (t : Take) : Bool := t.who != w
  { s with
    takes := s.takes.filter (fun f => other f.take)
    pools := s.pools.map (fun p =>
      { p with shards := p.shards.map (fun h =>
          { h with held := h.held.filter other
                   issued := h.issued - (h.puts.filter (fun u => u.who == w)).length
                   puts := h.puts.filter (fun u => u.who != w) }) }) }

/-! ### Exact takes (R390) -/

/-- The least element of the whole pool by key and payload, with its die. -/
def Pool.least (p : Pool) : Option (Nat × Elem) :=
  leastBy (fun (a b : Nat × Elem) => a.2.key < b.2.key || (a.2.key == b.2.key && a.2.payload < b.2.payload))
    (p.shards.flatMap (fun h => h.elems.map (fun e => (h.die, e))))

/-- Serve one recorded request. DESIGN CHOICE (log 8). -/
def State.serveExact (s : State) (n : Nat) (x : XTake) : State :=
  match s.pool? n with
  | none => s
  | some p =>
    let free : Lane := Config.freeLane s.fresh
    let s := { s with fresh := s.fresh + 1 }
    match p.least with
    | none => (s.tracePool n (((s.group? x.who.g).map Group.die).getD 0) .empty).atStrand x.who (fun s =>
        s.giveTake n x.pair x.pred none (takeStatus (BitVec.allOnes 64) free 0 false true false false))
    | some (v, e) =>
      let s := s.tracePool n v (.take (s.rank n e.key)) e.key e.payload
      (s.modShard n v (fun h => { h with elems := h.elems.erase e })).atStrand x.who (fun s =>
        s.giveTake n x.pair x.pred (some e) (takeStatus (BitVec.allOnes 64) free 0 false false false true))

/-- The requests of a pool in ascending group and slot number. -/
def sortTakes (l : List XTake) : List XTake :=
  let lt (a b : XTake) : Bool := a.who.g.num < b.who.g.num || (a.who.g.num == b.who.g.num && a.who.slot < b.who.slot)
  let ins (x : XTake) (l : List XTake) : List XTake := l.takeWhile (fun y => lt y x) ++ x :: l.dropWhile (fun y => lt y x)
  l.foldr ins []

/-- EXACT_TAKE_SERVICE (R390): after the end-of-instant decision and before the next instant, every request that the launch's
strands have recorded in the instant that ends. The delay is the bound. -/
def execExactTakeService (launch : Nat) (s : State) : Out :=
  .next <|
    match (s.launch? launch).bind (·.wave) with
    | none => s
    | some w =>
      if w.act != 0 then s
      else
        let mine (x : XTake) : Bool := x.who.g.launch == launch && x.instant == w.inst
        let ps := s.pools.filter (fun p => p.exact.any mine)
        let s := ps.foldl (fun (s : State) p =>
          let s := { s with now := s.now + (if p.shards.length = 1 then 1000 else 8000) * Config.nsTicks }
          let s := (sortTakes (p.exact.filter mine)).foldl (fun (s : State) x => s.serveExact p.num x) s
          s.modPool p.num (fun p => { p with exact := p.exact.filter (fun x => !mine x) })) s
        s.notePools launch

/-! ### The instructions -/

/-- The parameters of a pool record (R80), if they are in range. -/
def poolRecord (q : Quad) : Option (Nat × Nat × Nat) :=
  let n := q.toNat
  let k := n % 2 ^ 16
  let w := n / 2 ^ 16 % 2 ^ 16
  let a := n / 2 ^ 32 % 2 ^ 16
  if n / 2 ^ 48 != 0 || k = 0 || 64 < k || w = 0 || a = 0 then none else some (k, w, a)

/-- Some die has no free slot, or its summaries would not fit (R377, R380). -/
def State.noPoolRoom (s : State) (dies : List Nat) (k : Nat) : Bool :=
  dies.any (fun v => 8 ≤ (s.poolsOn v).length
    || 7 < ((s.poolsOn v).map Pool.flits).sum + summaryFlits dies.length k)

/-- The next of the 16-bit pool numbers that no live pool has, behind the one given last: a freed number comes again only after
every other, so that a handle of a freed pool names none (R375, R392). DEDUCED (log 40). -/
def State.freePoolNum (s : State) : Nat :=
  let after (k : Nat) : Nat := (s.lastPool + k) % 65535 + 1
  after (((List.range (s.pools.length + 1)).find? (fun k => (s.pool? (after k)).isNone)).getD 0)

/-- Create a pool over the launch's dies (R372, R378, R392). -/
def State.newPool (s : State) (k w age : Nat) (dies : List Nat) (b : Quad) (d : Reg) : State :=
  let n := dies.length
  let len := capRest b / (32 * n) * (32 * n)
  let part (i : Nat) : Nat := i * len / n / 32
  let shards := (List.range n).map (fun i =>
    ({ die := dies.getD i 0, spillFrom := part i, spillLen := part (i + 1) - part i } : Shard))
  let p : Pool :=
    { num := s.freePoolNum, launch := s.g.gid.launch, tenant := s.myTenant, k := k, w := w, ageMax := age
      t0 := (s.now / Config.omcCycleTicks + 1) * Config.omcCycleTicks, shards := shards, spillCap := b
      maker := some (s.me, d) }
  { s with pools := s.pools ++ [p], lastPool := p.num }.modSt (fun t => { t with prog := .waiting p.num 0 })

/-- The dies of the issuing strand's launch. -/
def State.myDies (s : State) : List Nat := (s.myLaunch.map (·.dies)).getD [s.g.die]

/-- PINIT once its record is read. -/
def State.initPool (s : State) (x bc : RegCell) (d : Reg) (record : Quad) : Res :=
  match poolRecord record with
  | none => .trap (poolTrap .pool 0x06 x)
  | some (k, w, age) =>
    if s.noPoolRoom s.myDies k then .trap (poolTrap .pool 0x05 x)
    else .parkC .pinit (s.newPool k w age s.myDies bc.v d)

/-- The checks of PINIT's operands. -/
def pinitAsks (x bc : RegCell) : List (RegCell × CapAsk) :=
  [(x, { ld := true, spaces := fun n => n == 0 || (2 ≤ n && n ≤ 4), align := 16 }),
   (bc, { ld := true, st := true, spaces := fun n => n == 2 || n == 3, align := 4096 })]

/-- PINIT (R392): its parks before the request are abandoned with nothing done; the park until G_0 is committed. -/
def execPinit (h : Head) (d : Reg) (a b : PSrc) (s : State) : Out :=
  .next (s.issue h { konly := true } [pop1 a, pop1 b] [d] (fun l s =>
    let x := opv l 0
    let bc := opv l 1
    match s.st.prog with
    | .answered v _ _ _ => s.initPool x bc d v
    | .failed c n v => .trap ⟨c, n / 256, n % 256, v⟩
    | .waiting _ _ => .park .value s
    | _ =>
      s.checkCaps (pinitAsks x bc) (
        if 1 < s.myDies.length && s.dev.stage < 3 then .park .stage3 s
        else s.access x 0 { size := 16, rd := true, noCtrl := true } (fun r s =>
          let m := s.send r r.pol true (s.checked r) .record
          .park .value (m.2.await m.1 0)))))

/-- PPUT (R393). -/
def execPput (h : Head) (a : PSrc) (b : Src) (s : State) : Out :=
  .next (s.issue h {} [pop1 a, sop b] [] (fun l s =>
    match s.st.prog with
    | .failed c d _ => .trap (poolTrap c d (opv l 0))
    | _ =>
      s.onPool (opv l 0) false true (fun p h =>
        if s.poolFull h then .trap (poolTrap .pool 0x04 (opv l 0))
        else
          let key := lane0 (opv l 1)
          let pay := lane1 (opv l 1)
          let s := s.modShard p.num h.die (fun h => { h with issued := h.issued + 1 })
          if h.puts.isEmpty && s.admits p h then .ok (s.applyPut p h s.me key pay)
          else
            let s := s.modShard p.num h.die (fun h => { h with puts := h.puts ++ [⟨s.me, key, pay, a, b⟩] })
            .park .put (s.tracePool p.num h.die .parked key pay))))

/-- A PTAKE of a mode: its handle, the launch's determinism, and the lease that closes at issue. -/
def State.takeFrom (s : State) (x : RegCell) (exact : Bool) (k : Pool → Shard → State → Res) : Res :=
  match s.st.prog with
  | .failed c d _ => .trap (poolTrap c d x)
  | _ =>
    s.onPool x true false (fun p h =>
      if !exact && s.det then .trap (poolTrap .pool 0x02 x)
      else if exact && !s.det then .trap (poolTrap .pool 0x03 x)
      else k p h (s.modSt (fun t => { t with lease := none })))

/-- PTAKE.WAIT (R394). -/
def execPtakeWait (h : Head) (p : Pred) (d : Fin 24) (a : PSrc) (s : State) : Out :=
  .next (s.issue h { ill := illGroup (pairRegs d) } [pop1 a] (pairRegs d) (fun l s =>
    s.takeFrom (opv l 0) false (fun q sh s =>
      let r := s.serve q.num sh.die
      match r.1 with
      | some (e, aged, g) =>
        let n := (r.2.tracePool q.num sh.die (.take (s.rank q.num e.key)) e.key e.payload).roundNow sh
        .ok (n.2.giveTake q.num d p (some e) (takeStatus g n.1 0 false false aged true))
      | none =>
        .park .take (s.forward { who := s.me, pool := q.num, pair := d, pred := p, a := a.r, origin := sh.die
                                 issuedAt := s.now } sh.die))))

/-- PTAKE.TRY (R394): served by the local shard only. -/
def execPtakeTry (h : Head) (p : Pred) (d : Fin 24) (a : PSrc) (s : State) : Out :=
  .next (s.issue h { ill := illGroup (pairRegs d) } [pop1 a] (pairRegs d) (fun l s =>
    s.takeFrom (opv l 0) false (fun q sh s =>
      let r := s.serve q.num sh.die
      let note (s2 : State) : State := match r.1 with
        | some (e, _, _) => s2.tracePool q.num sh.die (.take (s.rank q.num e.key)) e.key e.payload
        | none => s2
      let n := (note r.2).roundNow sh
      .ok (match r.1 with
        | some (e, aged, g) => n.2.giveTake q.num d p (some e) (takeStatus g n.1 0 false false aged true)
        | none => n.2.giveTake q.num d p none (takeStatus sh.gNow n.1 0 false false false false)))))

/-- What follows the record of PTAKE.X: it acts as PAUSE (R330, R390). -/
def State.exactPause (s : State) : Res :=
  s.reactRel (fun s => .raw ((s.modSt (fun t => ({ t.step12 with awaitSig := none }).pause)).releaseGbar s.g.gid))

/-- PTAKE.X (R390): records the request, once, and then acts as PAUSE. -/
def execPtakeX (h : Head) (p : Pred) (d : Fin 24) (a : PSrc) (s : State) : Out :=
  .next (s.issue h { ill := illGroup (pairRegs d) } [pop1 a] (pairRegs d) (fun l s =>
    if s.st.prog.came then s.exactPause
    else
      s.takeFrom (opv l 0) true (fun q _ s =>
        let other (x : XTake) : Bool := x.who != s.me
        (s.modPool q.num (fun q => { q with exact := q.exact.filter other ++ [⟨s.me, d, p, lane0 (opv l 0), s.g.instant⟩] })).exactPause)))

/-- PBOUND (R395). -/
def execPbound (h : Head) (d : Reg) (a : PSrc) (s : State) : Out :=
  .next (s.issue h {} [pop1 a] [d] (fun l s =>
    s.onPool (opv l 0) true false (fun p sh =>
      .ok (s.writeReg d (quad2 (BitVec.ofNat 64 (p.k - 1 + p.shards.length * p.w))
        (if s.det then BitVec.allOnes 64 else sh.gNow))))))
/-- PSIZE (R395). -/
def execPsize (h : Head) (d : Reg) (a : PSrc) (s : State) : Out :=
  .next (s.issue h {} [pop1 a] [d] (fun l s =>
    s.onPool (opv l 0) true false (fun p sh =>
      let v := if s.det then (sh.startSize, p.startPool) else (sh.elems.length, p.poolSize)
      .ok (s.writeReg d (quad2 (BitVec.ofNat 64 v.1) (BitVec.ofNat 64 v.2))))))
/-- PFREE (R392). -/
def execPfree (h : Head) (d : Reg) (a : PSrc) (s : State) : Out :=
  .next (s.issue h { konly := true } [pop1 a] [d] (fun l s =>
    s.onPool (opv l 0) true true (fun p _ =>
      .ok ((s.freePool p.num).writeReg d (quad2 (BitVec.ofNat 64 p.size) 0)))))
/-- PSYNC (R395): a G whose snapshot followed the strand's earlier puts has been installed. -/
def execPsync (h : Head) (a : PSrc) (s : State) : Out :=
  .next (s.issue h {} [pop1 a] [] (fun l s =>
    s.onPool (opv l 0) false true (fun p _ =>
      match p.lastPut.lookup s.st.serial with
      | none => .ok s
      | some r => if r + 1 < p.installed then .ok s else .park .psync s)))

/-! ### The lease of a strand (R389) -/

/-- PLEASE. -/
def Strand.please (t : Strand) : Lane :=
  match t.lease with | none => 0 | some n => bitAt 63 ||| BitVec.ofNat 64 (n % 2 ^ 16)

end Sys2Proof.Machine
end

