-- ==== Sys2Proof/Machine/Trans.lean ====
section
/-! DEFINITION. The special functions, correctly rounded (06 R162 to R164): intervals that enclose the exact value are
narrowed until both ends round alike. -/

namespace Sys2Proof.Machine

/-! ### Intervals of numbers scaled by 2^W -/

/-- An interval [lo, hi] / 2^W that holds the exact value. -/
structure Iv where
  lo : Int
  hi : Int
  deriving DecidableEq, Repr

/-- Quotient rounded down, by a positive number. -/
def divDown (a : Int) (b : Nat) : Int := a / (b : Int)
/-- Quotient rounded up. -/
def divUp (a : Int) (b : Nat) : Int := -((-a) / (b : Int))

/-- The interval of a rational. -/
def Iv.ofQ (W : Nat) (q : Q) : Iv := ⟨divDown (q.num * 2 ^ W) q.den, divUp (q.num * 2 ^ W) q.den⟩
/-- Sum. -/
def Iv.add (a b : Iv) : Iv := ⟨a.lo + b.lo, a.hi + b.hi⟩
/-- Negation. -/
def Iv.neg (a : Iv) : Iv := ⟨-a.hi, -a.lo⟩
/-- Product. -/
def Iv.mul (W : Nat) (a b : Iv) : Iv :=
  let p := a.lo * b.lo
  let q := a.lo * b.hi
  let r := a.hi * b.lo
  let t := a.hi * b.hi
  ⟨divDown (min (min p q) (min r t)) (2 ^ W), divUp (max (max p q) (max r t)) (2 ^ W)⟩
/-- Division by a positive number. -/
def Iv.divNat (a : Iv) (n : Nat) : Iv := ⟨divDown a.lo n, divUp a.hi n⟩
/-- Reciprocal of a positive interval. -/
def Iv.inv (W : Nat) (a : Iv) : Iv := ⟨divDown (2 ^ (2 * W)) a.hi.toNat, divUp (2 ^ (2 * W)) a.lo.toNat⟩
/-- Widen both ends by n steps. -/
def Iv.widen (a : Iv) (n : Int) : Iv := ⟨a.lo - n, a.hi + n⟩

/-- Horner's form of the Taylor sum of e^y: 1 + y (1 + y/2 (1 + y/3 ...)), from term n down. -/
def expTaylor (W : Nat) (y : Iv) : Nat → Nat → Iv → Iv
  | 0, _, r => r
  | fuel + 1, n, r => expTaylor W y fuel (n - 1) ((Iv.ofQ W (Q.ofInt 1)).add ((y.mul W r).divNat n))
/-- Square k times. -/
def squareTimes (W : Nat) : Nat → Iv → Iv
  | 0, a => a
  | k + 1, a => squareTimes W k (a.mul W a)

/-- e^y for |y| below 2^11. -/
def expIv (W : Nat) (y : Iv) : Iv :=
  let k := 20
  let z := y.divNat (2 ^ k)
  let n := W / 9 + 3
  squareTimes W k ((expTaylor W z n n (Iv.ofQ W (Q.ofInt 1))).widen 2)

/-- The series of 2 atanh z for |z| at most 1/3: 2 (z + z^3/3 + z^5/5 ...). -/
def atanhSum (W : Nat) (z2 : Iv) : Nat → Nat → Iv → Iv → Iv
  | 0, _, _, acc => acc
  | fuel + 1, n, t, acc => atanhSum W z2 fuel (n + 2) (t.mul W z2) (acc.add (t.divNat n))
/-- 2 atanh z. -/
def atanh2 (W : Nat) (q : Q) : Iv :=
  let z := Iv.ofQ W q
  let s := (atanhSum W (z.mul W z) (W / 3 + 4) 1 z ⟨0, 0⟩).widen 2
  s.add s
/-- ln 2. -/
def ln2Iv (W : Nat) : Iv := atanh2 W ⟨1, 3⟩

/-- ln x for a positive rational: x = m 2^e with m in [3/4, 3/2). -/
def logIv (W : Nat) (x : Q) : Iv :=
  let e0 := x.log2
  let m0 := x.mul (Q.pow2 (-e0))
  let big := (Q.mk 3 2).le m0
  let e := if big then e0 + 1 else e0
  let m := if big then m0.mul ⟨1, 2⟩ else m0
  let s := atanh2 W ((m.add (Q.ofInt (-1))).div (m.add (Q.ofInt 1)))
  let l := ln2Iv W
  s.add (l.mul W (Iv.ofQ W (Q.ofInt e)))

/-- The series of atan(1/n). -/
def atanSum (W n2 : Nat) : Nat → Nat → Iv → Iv → Iv
  | 0, _, _, acc => acc
  | fuel + 1, k, t, acc => atanSum W n2 fuel (k + 2) (t.divNat n2).neg (acc.add (t.divNat k))
/-- atan(1/n). -/
def atanInv (W n : Nat) : Iv := (atanSum W (n * n) (W / 4 + 4) 1 (Iv.ofQ W ⟨1, n⟩) ⟨0, 0⟩).widen 2
/-- π by Machin's formula. -/
def piIv (W : Nat) : Iv :=
  ((atanInv W 5).mul W (Iv.ofQ W (Q.ofInt 16))).add ((atanInv W 239).mul W (Iv.ofQ W (Q.ofInt 4))).neg

/-- Square root of a positive interval. -/
def Iv.sqrt (W : Nat) (a : Iv) : Iv :=
  ⟨isqrt (a.lo.toNat * 2 ^ W), (isqrt (a.hi.toNat * 2 ^ W) + 1 : Nat)⟩

/-- The positive series Σ 2^n x^(2n+1) / (2n+1)!! of erf. -/
def erfSum (W : Nat) (x2 : Iv) : Nat → Nat → Iv → Iv → Iv
  | 0, _, _, acc => acc
  | fuel + 1, n, t, acc => erfSum W x2 fuel (n + 1) (((t.mul W x2).add (t.mul W x2)).divNat (2 * n + 3)) (acc.add t)

/-- erf x for 0 < x < 64. -/
def erfIv (P : Nat) (x : Q) : Nat × Iv :=
  let c := (x.mul x).floor.toNat + 1
  let W := P + 3 * c + 32
  let x2 := Iv.ofQ W (x.mul x)
  let s := (erfSum W x2 (4 * c + W + 16) 0 (Iv.ofQ W x) ⟨0, 0⟩).widen 4
  let e := expIv W (Iv.ofQ W (x.mul x)).neg
  let k := ((piIv W).sqrt W).inv W
  (W, ((s.mul W e).mul W (k.add k)))

/-! ### The functions (R162 to R164) -/

/-- The special functions. -/
inductive SFn where
  | exp | exp2 | expm1 | log | log2 | log1p | erf | erfc | rcp | rsqrt
  deriving DecidableEq, Repr

/-- An enclosure of f(x) at precision P, for an operand where f(x) is no rational: the scale and the interval. -/
def SFn.enclose (fn : SFn) (P : Nat) (neg : Bool) (m : Q) : Nat × Iv :=
  let x := if neg then m.neg else m
  let one := Iv.ofQ P (Q.ofInt 1)
  match fn with
  | .exp => (P, expIv P (Iv.ofQ P x))
  | .exp2 => (P, expIv P ((ln2Iv P).mul P (Iv.ofQ P x)))
  | .expm1 => (P, (expIv P (Iv.ofQ P x)).add one.neg)
  | .log => (P, logIv P x)
  | .log2 => (P, (logIv P x).mul P ((ln2Iv P).inv P))
  | .log1p => (P, logIv P (x.add (Q.ofInt 1)))
  | .erf => let r := erfIv P m; (r.1, if neg then r.2.neg else r.2)
  | .erfc =>
    let r := erfIv P m
    (r.1, (Iv.ofQ r.1 (Q.ofInt 1)).add (if neg then r.2 else r.2.neg))
  | .rcp | .rsqrt => (P, one)

/-- A value beyond the formats' reach on one side, where f(x) is known to be too near a bound to be told from it:
2^1200 for overflow, 2^-3000 from a bound below. -/
def SFn.far (fn : SFn) (neg : Bool) (m : Q) : Option Q :=
  let tiny := Q.pow2 (-3000)
  match fn with
  | .exp | .exp2 =>
    if (Q.ofInt 1200).le m then some (if neg then tiny else Q.pow2 1740) else none
  | .expm1 =>
    if (Q.ofInt 1200).le m then some (if neg then (Q.ofInt (-1)).add tiny else Q.pow2 1740) else none
  | .erf => if (Q.ofInt 40).le m then
      some (if neg then (Q.ofInt (-1)).add tiny else (Q.ofInt 1).add tiny.neg) else none
  | .erfc => if (Q.ofInt 40).le m then some (if neg then (Q.ofInt 2).add tiny.neg else tiny) else none
  | _ => none

/-- Round an inexact stand-in. DESIGN CHOICE (log 12). -/
def BFormat.putReal (f : BFormat) (mode : RMode) (q : Q) : Nat × Flags :=
  f.put mode (decide (q.num < 0)) q.abs true

/-- The search: precision doubles while the ends of the enclosure round apart. DESIGN CHOICE (log 12). -/
def SFn.search (fn : SFn) (f : BFormat) (mode : RMode) (neg : Bool) (m : Q) (key : Nat) : Nat → Nat → Nat × Flags
  | 0, P =>
    let r := fn.enclose P neg m
    f.putReal mode ⟨if Config.roundUpFree key then r.2.hi else r.2.lo, 2 ^ r.1⟩
  | fuel + 1, P =>
    let r := fn.enclose P neg m
    let a := f.putReal mode ⟨r.2.lo, 2 ^ r.1⟩
    let b := f.putReal mode ⟨r.2.hi, 2 ^ r.1⟩
    if a.1 = b.1 && decide (r.2.lo < 0) == decide (r.2.hi < 0) then f.putReal mode ⟨r.2.lo + r.2.hi, 2 ^ (r.1 + 1)⟩
    else fn.search f mode neg m key fuel (2 * P)

/-- A finite operand whose result is rational, exactly (the last column of R164, FRCP, and FEXP2 of an integer). -/
def SFn.exact (fn : SFn) (neg : Bool) (m : Q) : Option Q :=
  match fn with
  | .exp | .exp2 | .erfc =>
    if m.isZero then some (Q.ofInt 1)
    else if fn = .exp2 && m.num.natAbs % m.den = 0 && m.lt (Q.ofInt 1200) then
      some (Q.pow2 (if neg then -m.floor else m.floor))
    else none
  | .log => if m.eq (Q.ofInt 1) then some (Q.ofInt 0) else none
  | .log2 => if (Q.pow2 m.log2).eq m then some (Q.ofInt m.log2) else none
  | .rcp => some ((Q.ofInt (if neg then -1 else 1)).div m)
  | _ => none

/-- One lane of a special function (R163, R164). -/
def SFn.lane (fn : SFn) (f : BFormat) (mode : RMode) (a : Nat) : Nat × Flags :=
  let bad : Nat × Flags := (f.defNan, NV)
  match f.decode a with
  | .nan neg fr => (f.nan neg fr, sigFlag [.nan neg fr])
  | .inf neg =>
    match fn with
    | .exp | .exp2 => (if neg then 0 else f.inf, 0)
    | .expm1 => if neg then f.put mode true (Q.ofInt 1) else (f.inf, 0)
    | .log | .log2 | .log1p => if neg then bad else (f.inf, 0)
    | .erf => f.put mode neg (Q.ofInt 1)
    | .erfc => if neg then f.put mode false (Q.ofInt 2) else (0, 0)
    | .rcp => (f.sgn neg, 0)
    | .rsqrt => if neg then bad else (0, 0)
  | .fin neg m =>
    let one := m.eq (Q.ofInt 1)
    let z := m.isZero
    match fn with
    | .expm1 | .log1p | .erf =>
      if z then (a, 0)
      else if fn = .log1p && neg && one then (f.sgn true + f.inf, DZ)
      else if fn = .log1p && neg && (Q.ofInt 1).lt m then bad
      else general neg m
    | .log | .log2 =>
      if z then (f.sgn true + f.inf, DZ) else if neg then bad else general neg m
    | .rcp => if z then (f.sgn neg + f.inf, DZ) else general neg m
    | .rsqrt =>
      if z then (f.sgn neg + f.inf, DZ) else if neg then bad
      else let r := sqrtQ ⟨m.den, m.num.natAbs⟩; f.put mode false r.1 (!r.2)
    | .exp | .exp2 | .erfc => general neg m
where
  general (neg : Bool) (m : Q) : Nat × Flags :=
    match fn.exact neg m with
    | some q => f.putQ mode q false
    | none =>
      match fn.far neg m with
      | some q => f.putReal mode q
      | none => fn.search f mode neg m a 7 128

end Sys2Proof.Machine
end

