-- ==== Sys2Proof/Machine/Integer.lean ====
section
/-! DEFINITION. Class 0x1, the integer instructions (05 R117 to R128). -/

namespace Sys2Proof.Machine

/-! ### Shared shapes (R121) -/

/-- A signed type (R39). -/
def isI : Ty → Bool | .i8 | .i16 | .i32 | .w7 => true | _ => false

/-- The value of a lane, signed by the type. -/
def laneVal (t : Ty) {w : Nat} (x : BitVec w) : Int := if isI t then x.toInt else x.toNat

/-- Form RR: a lane function of two sources. -/
def intRR (h : Head) (t : Ty) (d : Reg) (a b : Src) (f : BitVec t.width → BitVec t.width → BitVec t.width)
    (s : State) : Out :=
  .next (s.issue h {} [sop a, sop b] [d] (fun l s => .ok (s.writeReg d (mapLanes2 t.width f (opv l 0).v (opv l 1).v))))

/-- Forms RI, RS and UN: a lane function of one source. -/
def intUN (h : Head) (t : Ty) (d : Reg) (a : Src) (f : BitVec t.width → BitVec t.width) (s : State) : Out :=
  .next (s.issue h {} [sop a] [d] (fun l s => .ok (s.writeReg d (mapLanes t.width f (opv l 0).v))))

/-- A whole-register function of one source and of D, which is read under policy 0 (R120). -/
def intRD (h : Head) (d : Reg) (a : Src) (f : Quad → Quad → Quad) (s : State) : Out :=
  .next (s.issue h { ill := illStream d } [sop a, dop d] [d] (fun l s => .ok (s.writeReg d (f (opv l 0).v (opv l 1).v))))

/-- Clamp to the range of a type (R121). -/
def clampLane (t : Ty) (x : Int) : BitVec t.width :=
  let lo : Int := if isI t then -(2 ^ (t.width - 1) : Nat) else 0
  let hi : Int := if isI t then (2 ^ (t.width - 1) : Nat) - 1 else (2 ^ t.width : Nat) - 1
  BitVec.ofInt t.width (max lo (min hi x))

/-- One lane of DIV (R122). -/
def divLane (t : Ty) (a b : BitVec t.width) : BitVec t.width :=
  if b = 0 then BitVec.allOnes _
  else if isI t then BitVec.ofInt _ (a.toInt.tdiv b.toInt) else BitVec.ofNat _ (a.toNat / b.toNat)
/-- One lane of REM (R122). -/
def remLane (t : Ty) (a b : BitVec t.width) : BitVec t.width :=
  if b = 0 then a
  else if isI t then BitVec.ofInt _ (a.toInt.tmod b.toInt) else BitVec.ofNat _ (a.toNat % b.toNat)
/-- The latest arrival of DIV and REM in cycles (R115). -/
def divLatency (t : Ty) : Nat := match t.width with | 8 | 16 => 8 | 32 => 12 | _ => 20

/-- DIV and REM: long under R50. -/
def intLong (h : Head) (t : Ty) (d : Reg) (a b : Src) (f : BitVec t.width → BitVec t.width → BitVec t.width)
    (s : State) : Out :=
  .next (s.issue h {} [sop a, sop b] [d] (fun l s =>
    s.long d 1 (divLatency t) (mapLanes2 t.width f (opv l 0).v (opv l 1).v) [] false))

/-- Shift left by a whole lane's count (R123). -/
def shlLane {w : Nat} (a : BitVec w) (n : Nat) : BitVec w := if w ≤ n then 0 else a <<< n
/-- Shift right: arithmetic for I types (R123). -/
def shrLane (t : Ty) (a : BitVec t.width) (n : Nat) : BitVec t.width :=
  if isI t then a.sshiftRight (min n t.width) else if t.width ≤ n then 0 else a >>> n
/-- Rotate left (R123). -/
def rotLane {w : Nat} (a : BitVec w) (n : Nat) : BitVec w := (a <<< (n % w)) ||| (a >>> (w - n % w))

/-- The number of 1 bits among the low k. -/
def countOnes {w : Nat} (a : BitVec w) : Nat → Nat
  | 0 => 0
  | k + 1 => (if a.getLsbD k then 1 else 0) + countOnes a k
/-- Leading zero bits of a lane, looked at from bit k - 1 down. -/
def leadZeros {w : Nat} (a : BitVec w) : Nat → Nat
  | 0 => 0
  | k + 1 => if a.getLsbD k then 0 else 1 + leadZeros a k
/-- The lane with its bits in reverse. -/
def revBits {w : Nat} (a : BitVec w) : Nat → Nat → BitVec w
  | 0, _ => 0
  | k + 1, j => (if a.getLsbD j then (1#w <<< (w - 1 - j)) else 0) ||| revBits a k (j + 1)

/-- The length a field really has (R124). -/
def fieldLen (t : Ty) (pos : BitVec 6) (len : BitVec 7) : Nat := min len.toNat (t.width - pos.toNat)
/-- The lowest n bits set. -/
def lowOnes (w n : Nat) : BitVec w := (1#w <<< n) - 1
/-- One lane of BFX (R124). -/
def bfxLane (t : Ty) (pos len : Nat) (a : BitVec t.width) : BitVec t.width :=
  let x := (a >>> pos) &&& lowOnes t.width len
  if isI t && x.getLsbD (len - 1) then x ||| ~~~(lowOnes t.width len) else x
/-- One lane of BFI (R124). -/
def bfiLane (w pos len : Nat) (a d : BitVec w) : BitVec w :=
  (d &&& ~~~(lowOnes w len <<< pos)) ||| ((a &&& lowOnes w len) <<< pos)

/-- A condition on two lanes (R125). -/
def ICond.holds {w : Nat} (c : ICond) (a b : BitVec w) : Bool :=
  match c with
  | .eq => a == b | .ne => a != b
  | .lt => a.slt b | .le => a.sle b | .gt => b.slt a | .ge => b.sle a
  | .bl => a.ult b | .be => a.ule b | .ab => b.ult a | .ae => b.ule a
/-- How the lanes combine (R125). -/
def Comb.join (c : Comb) (l : List Bool) : Bool :=
  match c with
  | .lane0 => l.headD false
  | .all => l.all id
  | .any => l.any id

/-- The lanes' conditions. -/
def cmpLanes (t : Ty) (cc : ICond) (f : Nat → BitVec t.width) (a : Quad) : List Bool :=
  (List.range (128 / t.width)).map (fun k => ICond.holds cc (laneAt t.width a k) (f k))

/-- One lane of SHUF (R128). -/
def shufLane (w : Nat) (a : Quad) (b : BitVec w) : BitVec w :=
  if b.getLsbD (w - 1) then 0 else laneAt w a (b.toNat % (128 / w))

/-! ### The instructions -/

/-- ADD. -/
def execAdd (h : Head) (t : Ty) (d : Reg) (a b : Src) (s : State) : Out := intRR h t d a b (· + ·) s
/-- ADDI. -/
def execAddi (h : Head) (t : Ty) (d : Reg) (a : Src) (i : BitVec 32) (s : State) : Out :=
  intUN h t d a (· + immLane t.width i) s
/-- SUB. -/
def execSub (h : Head) (t : Ty) (d : Reg) (a b : Src) (s : State) : Out := intRR h t d a b (· - ·) s
/-- ADDS. -/
def execAdds (h : Head) (t : Ty) (d : Reg) (a b : Src) (s : State) : Out :=
  intRR h t d a b (fun x y => clampLane t (laneVal t x + laneVal t y)) s
/-- SUBS. -/
def execSubs (h : Head) (t : Ty) (d : Reg) (a b : Src) (s : State) : Out :=
  intRR h t d a b (fun x y => clampLane t (laneVal t x - laneVal t y)) s
/-- MUL. -/
def execMul (h : Head) (t : Ty) (d : Reg) (a b : Src) (s : State) : Out := intRR h t d a b (· * ·) s
/-- MULI. -/
def execMuli (h : Head) (t : Ty) (d : Reg) (a : Src) (i : BitVec 32) (s : State) : Out :=
  intUN h t d a (· * immLane t.width i) s
/-- MULH: the upper half of the exact product. -/
def execMulh (h : Head) (t : Ty) (d : Reg) (a b : Src) (s : State) : Out :=
  intRR h t d a b (fun x y => BitVec.ofInt _ ((laneVal t x * laneVal t y) / (2 ^ t.width : Nat))) s
/-- DIV. -/
def execDiv (h : Head) (t : Ty) (d : Reg) (a b : Src) (s : State) : Out := intLong h t d a b (divLane t) s
/-- REM. -/
def execRem (h : Head) (t : Ty) (d : Reg) (a b : Src) (s : State) : Out := intLong h t d a b (remLane t) s
/-- NEG. -/
def execNeg (h : Head) (t : Ty) (d : Reg) (a : Src) (s : State) : Out := intUN h t d a (fun x => 0 - x) s
/-- ABS: the most negative value stays. -/
def execAbs (h : Head) (t : Ty) (d : Reg) (a : Src) (s : State) : Out :=
  intUN h t d a (fun x => if isI t && x.getLsbD (t.width - 1) then 0 - x else x) s
/-- MIN. -/
def execMin (h : Head) (t : Ty) (d : Reg) (a b : Src) (s : State) : Out :=
  intRR h t d a b (fun x y => if laneVal t x < laneVal t y then x else y) s
/-- MAX. -/
def execMax (h : Head) (t : Ty) (d : Reg) (a b : Src) (s : State) : Out :=
  intRR h t d a b (fun x y => if laneVal t x < laneVal t y then y else x) s
/-- AND. -/
def execAnd (h : Head) (t : Ty) (d : Reg) (a b : Src) (s : State) : Out := intRR h t d a b (· &&& ·) s
/-- ANDI. -/
def execAndi (h : Head) (t : Ty) (d : Reg) (a : Src) (i : BitVec 32) (s : State) : Out :=
  intUN h t d a (· &&& immLane t.width i) s
/-- OR. -/
def execOr (h : Head) (t : Ty) (d : Reg) (a b : Src) (s : State) : Out := intRR h t d a b (· ||| ·) s
/-- ORI. -/
def execOri (h : Head) (t : Ty) (d : Reg) (a : Src) (i : BitVec 32) (s : State) : Out :=
  intUN h t d a (· ||| immLane t.width i) s
/-- XOR. -/
def execXor (h : Head) (t : Ty) (d : Reg) (a b : Src) (s : State) : Out := intRR h t d a b (· ^^^ ·) s
/-- XORI. -/
def execXori (h : Head) (t : Ty) (d : Reg) (a : Src) (i : BitVec 32) (s : State) : Out :=
  intUN h t d a (· ^^^ immLane t.width i) s
/-- ANDN. -/
def execAndn (h : Head) (t : Ty) (d : Reg) (a b : Src) (s : State) : Out :=
  intRR h t d a b (fun x y => x &&& ~~~y) s
/-- SHL. -/
def execShl (h : Head) (t : Ty) (d : Reg) (a b : Src) (s : State) : Out :=
  intRR h t d a b (fun x y => shlLane x y.toNat) s
/-- SHLI. -/
def execShli (h : Head) (t : Ty) (d : Reg) (a : Src) (n : BitVec 6) (s : State) : Out :=
  intUN h t d a (fun x => shlLane x n.toNat) s
/-- SHR. -/
def execShr (h : Head) (t : Ty) (d : Reg) (a b : Src) (s : State) : Out :=
  intRR h t d a b (fun x y => shrLane t x y.toNat) s
/-- SHRI. -/
def execShri (h : Head) (t : Ty) (d : Reg) (a : Src) (n : BitVec 6) (s : State) : Out :=
  intUN h t d a (fun x => shrLane t x n.toNat) s
/-- ROT. -/
def execRot (h : Head) (t : Ty) (d : Reg) (a b : Src) (s : State) : Out :=
  intRR h t d a b (fun x y => rotLane x y.toNat) s
/-- ROTI. -/
def execRoti (h : Head) (t : Ty) (d : Reg) (a : Src) (n : BitVec 6) (s : State) : Out :=
  intUN h t d a (fun x => rotLane x n.toNat) s
/-- CLZ. -/
def execClz (h : Head) (t : Ty) (d : Reg) (a : Src) (s : State) : Out :=
  intUN h t d a (fun x => BitVec.ofNat _ (leadZeros x t.width)) s
/-- POPC. -/
def execPopc (h : Head) (t : Ty) (d : Reg) (a : Src) (s : State) : Out :=
  intUN h t d a (fun x => BitVec.ofNat _ (countOnes x t.width)) s
/-- BREV. -/
def execBrev (h : Head) (t : Ty) (d : Reg) (a : Src) (s : State) : Out :=
  intUN h t d a (fun x => revBits x t.width 0) s
/-- BFX. -/
def execBfx (h : Head) (t : Ty) (d : Reg) (a : Src) (pos : BitVec 6) (len : BitVec 7) (s : State) : Out :=
  intUN h t d a (bfxLane t pos.toNat (fieldLen t pos len)) s
/-- BFI. -/
def execBfi (h : Head) (t : Ty) (d : Reg) (a : Src) (pos : BitVec 6) (len : BitVec 7) (s : State) : Out :=
  intRD h d a (mapLanes2 t.width (bfiLane t.width pos.toNat (fieldLen t pos len))) s
/-- CMP. -/
def execCmp (h : Head) (t : Ty) (cc : ICond) (comb : Comb) (p : Pred) (a b : Src) (s : State) : Out :=
  .next (s.issue h {} [sop a, sop b] [] (fun l s =>
    .ok (s.writePred p (Comb.join comb (cmpLanes t cc (laneAt t.width (opv l 1).v) (opv l 0).v)))))
/-- CMPI. -/
def execCmpi (h : Head) (t : Ty) (cc : ICond) (comb : Comb) (p : Pred) (a : Src) (i : BitVec 32) (s : State) : Out :=
  .next (s.issue h {} [sop a] [] (fun l s =>
    .ok (s.writePred p (Comb.join comb (cmpLanes t cc (fun _ => immLane t.width i) (opv l 0).v)))))
/-- SEL: both sources are read (R126). -/
def execSel (h : Head) (d : Reg) (a b : Src) (p : Pred) (s : State) : Out :=
  .next (s.issue h {} [sop a, sop b] [d] (fun l s =>
    .ok (s.writeReg d (if s.st.pred p then (opv l 0).v else (opv l 1).v))))
/-- MOVI. -/
def execMovi (h : Head) (t : Ty) (d : Reg) (i : BitVec 32) (s : State) : Out :=
  .next (s.issue h {} [] [d] (fun _ s => .ok (s.writeReg d (fill t.width (immLane t.width i)))))
/-- MOVHI (R127). -/
def execMovhi (h : Head) (d : Reg) (i : BitVec 32) (s : State) : Out :=
  .next (s.issue h { ill := illStream d } [dop d] [d] (fun l s =>
    let x := (opv l 0).v
    .ok (s.writeReg d (setLane 32 (setLane 32 x 1 i) 3 i))))
/-- MOV: .Q128 keeps the tag (R127). -/
def execMov (h : Head) (t : Ty) (d : Reg) (a : Src) (s : State) : Out :=
  .next (s.issue h {} [sop a] [d] (fun l s => .ok (s.writeReg d (opv l 0).v (t == .w7 && (opv l 0).tag))))
/-- SHUF (R128). -/
def execShuf (h : Head) (t : Ty) (d : Reg) (a b : Src) (s : State) : Out :=
  .next (s.issue h {} [sop a, sop b] [d] (fun l s =>
    .ok (s.writeReg d (mapLanes t.width (shufLane t.width (opv l 0).v) (opv l 1).v))))
/-- LANEGET (R128). -/
def execLaneget (h : Head) (t : Ty) (d : Reg) (a : Src) (k : BitVec 4) (s : State) : Out :=
  .next (s.issue h {} [sop a] [d] (fun l s =>
    let x := laneAt t.width (opv l 0).v k.toNat
    .ok (s.writeReg d (if isI t then x.signExtend 128 else x.setWidth 128))))
/-- LANESET (R128). -/
def execLaneset (h : Head) (t : Ty) (d : Reg) (a : Src) (k : BitVec 4) (s : State) : Out :=
  intRD h d a (fun x y => setLane t.width y k.toNat (laneAt t.width x 0)) s
/-- BCAST (R128). -/
def execBcast (h : Head) (t : Ty) (d : Reg) (a : Src) (k : BitVec 4) (s : State) : Out :=
  .next (s.issue h {} [sop a] [d] (fun l s =>
    .ok (s.writeReg d (fill t.width (laneAt t.width (opv l 0).v k.toNat)))))

end Sys2Proof.Machine
end

