-- ==== Sys2Proof/Machine/Vector.lean ====
section
/-! DEFINITION. Class 0x4, vector floating point (06 R148 to R161). -/

namespace Sys2Proof.Machine

/-- The codes of a register's lanes. -/
def fpLanes (t : FTy) (q : Quad) : List Nat := (List.range t.lanes).map (fun k => (laneAt t.fmt.width q k).toNat)

/-- A lane operation of two sources over every lane. -/
def fpMap2 (t : FTy) (f : Nat → Nat → Nat × Flags) (a b : Quad) : List (Nat × Flags) :=
  (fpLanes t a).zipWith f (fpLanes t b)

/-- A short entry of two sources: computed lane by lane, committed by R103. -/
def fp2 (h : Head) (t : FTy) (rm : RMode) (d : Reg) (a b : Src) (f : RMode → Nat → Nat → Nat × Flags) (s : State) : Out :=
  .next (s.issue h { ill := illMode rm } [sop a, sop b] [d] (fun l s =>
    let r := fpMap2 t (f (s.mode rm)) (opv l 0).v (opv l 1).v
    s.commit (r.map (·.2)) (fun s => s.writeReg d (packCodes t.fmt.width r))))

/-- A short entry of one source. -/
def fp1 (h : Head) (t : FTy) (rm : RMode) (d : Reg) (a : Src) (f : RMode → Nat → Nat × Flags) (s : State) : Out :=
  .next (s.issue h { ill := illMode rm } [sop a] [d] (fun l s =>
    let r := (fpLanes t (opv l 0).v).map (f (s.mode rm))
    s.commit (r.map (·.2)) (fun s => s.writeReg d (packCodes t.fmt.width r))))

/-- A fused entry, which also reads D (R154). -/
def fp3 (h : Head) (t : FTy) (rm : RMode) (d : Reg) (a b : Src) (k : Fused) (s : State) : Out :=
  .next (s.issue h { ill := orIll (illMode rm) (illStream d) } [sop a, sop b, dop d] [d] (fun l s =>
    let z := fpLanes t (opv l 2).v
    let r := ((fpLanes t (opv l 0).v).zip ((fpLanes t (opv l 1).v).zip z)).map
      (fun x => t.fmt.fused k (s.mode rm) x.1 x.2.1 x.2.2)
    s.commit (r.map (·.2)) (fun s => s.writeReg d (packCodes t.fmt.width r))))

/-- The latency of FDIV and FSQRT (R144). -/
def divCycles : FTy → Nat | .f64 => 20 | _ => 12

/-- FADD. -/
def execFadd (h : Head) (t : FTy) (rm : RMode) (d : Reg) (a b : Src) (s : State) : Out := fp2 h t rm d a b t.fmt.fadd s
/-- FSUB. -/
def execFsub (h : Head) (t : FTy) (rm : RMode) (d : Reg) (a b : Src) (s : State) : Out := fp2 h t rm d a b t.fmt.fsub s
/-- FMUL. -/
def execFmul (h : Head) (t : FTy) (rm : RMode) (d : Reg) (a b : Src) (s : State) : Out := fp2 h t rm d a b t.fmt.fmul s
/-- FFMA. -/
def execFfma (h : Head) (t : FTy) (rm : RMode) (d : Reg) (a b : Src) (s : State) : Out := fp3 h t rm d a b .fma s
/-- FFMS. -/
def execFfms (h : Head) (t : FTy) (rm : RMode) (d : Reg) (a b : Src) (s : State) : Out := fp3 h t rm d a b .fms s
/-- FNFMA. -/
def execFnfma (h : Head) (t : FTy) (rm : RMode) (d : Reg) (a b : Src) (s : State) : Out := fp3 h t rm d a b .nfma s
/-- FDIV: long under R144. -/
def execFdiv (h : Head) (t : FTy) (rm : RMode) (d : Reg) (a b : Src) (s : State) : Out :=
  .next (s.issue h { ill := illMode rm } [sop a, sop b] [d] (fun l s =>
    let r := fpMap2 t (t.fmt.fdiv (s.mode rm)) (opv l 0).v (opv l 1).v
    s.long d (divCycles t) (divCycles t) (packCodes t.fmt.width r) (r.map (·.2)) true))
/-- FSQRT: long under R144. -/
def execFsqrt (h : Head) (t : FTy) (rm : RMode) (d : Reg) (a : Src) (s : State) : Out :=
  .next (s.issue h { ill := illMode rm } [sop a] [d] (fun l s =>
    let r := (fpLanes t (opv l 0).v).map (t.fmt.fsqrt (s.mode rm))
    s.long d (divCycles t) (divCycles t) (packCodes t.fmt.width r) (r.map (·.2)) true))
/-- FMIN. -/
def execFmin (h : Head) (t : FTy) (d : Reg) (a b : Src) (s : State) : Out :=
  fp2 h t .rne d a b (fun _ => t.fmt.fminmax false) s
/-- FMAX. -/
def execFmax (h : Head) (t : FTy) (d : Reg) (a b : Src) (s : State) : Out :=
  fp2 h t .rne d a b (fun _ => t.fmt.fminmax true) s
/-- FABS: the sign bit of every lane cleared (R156). -/
def execFabs (h : Head) (t : FTy) (d : Reg) (a : Src) (s : State) : Out :=
  .next (s.issue h {} [sop a] [d] (fun l s => .ok (s.writeReg d
    (mapLanes t.fmt.width (fun x => x &&& ~~~(1#t.fmt.width <<< (t.fmt.width - 1))) (opv l 0).v))))
/-- FNEG: the sign bit of every lane inverted (R156). -/
def execFneg (h : Head) (t : FTy) (d : Reg) (a : Src) (s : State) : Out :=
  .next (s.issue h {} [sop a] [d] (fun l s => .ok (s.writeReg d
    (mapLanes t.fmt.width (fun x => x ^^^ (1#t.fmt.width <<< (t.fmt.width - 1))) (opv l 0).v))))
/-- FCMP: only the compared lanes raise flags (R157). -/
def execFcmp (h : Head) (t : FTy) (cc : FCond) (comb : Comb) (p : Pred) (a b : Src) (s : State) : Out :=
  .next (s.issue h {} [sop a, sop b] [] (fun l s =>
    let r := (fpLanes t (opv l 0).v).zipWith (t.fmt.fcmp cc) (fpLanes t (opv l 1).v)
    let fl := r.map (·.2)
    let fl := if comb = .lane0 then fl.headD 0 :: (fl.drop 1).map (fun _ => 0) else fl
    s.commit fl (fun s => s.writePred p (Comb.join comb (r.map (·.1))))))
/-- FCLASS. -/
def execFclass (h : Head) (t : FTy) (d : Reg) (a : Src) (s : State) : Out :=
  .next (s.issue h {} [sop a] [d] (fun l s =>
    .ok (s.writeReg d (packLanes t.fmt.width ((fpLanes t (opv l 0).v).map (fun c => BitVec.ofNat _ (t.fmt.fclass c)))))))
/-- FRINT. -/
def execFrint (h : Head) (t : FTy) (rm : RMode) (exact : Bool) (d : Reg) (a : Src) (s : State) : Out :=
  fp1 h t rm d a (fun m => t.fmt.frint m exact) s
/-- FSCALE: B holds signed integers (R160). -/
def execFscale (h : Head) (t : FTy) (rm : RMode) (d : Reg) (a b : Src) (s : State) : Out :=
  fp2 h t rm d a b (fun m x y => t.fmt.fscale m x (BitVec.ofNat t.fmt.width y).toInt) s

/-- One addition of FREDUCE over flagged partial sums: the sum, and its flags ORed into every lane that feeds it. -/
def reduceAdd (t : FTy) (mode : RMode) (a b : Nat × List Flags) : Nat × List Flags :=
  let r := t.fmt.fadd mode a.1 b.1
  (r.1, (a.2 ++ b.2).map (orf r.2))
/-- The fixed tree of R161, a level at a time. -/
def reduceTree (t : FTy) (mode : RMode) : Nat → List (Nat × List Flags) → Nat × List Flags
  | 0, l => l.headD (0, [])
  | n + 1, l => reduceTree t mode n (pairUp l)
where
  pairUp : List (Nat × List Flags) → List (Nat × List Flags)
    | a :: b :: r => reduceAdd t mode a b :: pairUp r
    | r => r
/-- FREDUCE: long under R144. -/
def execFreduce (h : Head) (t : FTy) (rm : RMode) (d : Reg) (a : Src) (s : State) : Out :=
  .next (s.issue h { ill := illMode rm } [sop a] [d] (fun l s =>
    let r := reduceTree t (s.mode rm) 3 ((fpLanes t (opv l 0).v).map (fun c => (c, [0])))
    s.long d 8 8 (BitVec.ofNat 128 r.1) r.2 true))

end Sys2Proof.Machine
end

