-- ==== Sys2Proof/Machine/Special.lean ====
section
/-! DEFINITION. Class 0x5, special functions, the floating-point environment and random numbers (06 R162 to R172). -/

namespace Sys2Proof.Machine

/-- The latency of a special function (R144). -/
def SFn.cycles (fn : SFn) (t : FTy) : Nat :=
  match fn, t with
  | .rcp, .f64 | .rsqrt, .f64 => 16
  | .rcp, _ | .rsqrt, _ => 12
  | _, .f64 => 24
  | _, _ => 16

/-- A special function over every lane. -/
def spFn (fn : SFn) (h : Head) (t : FTy) (rm : RMode) (d : Reg) (a : Src) (s : State) : Out :=
  .next (s.issue h { ill := illMode rm } [sop a] [d] (fun l s =>
    let r := (fpLanes t (opv l 0).v).map (fn.lane t.fmt (s.mode rm))
    s.long d (fn.cycles t) (fn.cycles t) (packCodes t.fmt.width r) (r.map (·.2)) true))

/-- FEXP. -/
def execFexp (h : Head) (t : FTy) (rm : RMode) (d : Reg) (a : Src) (s : State) : Out := spFn .exp h t rm d a s
/-- FEXP2. -/
def execFexp2 (h : Head) (t : FTy) (rm : RMode) (d : Reg) (a : Src) (s : State) : Out := spFn .exp2 h t rm d a s
/-- FEXPM1. -/
def execFexpm1 (h : Head) (t : FTy) (rm : RMode) (d : Reg) (a : Src) (s : State) : Out := spFn .expm1 h t rm d a s
/-- FLOG. -/
def execFlog (h : Head) (t : FTy) (rm : RMode) (d : Reg) (a : Src) (s : State) : Out := spFn .log h t rm d a s
/-- FLOG2. -/
def execFlog2 (h : Head) (t : FTy) (rm : RMode) (d : Reg) (a : Src) (s : State) : Out := spFn .log2 h t rm d a s
/-- FLOG1P. -/
def execFlog1p (h : Head) (t : FTy) (rm : RMode) (d : Reg) (a : Src) (s : State) : Out := spFn .log1p h t rm d a s
/-- FERF. -/
def execFerf (h : Head) (t : FTy) (rm : RMode) (d : Reg) (a : Src) (s : State) : Out := spFn .erf h t rm d a s
/-- FERFC. -/
def execFerfc (h : Head) (t : FTy) (rm : RMode) (d : Reg) (a : Src) (s : State) : Out := spFn .erfc h t rm d a s
/-- FRCP. -/
def execFrcp (h : Head) (t : FTy) (rm : RMode) (d : Reg) (a : Src) (s : State) : Out := spFn .rcp h t rm d a s
/-- FRSQRT. -/
def execFrsqrt (h : Head) (t : FTy) (rm : RMode) (d : Reg) (a : Src) (s : State) : Out := spFn .rsqrt h t rm d a s

/-! ### The environment (R165, R166) -/

/-- The strand's results of classes 0x4 and 0x5 that are outstanding (R147). -/
def State.fpOut (s : State) : Bool := s.g.late.any (fun l => l.owner == s.st.serial && l.fp)

/-- Wait under R147, then go on: D receives FCSR as it stood, FCSR takes a new value. -/
def State.env (s : State) (d : Reg) (f : Lane → Lane) : Res :=
  if s.fpOut then .park .value s
  else
    let old := s.st.fcsr
    .ok ((s.modSt (fun t => { t with fcsr := f old })).writeReg d (quad2 old 0))

/-- FCSRGET. -/
def execFcsrget (h : Head) (d : Reg) (s : State) : Out := .next (s.issue h {} [] [d] (fun _ s => s.env d id))
/-- FCSRSET. -/
def execFcsrset (h : Head) (d : Reg) (a : Src) (mask : BitVec 32) (s : State) : Out :=
  .next (s.issue h {} [sop a] [d] (fun l s =>
    s.env d (fun o => (o &&& ~~~(mask.setWidth 64)) ||| (lane0 (opv l 0) &&& mask.setWidth 64))))
/-- FFLAGCLR. -/
def execFflagclr (h : Head) (d : Reg) (mask : BitVec 5) (s : State) : Out :=
  .next (s.issue h {} [] [d] (fun _ s => s.env d (fun o => o &&& ~~~(mask.setWidth 64))))

/-! ### Random numbers (R167 to R172) -/

/-- A generator state. -/
structure Gen where
  s0 : Lane
  s1 : Lane
  deriving DecidableEq, Repr

/-- One step of xorshift128+ (R167): the output and the next state. -/
def Gen.step (g : Gen) : Lane × Gen :=
  let x := g.s0
  let y := g.s1
  let z := x ^^^ (x <<< 23)
  (x + y, ⟨y, z ^^^ y ^^^ (z >>> 17) ^^^ (y >>> 26)⟩)

/-- The state as 128 bits, S0 low. -/
def Gen.bits (g : Gen) : Quad := quad2 g.s0 g.s1
/-- A state from its bits. -/
def Gen.ofBits (q : Quad) : Gen := ⟨q.setWidth 64, q.extractLsb' 64 64⟩

/-- A linear map of the state over F2: the image of each unit vector, lowest first. -/
abbrev FMap := List Quad
/-- A map applied. -/
def FMap.app (m : FMap) (v : Quad) : Quad :=
  (m.zip (List.range 128)).foldl (fun (a : Quad) x => if v.getLsbD x.2 then a ^^^ x.1 else a) 0
/-- The map M of one step (R167). -/
def stepMap : FMap := (List.range 128).map (fun k => ((Gen.ofBits (1#128 <<< k)).step.2).bits)
/-- Composition: first a, then b. -/
def FMap.comp (b a : FMap) : FMap := a.map b.app
/-- A map and its repeated squares: 1, 2, 4, … times. -/
def FMap.squares (m : FMap) : Nat → List FMap
  | 0 => [m]
  | k + 1 => m :: FMap.squares (m.comp m) k
/-- The maps of 2^k steps, k from 0 to 130. -/
def stepMaps : List FMap := stepMap.squares 130
/-- Apply the maps that the bits of n name, lowest first. -/
def FMap.pow : List FMap → Quad → Nat → Quad
  | [], v, _ => v
  | m :: r, v, n => FMap.pow r (if n % 2 = 1 then m.app v else v) (n / 2)

/-- J(n * 2^k) of the base state of a seed (R168, R169). -/
def jump (seed : Lane) (k n : Nat) : Gen :=
  let base : Gen := ⟨seed, seed ^^^ 0x9E3779B97F4A7C15⟩
  Gen.ofBits (FMap.pow (stepMaps.drop k) base.bits n)

/-- The generator of the issuing strand, stepped. -/
def State.draw (s : State) : Lane × State :=
  let r := (Gen.mk s.st.gen0 s.st.gen1).step
  (r.1, s.modSt (fun t => { t with gen0 := r.2.s0, gen1 := r.2.s1 }))

/-- RND (R171): bits [63:0] from the first step, [127:64] from the second. -/
def execRnd (h : Head) (d : Reg) (s : State) : Out :=
  .next (s.issue h {} [] [d] (fun _ s =>
    let a := s.draw
    let b := a.2.draw
    .ok (b.2.writeReg d (quad2 a.1 b.1))))

/-- RNDSTATE (R172). -/
def execRndstate (h : Head) (d : Reg) (s : State) : Out :=
  .next (s.issue h { konly := true } [] [d] (fun _ s => .ok (s.writeReg d (quad2 s.st.gen0 s.st.gen1))))

/-- RNDSTATE.W (R172): an all-zero state becomes the base state of seed 0. -/
def execRndstateW (h : Head) (d : Reg) (a : Src) (s : State) : Out :=
  .next (s.issue h { konly := true } [sop a] [d] (fun l s =>
    let o := quad2 s.st.gen0 s.st.gen1
    let x := lane0 (opv l 0)
    let y := lane1 (opv l 0)
    let s := s.modSt (fun t => { t with gen0 := x, gen1 := if x = 0 && y = 0 then 0x9E3779B97F4A7C15 else y })
    .ok (s.writeReg d o)))

end Sys2Proof.Machine
end

