-- ==== Sys2Proof/Machine/Groups.lean ====
section
/-! DEFINITION. Class 0xC, groups, tasks and launches, and the steps of the control die's queue, the dispatchers and the
rotation controllers (13 R339 to R371, R468). -/

namespace Sys2Proof.Machine

/-! ### The launch descriptor (R339 to R341) -/

/-- Ticks in a millisecond. -/
def msTicks : Nat := 1000000 * Config.nsTicks

/-- A field of a descriptor. -/
def descField (d : BitVec 512) (lo w : Nat) : Nat := (d.extractLsb' lo w).toNat

/-- The placement tiles of a die under fixed placement, in order (R342). -/
def Die.placeTiles (d : Die) (px py pw ph : Nat) : List Nat :=
  (List.range ph).flatMap (fun r =>
    (((List.range 12).filter (fun x => px ≤ x && !d.excused (12 * (py + r) + x))).take pw).map (fun x => 12 * (py + r) + x))

/-- The live virtual dies of a tenant's rectangle, rising (R341). -/
def State.tenantDies (s : State) (n : Nat) : List Nat :=
  match s.tenant? n with
  | none => []
  | some t => (List.range 128).filter (fun v =>
      s.liveDie v && t.vx0 ≤ v % 8 && v % 8 < t.vx0 + t.width && t.vy0 ≤ v / 8 && v / 8 < t.vy0 + t.height)

/-- The control die refuses a descriptor (R340, R446). -/
def State.refuses (s : State) (d : BitVec 512) (dies : List Nat) : Bool :=
  let f := descField d
  let g := f 64 32
  let n := dies.length
  let pw := f 168 4
  let ph := f 172 4
  let tooMany (i : Nat) : Bool :=
    match s.die? (dies.getD i 0) with
    | none => true
    | some x => (x.placeTiles (f 160 4) (f 164 4) pw ph).length < (g + n - 1 - i) / n
  f 384 128 != 0 || f 224 32 != 0 || f 176 16 != 0 || f 144 16 != 0 || f 117 11 != 0 || f 109 3 != 0 || f 100 4 != 0
    || f 114 2 == 3 || g == 0 || 65536 < g || f 96 4 == 0 || 8 < f 96 4 || f 104 5 < 12 || 18 < f 104 5 || f 0 64 % 4 != 0
    || (pw == 0) != (ph == 0) || 12 < f 160 4 + pw || 12 < f 164 4 + ph || n == 0
    || (pw != 0 && (List.range n).any tooMany)
    || (d.getLsbD 116 && dies.any (fun v => !(s.region (s.regionOf v)).allow))

/-- The record of a group that waits: its started strands run with all ones (R322), in instant 1. -/
def waitingGroup (num g die log2 strands : Nat) (discard : BitVec 32) : Group :=
  { gid := ⟨num, g⟩, state := .queued, homeDie := die, log2 := log2, discard := discard, instant := 1
    st := Vector.ofFn (fun (k : Fin 8) => if k.val < strands then { run := .ready } else {}) }

/-- The first descriptor of an object (R82). -/
def Object.descriptor (o : Object) : BitVec 512 :=
  BitVec.ofNat 512 (natOfBytes ((o.data.drop (o.launches.headD 0)).take 64))

/-- The fields of a descriptor that the runtime sets when it queues it: STEALDOM, PX, PY, PW, PH (R339). -/
def runtimeFields : BitVec 512 := (0xFFFF#512 <<< 160) ||| (3#512 <<< 114)

/-- A descriptor is that of the object to which ndbg is attached (R457). -/
def Debugger.describes (b : Debugger) (os : List Object) (d : BitVec 512) : Bool :=
  match os.find? (fun o => o.num == b.object) with
  | none => false
  | some o => b.object != 0 && !o.launches.isEmpty && (o.descriptor &&& ~~~runtimeFields) == (d &&& ~~~runtimeFields)

/-- The code of a launch as it stands in memory, through its tenant's tables (R130); none where one of its pages has no translation,
and the launch then fetches from memory as it stands. PRESUMED (log 15). DEDUCED (log 59). -/
def State.readCode (s : State) (l : Launch) : Option (List Byte) :=
  let v := (s.tenantDies l.tenant).headD 0
  (List.range l.codeLen).foldr (fun k (r : Option (List Byte)) =>
    match r with
    | none => none
    | some bs =>
      match (s.walk v l.tenant Config.codeSpace (l.codeBase + k)).1 with
      | .error _ => none
      | .ok e => (physKey s.dev Config.codeSpace (e.phys (l.codeBase + k))).map (fun key => s.mem.read key :: bs)) (some [])

/-- A launch begins: its code is that of the moment (R130). -/
def State.beginLaunch (s : State) (n : Nat) : State := s.modLaunch n (fun l => { l with started := true, code := s.readCode l })

/-- Queue a launch of a tenant (R340, R355): its number, given even to a refused descriptor.
DESIGN CHOICE (log 31). -/
def State.queueLaunch (s : State) (tenant : Nat) (d : BitVec 512) (codeBase codeLen : Nat) (dataRoot : Option (Nat × Nat))
    (sdata : List Byte) (after : Option Nat) : Nat × State :=
  let f := descField d
  let dies := s.tenantDies tenant
  let bad := s.refuses d dies
  let num := s.launches.length + 1
  let tnum := (((s.tenant? tenant).map (·.nextLaunch)).getD 1 - 1) % (2 ^ 32 - 1) + 1
  let attach := s.dbg.launch.isNone && s.dbg.tenant == tenant && s.dbg.describes s.objects d && !bad
  let l₀ : Launch :=
    { num := num, tnum := tnum, tenant := tenant, entry := f 0 64, groups := f 64 32, strands := f 96 4, log2 := f 104 5
      prio := f 112 2, stealdom := f 114 2, det := d.getLsbD 116, stagger := f 128 16, px := f 160 4, py := f 164 4
      pw := f 168 4, ph := f 172 4, discard := d.extractLsb' 192 32, seed := d.extractLsb' 256 64
      sigtab := d.extractLsb' 320 64, codeBase := codeBase, codeLen := codeLen, dataRoot := dataRoot, sdata := sdata
      dies := dies, after := after, started := after.isNone && !bad, queuedAt := s.now, firstPlace := none
      status := if bad then some 2 else none, cancelling := false, debugged := attach
      recov := dies.any (fun v => (s.region (s.regionOf v)).rpEn), ckpt := false, points := 0, wave := none, recs := []
      notifySeq := 0, undo := [], escrow := [], rollbacks := 0, kids := [] }
  let l : Launch := if l₀.started then { l₀ with code := s.readCode l₀ } else l₀
  let gs := if bad then [] else (List.range (f 64 32)).map (fun g =>
    waitingGroup num g (dies.getD (g % dies.length) 0) (f 104 5) (f 96 4) (d.extractLsb' 192 32))
  let s := s.modTenant tenant (fun t => { t with nextLaunch := t.nextLaunch + 1 })
  (tnum, { s with
    launches := s.launches ++ [l]
    others := s.others ++ gs
    dbg := if attach then { s.dbg with launch := some num } else s.dbg
    hostOut := if bad then s.hostOut ++ [.ended num 2] else s.hostOut })

/-- LAUNCH_QUEUE (R340, R341): a launch of the tenant's runtime. -/
def execLaunchQueue (tenant : Nat) (desc : BitVec 512) (codeBase codeLen : Nat) (dataRoot : Option (Nat × Nat))
    (sdata : List Byte) (s : State) : Out :=
  .next (if (s.tenant? tenant).isNone || s.dev.stage < 1 then s
    else (s.queueLaunch tenant desc codeBase codeLen dataRoot sdata none).2)

/-! ### The dispatchers (R342 to R346) -/

/-- The effective priority of a launch (R343). -/
def State.priority (s : State) (l : Launch) : Nat := min 3 (l.prio + (s.now - l.queuedAt) / msTicks)

/-- PRIORITY_AGEING (R343): the next whole millisecond of a launch's wait. -/
def execPriorityAgeing (launch : Nat) (s : State) : Out :=
  .next <|
    match s.launch? launch with
    | none => s
    | some l =>
      if l.status.isSome || !s.groups.any (fun g => g.gid.launch == launch && g.state == .queued) then s
      else { s with now := max s.now (l.queuedAt + ((s.now - l.queuedAt) / msTicks + 1) * msTicks) }

/-- A tile is free for a group: not excused, occupied, taking a group in a swap (R357) or kept for another's hand-over. -/
def State.tileFree (s : State) (die tile : Nat) (i : GroupId) : Bool :=
  match s.die? die with
  | none => false
  | some d => tile < 144 && !d.excused tile && !d.off.contains tile
    && !d.pairs.any (fun q => q.state == .swap && (q.hot == tile || q.cool == tile)) && !s.groups.any (fun g =>
      g.on die tile || (g.handTile == some tile && g.homeDie == die && g.gid != i && g.state == .queued))

/-- The temperature of a tile in quarters of a degree, and its wear: free values. -/
def measuredOf (fresh t : Nat) : Nat × Nat := (Config.measured (fresh + t), Config.measured (fresh + 144 + t))

/-- The coolest of some tiles: the lowest TEMP, in whole degrees, and of equals the lowest number (R342).
DEDUCED (log 39). -/
def State.coolest (s : State) (tiles : List Nat) : Option Nat :=
  let temp (t : Nat) : Nat := (measuredOf s.fresh t).1 / 4
  leastBy (fun (a b : Nat) => temp a < temp b || (temp a == temp b && a < b)) tiles

/-- The tile on which a waiting group is placed now, if it is free (R342, R366, R412). DEDUCED (log 39). -/
def State.tilesFor (s : State) (l : Launch) (g : Group) : List Nat :=
  let free (t : Nat) : Bool := s.tileFree g.homeDie t g.gid
  match s.die? g.homeDie with
  | none => []
  | some d =>
    let first : List Nat := if l.pw = 0 then (s.coolest ((List.range 144).filter free)).toList
      else ((d.placeTiles l.px l.py l.pw l.ph).filter free).take 1
    match g.state with
    | .saved => if d.excused g.logical then first else [g.logical].filter free
    | _ =>
      match g.handTile with
      | some t => [t].filter free
      | none => if l.pw = 0 then first
        else (((d.placeTiles l.px l.py l.pw l.ph)[g.gid.num / l.dies.length]?).toList).filter free

/-- A group waits in its die's queue (R322, R343): not yet placed, or saved and ready to be placed again. -/
def Group.waits (g : Group) : Bool :=
  match g.state with
  | .queued => true
  | .saved => (match g.outWhy with
      | some .saveOut => g.st.toList.any (fun t => t.run == .ready)
      | _ => true)
  | _ => false

/-- The stagger, the governor and a throttled region let a launch place a group on a die (R345, R447, R464). -/
def State.mayPlace (s : State) (l : Launch) (g : Group) : Bool :=
  let k := s.regionOf g.homeDie
  let k0 := (l.dies.map s.regionOf).foldl min 16
  let r := s.region k
  let first := !s.groups.any (fun h => h.gid.launch == l.num && h.state != .queued && s.regionOf h.homeDie == k)
  s.liveDie g.homeDie && r.governor ≤ s.now && !r.draining
    && (g.state == .saved || l.stagger == 0 || ((k == k0 || (match l.firstPlace with
          | none => false
          | some t => t + (k - k0) * l.stagger * Config.nsTicks ≤ s.now)) && !(first && s.now < r.throttleEnd)))

/-- A group may be placed now: its launch dispatches, no lower-numbered group of it waits on the die (R344), and a tile
is free. -/
def State.placeable (s : State) (g : Group) : Bool :=
  match s.launch? g.gid.launch with
  | none => false
  | some l =>
    l.started && l.status.isNone && !l.cancelling && g.waits && s.mayPlace l g && !(s.tilesFor l g).isEmpty
      && (g.state == .saved || !s.groups.any (fun h => h.gid.launch == l.num && h.state == .queued
            && h.homeDie == g.homeDie && h.gid.num < g.gid.num))

/-- The order of the dispatch queue (R343). -/
def State.ahead (s : State) (a b : Group) : Bool :=
  match s.launch? a.gid.launch, s.launch? b.gid.launch with
  | some l, some m =>
    let p := s.priority l
    let q := s.priority m
    q < p || (p == q && (l.queuedAt < m.queuedAt || (l.queuedAt == m.queuedAt && (l.num < m.num
      || (l.num == m.num && a.gid.num < b.gid.num)))))
  | _, _ => false

/-- A group is the next that its die's dispatcher places. -/
def State.nextPlaced (s : State) (g : Group) : Bool :=
  s.placeable g && !s.groups.any (fun h => h.homeDie == g.homeDie && h.gid != g.gid && s.placeable h && s.ahead h g)

/-- The capabilities that placement writes (R459, R461). -/
def placeCap (perm : BitVec 8) (space lexp mant base : Nat) : RegCell := { v := mkCap perm space lexp mant 0 base, tag := true }

/-- A strand as placement starts it (R48, R129, R168, R346, R459, R461). -/
def Launch.rootStrand (l : Launch) (g : Nat) (k : Fin 8) (serial : Nat) (old : Strand) : Strand :=
  let gen := jump l.seed 64 (8 * g + k.val)
  if l.strands ≤ k.val then { gen0 := gen.s0, gen1 := gen.s1 }
  else
    let t : Strand :=
      { run := .ready, fcap := ⟨l.codeCap l.entry, true⟩, canemit := old.canemit, canrld := old.canrld
        sp := placeCap 0b00111011 0 0 (2 ^ l.log2) 0, ra := placeCap 0b00111011 1 21 (2 ^ 23) 0
        path := BitVec.ofNat 64 (0x80000 + 8 * g + k.val), gen0 := gen.s0, gen1 := gen.s1, serial := serial }
    match l.dataRoot with
    | none => t
    | some (base, len) => t.setCell (.c 47) (placeCap 0b10111011 3 (fit len).1 (fit len).2 base)

/-- The blocks of OSEND that wait for a group land (R411). -/
def State.landWaiting (s : State) (g : GroupId) : State :=
  (s.blocks.filter (fun b => b.dst == g)).foldl (fun (s : State) b =>
    (List.range ((b.bytes.length + 63) / 64)).foldl (fun (s : State) _ =>
      match s.blocks.findIdx? (fun x => x.uid == b.uid) with
      | none => s
      | some k => match s.blocks[k]? with | none => s | some x => s.landBlock k x) s) s

/-- What the absent mailbox holds comes before the group issues (R292, R411). -/
def State.replay (s : State) (g : GroupId) : State :=
  (((s.modGroup g (fun g => { g with arrivals := g.arrivals ++ g.absent, absent := [] })).pump g).landWaiting g)

/-- A breakpoint register that is enabled (R416). -/
def breakReg (a : Nat) : Lane := bitAt 63 ||| BitVec.ofNat 64 (a % 2 ^ 44 / 4 * 4)

/-- The breakpoints that the debugger has set (R416, R457). -/
def State.breakRegs (s : State) (l : Launch) : Vector Lane 4 :=
  if l.debugged then Vector.ofFn (fun (k : Fin 4) => match s.dbg.breaks[k.val]? with
    | none => 0
    | some a => breakReg a)
  else Vector.replicate 4 0

/-- The emissions of the instant that stay at a tile from groups of a launch that have left it (R317, R320). -/
def State.leftEmits (s : State) (i : GroupId) (p : Place) : List (Nat × Sig × Bool) :=
  (s.groups.filter (fun h => h.gid.launch == i.launch && h.gid != i && h.left == some p)).flatMap (·.emits)

/-- Place a group for the first time (R199, R346, R398); its tile's instant 1 begins (R324), where an instant stop halts it (R458). -/
def State.placeGroup (s : State) (l : Launch) (g : Group) (tile : Nat) : State :=
  let base := s.nextId
  let tvec : Lane := BitVec.ofNat 64 (((s.tenant? l.tenant).map (·.handler)).getD 0 % 2 ^ 44 / 4 * 4)
  let init (x : Group) : Group :=
    { x with
      state := .resident, place := some ⟨g.homeDie, tile⟩, logical := tile, tvec := tvec, handTile := none
      emits := s.leftEmits g.gid ⟨g.homeDie, tile⟩, turnEnds := s.now
      st := Vector.ofFn (fun (k : Fin 8) => l.rootStrand g.gid.num k (base + k.val) x.st[k]), dbgbp := s.breakRegs l }
  let load (x : Group) : Group := if x.inherit = 0 then x.writeSp 0 l.sdata else x
  let s := { s with nextId := base + 8, fresh := s.fresh + 144 }.modGroup g.gid (fun x => load (init x))
  let band := if l.firstPlace.isNone then s.bandOf l else l.band
  let s := s.modLaunch l.num (fun l => { l with firstPlace := some (l.firstPlace.getD s.now), band := band })
  let s := (slots.filter (fun k => k.val < l.strands)).foldl (fun (s : State) k => s.atStrand ⟨g.gid, k⟩ State.newEpoch) s
  let s := (s.traceWave (.placed s.now g.gid g.homeDie tile)).replay g.gid
  if s.instantStop g.gid 1 then s.halt g.gid else s

/-- GROUP_PLACEMENT (R342 to R346). DEDUCED (log 39). -/
def execGroupPlacement (g : GroupId) (tile : Nat) (s : State) : Out :=
  .next <|
    match s.group? g, s.launch? g.launch with
    | some x, some l => if x.state == .queued && s.nextPlaced x && (s.tilesFor l x).contains tile then s.placeGroup l x tile else s
    | _, _ => s

/-! ### Tasks (R347 to R350, R353) -/

/-- The steal domain of a group: the groups of its launch in its die, its power region, or everywhere (R339, R349). -/
def State.domain (s : State) (l : Launch) (g : Group) : List Group :=
  s.groups.filter (fun h => h.gid.launch == l.num && match l.stealdom with
    | 0 => h.homeDie == g.homeDie
    | 1 => s.regionOf h.homeDie == s.regionOf g.homeDie
    | _ => true)
/-- The scope of a steal domain (R348). -/
def Launch.stealScope (l : Launch) : Scope := match l.stealdom with | 0 => .die | 1 => .region | _ => .device
/-- That of the issuing strand's launch. -/
def State.stealScope (s : State) : Scope := (s.myLaunch.map Launch.stealScope).getD .die

/-- A group of a pair in HOLD (R357). -/
def State.holding (s : State) (g : Group) : Bool :=
  match g.place with
  | none => false
  | some p => ((s.die? p.die).map (fun d => d.pairs.any (fun q => q.state == .hold && (q.hot == p.tile || q.cool == p.tile)))).getD false

/-- A strand of the join store may return: its children are done, or the group is dead (R353). -/
def Stored.returns (x : Stored) : Bool := x.dead || x.st.outc == 0

/-- The first slot that can take a strand. -/
def Group.idleSlot (g : Group) : Option (Fin 8) := slots.find? (fun k => (g.st[k]).run == .idle && !(g.st[k]).held)

/-- A slot of a group can start a strand now. -/
def State.canStart (s : State) (g : Group) : Bool := g.state == .resident && g.stop.isNone && !g.dhalt && !s.holding g

/-- A strand that a task starts (R348, R169). -/
def Launch.taskStrand (l : Launch) (r : TaskRec) (old : Strand) (serial : Nat) : Strand :=
  let gen := if l.det then jump l.seed 62 (2 ^ 64 + r.path.toNat) else ⟨old.gen0, old.gen1⟩
  let t : Strand :=
    { run := .ready, fcap := ⟨l.codeCap r.target.toNat, true⟩, canemit := r.cur, canrld := r.rld, path := r.path
      gen0 := gen.s0, gen1 := gen.s1, task := true, parent := some r.parent, parentTag := r.parentTag
      serial := serial, clock := r.clock }
  (t.setCell (.c 1) { v := r.a.v, tag := r.a.tag }).setCell (.c 2) { v := r.b.v, tag := r.b.tag }

/-- A generator state advanced by 2^63 steps (R353). -/
def Gen.far (g : Gen) : Gen := Gen.ofBits (FMap.pow (stepMaps.drop 63) g.bits 1)

/-- The strand is parked at JOIN. -/
def Strand.atJoin (t : Strand) : Bool := match t.run with | .parked .join => true | _ => false

/-- JOIN_STORE_MOVE (R353): a strand parked at JOIN leaves its slot to a record when no slot is idle: the one that parks there
now, else the first. -/
def Group.storeMove (g : Group) (det : Bool) (parks : Option (Fin 8) := none) : Group :=
  if g.deque.isEmpty || 8 ≤ g.store.length || g.st.toList.any (fun t => t.run == .idle) then g
  else
    match (parks.toList ++ slots).find? (fun k => (g.st[k]).atJoin && 0 < (g.st[k]).outc) with
    | none => g
    | some k =>
      let t := g.st[k]
      let gen : Gen := ⟨t.gen0, t.gen1⟩
      let gen := if det then gen else gen.far
      { g.modSt k (fun _ => { gen0 := gen.s0, gen1 := gen.s1 }) with store := g.store ++ [⟨t, false⟩] }

/-- The move, for a group of a launch. -/
def State.storeMoves (s : State) (i : GroupId) (parks : Option (Fin 8) := none) : State :=
  (s.modGroup i (fun g => if g.state == .resident then g.storeMove (s.detOf ⟨i, 0⟩) parks else g)).releaseGbar i

/-- A slot pops the bottom record of its group's deque and starts a strand from it (R348); where that fills the last idle slot, a
strand at JOIN leaves its own to the next record (R353). -/
def State.startTask (s : State) (l : Launch) (w : StrandId) : State :=
  match (s.group? w.g).bind (fun g => g.deque.getLast?) with
  | none => s
  | some r =>
    let s := { s with nextId := s.nextId + 1 }.modGroup w.g (fun g =>
      { g.modSt w.slot (fun t => l.taskStrand r t s.nextId) with deque := g.deque.dropLast, stealAt := 0 })
    (if 2 ≤ scopeWide l.stealScope then s.atStrand w State.newEpoch else s).storeMoves w.g

/-- TASK_START (R348): an idle slot, when no stored strand returns first. -/
def execTaskStart (w : StrandId) (s : State) : Out :=
  .next <|
    match s.group? w.g, s.launch? w.g.launch with
    | some g, some l =>
      if (g.st[w.slot]).run == .idle && s.canStart g && !l.cancelling && !g.store.any Stored.returns then s.startTask l w else s
    | _, _ => s

/-- Every slot of a group is idle and its deque is empty. -/
def Group.idleAll (g : Group) : Bool := g.st.toList.all (fun t => t.run == .idle) && g.deque.isEmpty

/-- The groups that an idle group asks, in order (R349). -/
def State.victims (s : State) (l : Launch) (g : Group) : List GroupId :=
  let d := (s.domain l g).map (·.gid)
  let up := (List.range l.groups).filter (fun n => g.gid.num < n) ++ List.range g.gid.num
  (up.map (fun n => (⟨l.num, n⟩ : GroupId))).filter (fun i => d.contains i)

/-- STEAL_REQUEST (R349): the request of an idle group reaches the next victim, which hands over its oldest record when it
holds two or more. -/
def execStealRequest (g : GroupId) (s : State) : Out :=
  .next <|
    match s.group? g, s.launch? g.launch with
    | some x, some l =>
      let vs := s.victims l x
      if l.det || x.state != .resident || !x.idleAll || x.stealing || l.cancelling then s
      else
        match vs[x.stealAt % max 1 vs.length]? with
        | none => s
        | some v =>
          let d := ((s.group? v).map (·.deque)).getD []
          let give := 2 ≤ d.length
          let st : Steal := ⟨g, v, if give then d.head? else none⟩
          let s := if give then s.modGroup v (fun y => { y with deque := y.deque.drop 1 }) else s
          { s with steals := s.steals ++ [st] }.modGroup g (fun x => { x with stealing := true })
    | _, _ => s

/-- STEAL_REPLY (R349): a record is pushed and popped at once, behind a stored strand that returns (R353); a refusal lets the
thief ask the next group, where it has asked in order since it fell idle. -/
def execStealReply (g : GroupId) (s : State) : Out :=
  .next <|
    match s.steals.find? (fun x => x.thief == g), s.launch? g.launch with
    | some x, some l =>
      if l.cancelling then s
      else
      let s := { s with steals := s.steals.erase x }
      match x.rec_ with
      | none =>
        let asked (g : Group) : Bool := (s.victims l g)[g.stealAt % max 1 (s.victims l g).length]? == some x.victim
        s.modGroup g (fun g => { g with stealing := false, stealAt := if asked g then g.stealAt + 1 else g.stealAt })
      | some r =>
        let s := s.modGroup g (fun g => { g with stealing := false, stealAt := 0, deque := g.deque ++ [r] })
        match s.group? g with
        | none => s
        | some y => match (if s.canStart y && !y.store.any Stored.returns then y.idleSlot else none) with
          | some k => s.startTask l ⟨g, k⟩
          | none => s
    | _, _ => s

/-- JOIN_STORE_RETURN (R353): the first stored strand that may return goes to the first idle slot, ahead of any pop. -/
def execJoinStoreReturn (g : GroupId) (s : State) : Out :=
  .next <|
    match s.group? g with
    | none => s
    | some x =>
      let cancelling := ((s.launch? g.launch).map (·.cancelling)).getD false
      match x.store.find? Stored.returns, (if s.canStart x && !cancelling then x.idleSlot else none) with
      | some e, some k =>
        let back : Strand := { e.st with run := .ready, joinDead := e.dead }
        (s.modGroup g (fun x => { x.modSt k (fun _ => back) with store := x.store.erase e, stealAt := 0 })).storeMoves g
      | _, _ => s

/-- JOIN_DEADLOCK (R353): every slot at JOIN, the store full, a record waiting, and no child of those strands running.
DEDUCED (log 30). -/
def execJoinDeadlock (g : GroupId) (s : State) : Out :=
  .next <|
    match s.group? g with
    | none => s
    | some x =>
      let ids := x.allStrands.map (·.serial)
      let kin := s.groups.filter (fun h => h.gid.launch == g.launch && h.gid != g)
      let child := kin.any (fun h => h.st.toList.any (fun t => t.task && t.run != .idle && ids.contains t.parentTag))
      if x.state == .resident && x.st.toList.all Strand.atJoin && x.store.length == 8 && !x.deque.isEmpty && !child then
        let s := s.modGroup g (fun x => { x with store := x.store.map (fun e => { e with dead := true }) })
        slots.foldl (fun (s : State) k => s.trapStrand ⟨g, k⟩ ⟨.watchdog, 0, 0x02, 0⟩) s
      else s

/-- WATCHDOG (R352): the count of a strand has reached WDLIM; a park that is no yield point is abandoned.
DEDUCED (log 22). -/
def execWatchdog (w : StrandId) (s : State) : Out :=
  .next <|
    match s.group? w.g with
    | none => s
    | some g =>
      let t := g.st[w.slot]
      let runs := match t.run with | .ready | .parked _ => t.leaves | _ => false
      if runs && g.state == .resident && !t.stopped && !t.held && !g.dhalt && t.wdlim != 0
          && t.wdlim.toNat ≤ t.count s.now (s.cycOf g) then
        (s.abandon w).trapStrand w ⟨.watchdog, 0, 0x01, 0⟩
      else s

/-! ### The end of groups and launches (R350, R355, R366, R468) -/

/-- A stream is neither finished nor abandoned (R252): an output with elements not yet performed, an input with units that its
strand has not taken. -/
def StreamD.busy (d : StreamD) : Bool :=
  !d.exhausted && (if d.output then !d.buffer.isEmpty || !d.pieces.isEmpty else d.moved < d.units || !d.pieces.isEmpty || d.pause.isSome)

/-- The copy unit of a group still has work (R350, R252): a bulk operation, a unit to count down, a stream. -/
def State.copyBusy (s : State) (g : Group) : Bool :=
  g.ops.any (fun o => !o.abandoned || !o.pieces.isEmpty) || s.landed.any (fun l => l.g == g.gid) || g.streams.any StreamD.busy

/-- A group may retire (R350). -/
def State.mayRetire (s : State) (g : Group) : Bool :=
  match s.launch? g.gid.launch with
  | none => false
  | some l =>
    g.state == .resident && g.idleAll && g.store.isEmpty && !s.copyBusy g
      && !(s.domain l g).any (fun h => h.allStrands.any (fun t => 0 < t.outc))

/-- What is left of a group in its launch's instant: its own summary (R317). -/
def Group.retired (g : Group) : Group :=
  { gid := g.gid, state := .retired, homeDie := g.homeDie, logical := g.logical, log2 := g.log2, instant := g.instant
    em := g.em, emits := g.emits, prevEm := g.prevEm, trig := g.trig, left := g.place }

/-- Return of every load in flight of a group and echo of its probes (R239): its channels are performed. -/
def State.settleLoads (s : State) (i : GroupId) : State :=
  let mine (a : Agent) : Bool := match a with | .strand g _ => g == i | .copyUnit g => g == i | _ => false
  let cs := (s.chans.filter (fun c => mine c.1.src && (match c.1.home with | .inbox _ => false | _ => true))).map (·.1)
  let s := cs.foldl (fun (s : State) c => State.drainTo s.chanFuel c none s) s
  let s : State := { s with rets := (s.rets.filter (fun r => !(r.who.g == i && r.trail.lost))).map (fun (r : InFlight) =>
    if r.who.g == i then { r with trail := {} } else r) }
  let rs := (s.rets.filter (fun r => r.who.g == i)).map (·.id)
  rs.foldl (fun (s : State) id =>
    match s.rets.findIdx? (fun x => x.id == id) with
    | some k => s.returnOne k
    | none => s) s

/-- The dirty lines of a die are written back, and what waits behind its slices is performed. DEDUCED (log 38). -/
def State.writeBackAll (s : State) (v : Nat) : State :=
  let keys := (((s.die? v).map (·.lines)).getD []).map (·.key)
  let s := keys.foldl (fun (s : State) k => s.flushLine v (k * 64) true) s
  ((s.chans.filter (fun c => match c.1.src with | .slice d _ => d == v | _ => false)).map (·.1)).foldl
    (fun (s : State) c => s.drainBack c) s

/-- What the strands and copy units of a launch have entered is performed, and what its dies' slices hold is written back: before
the notice of its end (R241, R468). -/
def State.performAll (s : State) (n : Nat) : State :=
  let s := (s.groupsOf n).foldl (fun (s : State) g => s.settleLoads g.gid) s
  (((s.launch? n).map (·.dies)).getD []).foldl State.writeBackAll s

/-- The end of a launch: its status, the notice to the host, and its pools (R241, R355, R372). DEDUCED (log 32). -/
def State.endLaunch (s : State) (n status : Nat) : State :=
  let s := s.performAll n
  let s := (s.pools.filter (fun p => p.launch == n)).foldl (fun (s : State) p => s.freePool p.num) s
  let esc := ((s.launch? n).map (·.escrow)).getD []
  let s := if status = 0 then esc.foldl (fun (s : State) e => { s with mem := s.mem.write e.1 e.2 }) s else s
  { s with hostOut := s.hostOut ++ [HostEvent.ended n status] }.modLaunch n (fun l =>
    { l with status := some status, wave := none, recs := [], undo := [], escrow := [] })

/-- A group retires; with the last group its launch ends. -/
def State.retire (s : State) (g : Group) : State :=
  let s := s.modGroup g.gid Group.retired
  if s.groups.all (fun h => h.gid.launch != g.gid.launch || h.state == .retired) then s.endLaunch g.gid.launch 0 else s

/-- GROUP_RETIRE (R350). -/
def execGroupRetire (g : GroupId) (s : State) : Out :=
  .next <|
    match s.group? g with
    | none => s
    | some x => if s.mayRetire x then s.retire x else s

/-- HandOver (R366): the tile keeps the allocation for a group that has never been placed. -/
def State.handOver (s : State) (old : Group) (n : Nat) : State :=
  let next : GroupId := ⟨old.gid.launch, n⟩
  let ok := match s.group? next with
    | none => false
    | some h => h.state == .queued && h.homeDie == old.homeDie && !s.groups.any (fun k =>
        k.gid.launch == next.launch && k.state == .queued && k.homeDie == old.homeDie && k.gid.num < n)
  match ok, old.place with
  | true, some p =>
    s.modGroup next (fun h =>
      { h with handTile := some p.tile, inherit := old.gid.num + 1, spad := old.spad, spTags := old.spTags
               spEmpty := old.spEmpty, badWords := old.badWords })
  | _, _ => s

/-- DEPENDENT_LAUNCH_RELEASE (R354): every group of the launch that issued it has triggered or retired. -/
def execDependentLaunchRelease (launch : Nat) (s : State) : Out :=
  .next <|
    match s.launch? launch with
    | none => s
    | some l =>
      match l.after with
      | none => s
      | some p =>
        if l.started || l.status.isSome || s.groups.any (fun g => g.gid.launch == p && !g.trig && g.state != .retired) then s
        else s.beginLaunch launch

/-- A strand is in a committed park, or at the end of one, which the completion of its instruction follows (R404). -/
def Strand.committed (t : Strand) : Bool :=
  match t.run, t.prog with
  | .parked y, _ => y.committed
  | .ready, .copied _ => true
  | _, _ => false

/-- What a cancelled launch still has on its way, without what has entered channels (R468). -/
def State.dropLaunch (s : State) (n : Nat) : State :=
  let mine (i : GroupId) : Bool := i.launch == n
  let keep (m : Msg) : Bool := match m.act with | .mail _ => false | _ => true
  let keepO (m : OmcMsg) : Bool := !mine m.key.who.g
  { s with
    chans := (s.chans.map (fun (c : ChanId × List Msg) =>
      (c.1, match c.1.home with | .inbox g => if mine g then c.2.filter keep else c.2 | _ => c.2))).filter (fun c => !c.2.isEmpty)
    blocks := s.blocks.filter (fun b => !mine b.dst)
    landed := s.landed.filter (fun l => !mine l.g)
    held := s.held.filter (fun x => match x.1.src with | .copyUnit g => !mine g | _ => true)
    linkWords := s.linkWords.filter (fun x => !mine x.dst)
    rets := s.rets.filter (fun r => !mine r.who.g)
    steals := s.steals.filter (fun x => !mine x.thief)
    replies := s.replies.filter (fun r => !mine r.take.who.g)
    takes := s.takes.filter (fun f => !mine f.take.who.g)
    msgAcks := s.msgAcks.filter (fun a => !mine a.key.who.g)
    oprobes := s.oprobes.filter (fun p => !mine p.who.g)
    pools := s.pools.map (fun p => { p with exact := p.exact.filter (fun x => !mine x.who.g) })
    relayAcks := s.relayAcks.filter (fun a => !mine a.key.who.g)
    dies := s.dies.map (fun d => { d with sendq := d.sendq.filter keepO, relay := d.relay.filter keepO }) }

/-- The groups of a launch go, and it ends with status 1 (R468). -/
def State.cancelled (s : State) (n : Nat) : State :=
  let s := (s.dropLaunch n).mapGroups (fun g => if g.gid.launch = n then { g.retired with emits := [] } else g)
  s.endLaunch n 1

/-- LAUNCH_CANCEL (R468): strands stop at their next boundary; a committed park ends first. DEDUCED (log 44). -/
def execLaunchCancel (launch : Nat) (s : State) : Out :=
  .next <|
    match s.launch? launch with
    | none => s
    | some l =>
      if l.status.isSome then s
      else
        let s := s.modLaunch launch (fun l => { l with cancelling := true })
        let s := s.mapGroups (fun g => if g.gid.launch != launch then g
          else g.mapSt (fun t => if t.committed then t else { t with stopped := true }))
        if s.groups.any (fun g => g.gid.launch == launch && g.state == .resident && g.st.toList.any Strand.committed) then s
        else
          let kids := s.launches.filter (fun x => x.after == some launch && !x.started && x.status.isNone)
          (kids.foldl (fun (s : State) x => s.cancelled x.num) s).cancelled launch

/-! ### Tile rotation (R356 to R360) -/

/-- The controller passes over a tile: debugger halt, stop, or hand-over (R356). -/
def State.passesOver (s : State) (die t : Nat) : Bool :=
  s.groups.any (fun g => (g.on die t && (g.dhalt || g.stop.isSome || g.state == .swapping))
    || (g.handTile == some t && g.homeDie == die && g.state == .queued))

/-- Form the pairs of an interval (R356). -/
def formPairs (m : Nat → Nat × Nat) (tdiff : Nat) : Nat → List Nat → List Nat → List (Nat × Nat)
  | 0, _, _ => []
  | n + 1, occupied, tiles =>
    let hotter (a b : Nat) : Bool := (m b).1 < (m a).1 || ((m a).1 == (m b).1 && ((m b).2 < (m a).2 || ((m a).2 == (m b).2 && a < b)))
    let cooler (a b : Nat) : Bool := (m a).1 < (m b).1 || ((m a).1 == (m b).1 && ((m a).2 < (m b).2 || ((m a).2 == (m b).2 && a < b)))
    match leastBy hotter occupied, leastBy cooler tiles with
    | some h, some c =>
      if h = c || (m h).1 < (m c).1 + tdiff then []
      else
        let rest (l : List Nat) : List Nat := l.filter (fun t => t != h && t != c)
        (h, c) :: formPairs m tdiff n (rest occupied) (rest tiles)
    | _, _ => []

/-- Ticks of a die's rotation interval (R359). -/
def Die.rotTicks (d : Die) : Nat := max d.interval 65536 * Config.cycleTicks

/-- The strands of a group that stand at yield points are held (R357). -/
def Strand.standsAtYield (t : Strand) : Bool :=
  match t.run with | .idle | .paused _ => true | .parked y => y.yields | .ready => false
/-- Hold those of a group. -/
def Group.hold (g : Group) : Group := g.mapSt (fun t => if t.standsAtYield then { t with held := true } else t)
/-- Record a rotation state of a group whose streams the debugger records (R465). -/
def State.traceRotation (s : State) (die : Nat) (q : Pair) (code : Nat) : State :=
  (s.groups.filter (fun g => g.on die q.hot || g.on die q.cool)).foldl
    (fun (s : State) g => s.traceStream g.gid (.rotation s.now q.hot q.cool code)) s

/-- ROTATION_INTERVAL (R356): thermal steps fall, the tiles are ranked, and pairs are formed in HOLD.
DESIGN CHOICE (log 9). -/
def execRotationInterval (die : Nat) (s : State) : Out :=
  .next <|
    match s.die? die with
    | none => s
    | some d =>
      let t := max s.now (d.intervalStart + d.rotTicks)
      let m := measuredOf s.fresh
      let s := { s with now := t, fresh := s.fresh + 288 }
      let tiles := (List.range 144).filter (fun k => !d.excused k && !s.passesOver die k)
      let occupied := tiles.filter (fun k => s.groups.any (fun g => g.on die k))
      let ps := formPairs m d.tdiff (min 8 d.pairsMax) occupied tiles
      let pairs := (List.range ps.length).map (fun i =>
        let p := ps.getD i (0, 0)
        (⟨d.nextPair + i, p.1, p.2, .hold, t⟩ : Pair))
      let s := s.modDie die (fun d =>
        { d with intervalStart := t, tsteps := [], pairs := d.pairs ++ pairs, nextPair := d.nextPair + ps.length })
      pairs.foldl (fun (s : State) q => (s.onPair die q Group.hold).traceRotation die q 0) s

/-- A pair of a die by number. -/
def State.pair? (s : State) (die k : Nat) : Option Pair := (s.die? die).bind (fun d => d.pairs.find? (fun q => q.num == k))
/-- Every strand is held or idle (R357). -/
def Group.allHeld (g : Group) : Bool := g.st.toList.all (fun t => t.held || t.run == .idle)

/-- A channel of a strand of a group still holds something (R239). -/
def State.channelsOpen (s : State) (i : GroupId) : Bool :=
  s.chans.any (fun c => match c.1.src with | .strand g _ => g == i && !c.2.isEmpty | _ => false)

/-- SWAP (R357, R358): a pair whose strands are all held begins to exchange groups, once their loads have returned and a probe
would echo in each of their channels (R239); it has begun by the limit of HOLD. -/
def execSwap (die k : Nat) (s : State) : Out :=
  .next <|
    match s.pair? die k with
    | none => s
    | some q =>
      let gs := s.groups.filter (fun g => g.on die q.hot || g.on die q.cool)
      let t := gs.foldl (fun (s : State) g => s.settleLoads g.gid) s
      if q.state != .hold || !gs.all (fun g => g.allHeld && g.mx.isEmpty && g.state == .resident && !t.channelsOpen g.gid) then s
      else
        let since := min s.now (q.since + ((s.die? die).map Die.rotTicks).getD 0 / 4)
        let s := (t.onPair die q (fun g => { g with state := .swapping })).traceRotation die q 1
        s.modDie die (fun d => { d with pairs := updateFirst (fun p => p.num == k) (fun p => { p with state := .swap, since := since }) d.pairs })

/-- DONE (R357, R358): the group map names the new tiles. -/
def execDone (die k : Nat) (s : State) : Out :=
  .next <|
    match s.pair? die k with
    | none => s
    | some q =>
      if q.state != .swap then s
      else
        let move (g : Group) : Group :=
          if !(g.on die q.hot || g.on die q.cool) then g
          else
            let t := if g.on die q.hot then q.cool else q.hot
            { g.unhold with state := .resident, place := some ⟨die, t⟩, swaps := (g.swaps + 1) % 2 ^ 32 }
        ((s.traceRotation die q 2).mapGroups move).endPair die k

/-- Every strand of both groups of a pair is held or idle (R357). -/
def State.pairHeld (s : State) (die : Nat) (q : Pair) : Bool :=
  (s.groups.filter (fun g => g.on die q.hot || g.on die q.cool)).all Group.allHeld

/-- SKIP (R357, R359): the limit of HOLD, where not every strand is held; the hot tile runs one clock step lower until the next
interval's end. -/
def execSkip (die k : Nat) (s : State) : Out :=
  .next <|
    match s.die? die, s.pair? die k with
    | some d, some q =>
      if q.state != .hold || s.pairHeld die q then s
      else
        let s := { s with now := max s.now (q.since + d.rotTicks / 4) }
        let step := min 15 (s.stepOf die q.hot + 1)
        let skip (g : Group) : Group := { g.unhold with skips := (g.skips + 1) % 2 ^ 32 }
        let s := ((s.traceRotation die q 3).onPair die q skip).endPair die k
        s.modDie die (fun d => { d with tsteps := insertKey d.tsteps q.hot step })
    | _, _ => s

/-- The pairs in HOLD of a die whose limit has passed by a time and whose strands are not all held are skipped (R357). -/
def State.skipBy (s : State) (die t : Nat) : State :=
  match s.die? die with
  | none => s
  | some d =>
    (d.pairs.filter (fun q => q.state == .hold && q.since + d.rotTicks / 4 ≤ t)).foldl (fun (s : State) q =>
      match execSkip die q.num s with | .next u => u | _ => s) s

/-! ### The instructions (R362 to R371) -/

/-- The group whose deque takes a FORK's record (R363). -/
def State.forkTarget (s : State) (path : Lane) : Group :=
  match s.myLaunch with
  | none => s.g
  | some l =>
    if !l.det then s.g
    else
      let d := (s.domain l s.g).map (·.gid.num)
      let ns := (List.range l.groups).filter (fun n => d.contains n)
      let h := (path * 0x9E3779B97F4A7C15).toNat / 2 ^ 32
      (s.group? ⟨l.num, ns.getD (h % max 1 ns.length) s.g.gid.num⟩).getD s.g

/-- FORK (R363). -/
def execFork (h : Head) (p : Pred) (a b : PSrc) (off : BitVec 32) (s : State) : Out :=
  .next (s.issue h { ill := fun s => if 64 ≤ s.st.nchild then some 0x10 else none } [pop1 a, pop1 b] [] (fun l s =>
    s.fenceThen s.stealScope .rel 0 (fun s =>
      let path := (s.st.path <<< 6) ||| BitVec.ofNat 64 s.st.nchild
      let q := s.forkTarget path
      if 64 ≤ q.deque.length then
        if s.det then .park .dequeFull s else .ok (s.writePred p false)
      else
        let c := if s.det then bump s.st.serial s.st.clock else s.st.clock
        let target := BitVec.ofNat 64 (((s.st.pc : Int) + 12 * off.toInt) % 2 ^ 44).toNat
        let r : TaskRec :=
          { target := target, a := ⟨(opv l 0).v, (opv l 0).tag⟩, b := ⟨(opv l 1).v, (opv l 1).tag⟩, path := path
            parent := s.me, parentTag := s.st.serial, cur := s.st.canemit, rld := s.st.canrld, clock := c }
        let s := s.modSt (fun t => { t with nchild := t.nchild + 1, outc := t.outc + 1, clock := c })
        let s := s.modGroup q.gid (fun g => { g with deque := g.deque ++ [r] })
        .ok ((s.writePred p true).storeMoves q.gid))))

/-- What follows the wait of a JOIN: the children's releases join the order chain, and FENCE.ACQ at the steal scope. -/
def State.joined (s : State) (k : State → Res) : Res :=
  let s := if s.st.woken then s else s.modSt (fun t => { t with prog := .fenced 2, clock := joinClock t.clock t.kidClock })
  let r := s.fenceRun s.stealScope .acq s.st.tmask 2
  if r.1 then k r.2 else .park .yieldFence r.2

/-- A strand has stood at a yield point and goes on: its watchdog count is cleared and runs from the next cycle, a pair in HOLD
holds it, a stop falls at it (R351, R352, R357, R403). -/
def Strand.atYieldPoint (t : Strand) (g : Group) (hold : Bool) (next : Nat) : Strand :=
  let held := t.held || hold
  let stopped := t.stopped || g.stop.isSome
  { t with wdcount := 0, wdFrom := if held || stopped then none else some next, held := held, stopped := stopped }

/-- The issuing strand has stood at a yield point in this cycle. -/
def State.yielded (s : State) : State := s.modSt (fun t => t.atYieldPoint s.g (s.holding s.g) (s.now + s.cyc))

/-- JOIN (R364): a yield point whether or not it parks. -/
def execJoin (h : Head) (s : State) : Out :=
  .next (s.issue h {} [] [] (fun _ s =>
    if s.st.outc = 0 then s.joined (fun s => .ok s.yielded)
    else .raw ((s.modSt (fun t => t.park .join s.now s.cyc)).storeMoves s.g.gid (some s.slot))))

/-- YIELD (R365): a yield point in its cycle; a pair in HOLD holds the strand, and a stop falls at it. -/
def execYield (h : Head) (s : State) : Out :=
  .next (s.issue h {} [] [] (fun _ s => .ok s.yielded))

/-- A strand's task is done: its parent, wherever it is, counts one child less (R366). -/
def State.reportDone (s : State) (t : Strand) : State :=
  match t.task, t.parent with
  | true, some w =>
    let c := bump t.serial t.clock
    let got (x : Strand) : Strand :=
      if x.serial != t.parentTag then x
      else
        let x := { x with outc := x.outc - 1, kidClock := joinClock x.kidClock c }
        if x.outc = 0 && x.atJoin then { x with run := .ready } else x
    let inGroup (g : Group) : Group :=
      if g.gid.launch != w.g.launch || g.state == .retired then g
      else { g.mapSt got with store := g.store.map (fun e => { e with st := got e.st }) }
    s.mapGroups inGroup
  | _, _ => s

/-- The slot of the issuing strand becomes idle: no can-emit bits are left (R315), its results in flight still arrive, and the
barriers of the instant that it has completed are remembered (R175). -/
def State.clearSlot (s : State) : State :=
  let t := s.st
  let idle (t : Strand) : Strand := { gen0 := t.gen0, gen1 := t.gen1, held := t.held, stopped := t.stopped, canemit := 0 }
  { s with oprobes := s.oprobes.filter (fun p => !s.myProbe p)
           g := { s.g.modSt s.slot idle with goneBars := if t.bars.isEmpty then s.g.goneBars else s.g.goneBars ++ [(t.serial, t.bars)] } }

/-- A HALT that has acted as JOIN stands before or in the acquire of it (R364, R366). -/
def Strand.joining (t : Strand) : Bool :=
  match t.prog with
  | .fenced j => j == 0 || j == 2
  | .probing _ .acq _ _ | .writingBack _ .acq _ _ => true
  | _ => false

/-- What follows the JOIN of a HALT: its writes are released, its messages are waited for, and the slot becomes idle; with
RETAIN the tile is handed over where the group retires. -/
def State.halting (s : State) (retain : Option (BitVec 16)) : Res :=
  let s := s.modSt (fun t => { t with clock := joinClock t.clock t.kidClock, kidClock := [] })
  s.fenceThen .device .rel 3 (fun s =>
    if !s.st.outstanding.isEmpty then .park .yieldMessages s
    else
      let t := s.st
      let s := ((s.clearSlot).reportDone t).releaseGbar s.g.gid
      .raw (match retain with
        | none => s
        | some n => if s.mayRetire s.g then (s.retire s.g).handOver s.g n.toNat else s)) .yieldFence

/-- HALT (R366): acts as JOIN while children are out, then waits for the strand's writes and its messages. -/
def execHalt (h : Head) (retain : Option (BitVec 16)) (s : State) : Out :=
  .next (s.issue h {} [] [] (fun _ s =>
    if 0 < s.st.outc then
      .raw ((s.modSt (fun t => { t.park .join s.now s.cyc with prog := .fenced 0 })).storeMoves s.g.gid (some s.slot))
    else if s.st.joining then s.joined (fun s => s.halting retain)
    else s.halting retain))

/-- The 512 bits of a descriptor at a capability's cursor. DEDUCED (log 33). DEDUCED (log 57). -/
def State.readDescriptor (s : State) (c : Quad) : Except Trap (BitVec 512) × State :=
  let r := s.engWords c 0 64 true false
  match r.1 with
  | .error (some p) => (.error ⟨.xlate, 0, p.detail - 0x80, p.ptr⟩, r.2)
  | .error none => (.error ⟨.xlate, 0, 0x01, 0⟩, r.2)
  | .ok ws =>
    let bs := ws.flatMap (fun w => match w.target with
      | .mem key => r.2.mem.reads key w.len
      | .sp _ _ => List.replicate w.len 0)
    (.ok (BitVec.ofNat 512 (natOfBytes bs)), r.2)

/-- The tenant's device-side queue: launches queued by LAUNCH and not yet dispatched (R355). -/
def State.deviceQueue (s : State) (tenant : Nat) : Nat :=
  (s.launches.filter (fun l => l.tenant == tenant && l.after.isSome && l.status.isNone && l.firstPlace.isNone)).length

/-- LAUNCH (R367): checks, FENCE.DEVICE.REL, the committed park of the copy, and the queue. DESIGN CHOICE (log 31).
DEDUCED (log 33). -/
def execLaunch (h : Head) (d : Reg) (a : PSrc) (s : State) : Out :=
  .next (s.issue h {} [pop1 a] [d] (fun l s =>
    let x := opv l 0
    s.checkCaps [(x, { ld := true, spaces := fun n => 2 ≤ n && n ≤ 4, align := 64 })] (
      match s.st.prog with
      | .copied _ =>
        let r := s.readDescriptor x.v
        match r.1 with
        | .error t => .trap t
        | .ok q =>
          let s := r.2
          if 64 ≤ s.deviceQueue s.myTenant then .ok (s.writeReg d 0)
          else
            match s.myLaunch with
            | none => .ok (s.writeReg d 0)
            | some me =>
              let n := s.queueLaunch s.myTenant q me.codeBase me.codeLen none me.sdata (some me.num)
              let s := n.2.modLaunch me.num (fun l => { l with kids := l.kids ++ [s.launches.length + 1] })
              .ok (s.writeReg d (quad2 (BitVec.ofNat 64 n.1) 0))
      | _ => s.fenceThen .device .rel 0 (fun s => .park .launchCopy s))))

/-- DESCRIPTOR_COPIED (R367): the control die has copied the descriptor; the committed park ends. -/
def execDescriptorCopied (w : StrandId) (s : State) : Out :=
  .next (s.modStrand w (fun t =>
    match t.run with
    | .parked .launchCopy => { t with prog := .copied [], run := .ready }
    | _ => t))

/-- TRIGGER (R368). -/
def execTrigger (h : Head) (s : State) : Out :=
  .next (s.issue h {} [] [] (fun _ s =>
    s.fenceThen .device .rel 0 (fun s => .ok (s.modG (fun g => { g with trig := true })))))

/-- A tile in the layout of WHO: y in bits 11 to 8, x in bits 3 to 0. -/
def tileField (t : Nat) : Nat := t / 12 * 256 + t % 12

/-- The fields of WHO (R369). -/
def State.whoField (s : State) (f : Nat) : Nat :=
  match f with
  | 0 => s.g.gid.num
  | 1 => s.slot.val
  | 2 => tileField (if s.det then s.g.logical else s.tile)
  | 3 => tileField s.g.logical
  | 4 => s.g.die
  | 5 => (s.myLaunch.map (·.groups)).getD 1
  | 6 => (s.myLaunch.map (·.tnum)).getD 0
  | 7 => s.g.inherit
  | _ => s.regionOf s.g.die

/-- WHO (R369). -/
def execWho (h : Head) (d : Reg) (field : BitVec 4) (s : State) : Out :=
  .next (s.issue h { ill := fun _ => if 8 < field.toNat then some 0x08 else none } [] [d] (fun _ s =>
    .ok (s.writeReg d (quad2 (BitVec.ofNat 64 (s.whoField field.toNat)) 0))))

/-- The end status of a launch number of a tenant (R355), that of the launch to which it was given last; none while that has not
ended. -/
def State.endStatus (s : State) (tenant n : Nat) : Option Nat :=
  let theirs := (s.launches.filter (fun l => l.tenant == tenant)).reverse
  match theirs.find? (fun l => l.tnum == n) with
  | none => some 0xFF
  | some l => if 2 ^ 31 < (theirs.takeWhile (fun x => x.tnum != n)).length then some 0xFF else l.status

/-- LWAIT (R370). -/
def execLwait (h : Head) (d : Reg) (a : PSrc) (s : State) : Out :=
  .next (s.issue h {} [pop1 a] [d] (fun l s =>
    let n := (lane0 (opv l 0)).toNat % 2 ^ 32
    let mine := s.launches.any (fun x => x.tenant == s.myTenant && x.tnum == n && x.after == some s.g.gid.launch)
    if mine && !s.g.trig then .trap ⟨.illegal, 0, 0x0F, 0⟩
    else
      match s.endStatus s.myTenant n with
      | none => .park .lwait s
      | some v => s.fenceThen .device .acq 0 (fun s => .ok (s.writeReg d (quad2 (BitVec.ofNat 64 v) 0)))))

/-- GBAR (R371, R243): a yield point for the strand that completes it too (R351). -/
def execGbar (h : Head) (s : State) : Out :=
  .next (s.issue h {} [] [] (fun _ s =>
    if s.st.woken then
      let r := s.fenceRun .tile .acq s.st.tmask 2
      if r.1 then .ok r.2 else .park .yieldFence r.2
    else s.fenceThen .tile .rel 0 (fun s =>
      let s := (s.modSt (fun t => t.park .gbar s.now s.cyc)).releaseGbar s.g.gid
      .raw (if s.st.atGbar then s else s.yielded)) .yieldFence))

/-! ### Group CSRs of this chapter -/

/-- ROTCNT (R360). -/
def Group.rotcnt (g : Group) : Lane := BitVec.ofNat 64 (g.skips % 2 ^ 32 * 2 ^ 32 + g.swaps % 2 ^ 32)

end Sys2Proof.Machine
end

