-- ==== Sys2Proof/Machine/Stop.lean ====
section
/-! DEFINITION. Stopping a group (15 R403, R404, 09 R240, 10 R276), pre-emption, save-out and resumption (12 R322, 15 R405
to R412), the debugger's halt and freeze (15 R413 to R415), recovery points and rollback (15 R417 to R423), and detected
errors (15 R402, R406). -/

namespace Sys2Proof.Machine

/-! ### A strand stops (R403, R404) -/

/-- The time that a stop leaves to strands that meet no yield point. -/
def stopTicks : Nat := 100000 * Config.nsTicks

/-- A park whose attempt a stop withdraws: the instruction issues again from the start. -/
def Why.withdrawn : Why → Bool
  | .take | .put | .sync => true
  | _ => false

/-- A strand as a stop leaves it: its count stands, and an abandoned instruction has consumed nothing (R403, R404). -/
def Strand.standStill (t : Strand) (now cyc : Nat) : Strand :=
  let t := { t with stopped := true, wdcount := if t.standsAtYield then 0 else t.count now cyc, wdFrom := none }
  match t.run with
  | .parked y =>
    if y.withdrawn then { t with run := .parked .operands, prog := .none, consumed := false, again := some .operands, kept := [] }
    else if y.yields || y.committed then t
    else { t with run := .ready, prog := .none, consumed := false, again := none, walkWant := none
                  kept := [], took := [], spared := none }
  | _ => t

/-- Stop a strand of a group now. An access that it waits for and that no home has performed is withdrawn with it; a take
whose element is in flight ends first (R394). -/
def State.stopStrand (s : State) (w : StrandId) : State :=
  match s.group? w.g with
  | none => s
  | some g =>
    let t := g.st[w.slot]
    if s.replyFor w then s.modStrand w (fun t => { t with stopped := true })
    else
      let s := s.withdraw w
      let s := match t.run with
        | .parked y => if y.committed then s else s.abandon w
        | _ => s
      s.modStrand w (fun t => t.standStill s.now (s.cycOf g))

/-- Ask a group to stop (R403): a pair in HOLD ends, and what stands at a yield point stops at once. A rollback replaces
what was asked before, and anything replaces a CTXSAVE's request. DEDUCED (log 35). -/
def State.askStop (s : State) (i : GroupId) (why : StopWhy) (by_ : Option (Fin 8)) : State :=
  match s.group? i with
  | none => s
  | some g =>
    let ok := (g.state == .resident || g.state == .swapping) && (match g.stop with
      | none => true
      | some t => t.why == .ctx || why == .rollback)
    if !ok then s
    else
      let s := (s.endHold g).modGroup i (fun g => { g with stop := some ⟨why, s.now, by_⟩ })
      slots.foldl (fun (s : State) k =>
        match (s.strand? ⟨i, k⟩) with
        | some t => if t.standsAtYield && by_ != some k && !t.stopped then s.stopStrand ⟨i, k⟩ else s
        | none => s) s

/-- Ask every group of a launch that is on a tile. -/
def State.askAll (s : State) (n : Nat) (why : StopWhy) : State :=
  ((s.groups.filter (fun g => g.gid.launch == n && (g.state == .resident || g.state == .swapping))).map (·.gid)).foldl
    (fun (s : State) i => s.askStop i why none) s

/-! ### What a stop waits for -/

/-- Every strand but the one that asked stands still. -/
def Group.standing (g : Group) : Bool :=
  g.strands.all (fun t => t.2.stopped || t.2.run == .idle || (g.stop.bind (·.by_)) == some t.1)

/-- A message that a strand has sent is not accepted, and the release of its stop waits for it (R240, R242). -/
def State.mailOut (s : State) (g : Group) : Bool :=
  let marked (h : Home) : Bool := g.allStrands.any (fun t => maskHas t.tmask h)
  s.chans.any (fun c => match c.1.src, c.1.home with
    | .strand i _, .inbox _ => i == g.gid && !c.2.isEmpty && marked c.1.home
    | _, _ => false)

/-- The strands that a stop has stopped wait for no message, of the optical core or to an inbox (R240), and for no element
(R394). -/
def State.quiet (s : State) (g : Group) : Bool :=
  g.mx.isEmpty && !s.mailOut g && g.strands.all (fun t =>
    (g.stop.bind (·.by_)) == some t.1
      || (!t.2.outstanding.any (fun o => o.osend || o.omc) && !s.replyFor ⟨g.gid, t.1⟩ && !t.2.committed))

/-- Accesses of a group's strands and copy unit that have not been performed. -/
def State.entered (s : State) (i : GroupId) : Bool :=
  s.chans.any (fun c => (match c.1.src with | .strand g _ => g == i | .copyUnit g => g == i | _ => false)
    && (match c.1.home with | .inbox _ => false | _ => true))

/-- Perform what waits before a group's banks. -/
def State.performInto (s : State) (i : GroupId) : State :=
  let cs := (s.chans.filter (fun c => match c.1.home with | .bank g _ => g == i | _ => false)).map (·.1)
  cs.foldl (fun (s : State) c => State.drainTo s.chanFuel c none s) s

/-- Writes of the copy unit whose data have come. -/
def State.finishPieces (s : State) (i : GroupId) : State :=
  s.atGroup i (fun s =>
    s.g.ops.foldl (fun (s : State) o =>
      match s.g.op? o.uid with
      | none => s
      | some o => (List.range o.pieces.length).foldl (fun (s : State) _ =>
          match s.g.op? o.uid with
          | some o => if (o.pieces.any (fun (p : Piece) => p.at_ == .reading && p.need == 0)) then s.enterBulk o else s
          | none => s) s) s)

/-- The long results of a group arrive (R50). -/
def State.arriveAll (s : State) (i : GroupId) : State :=
  match s.group? i with
  | none => s
  | some g =>
    let ls := g.late.filter (fun l => !l.waits)
    ls.foldl (fun (s : State) l =>
      ({ s with now := max s.now l.lo }.modGroup i (fun g => { g with late := g.late.erase l })).arrive i l) s

/-- Units of a group that have landed take their 1 from SECT. -/
def State.landAll (s : State) (i : GroupId) : State :=
  (s.landed.filter (fun l => l.g == i || l.bar.1 == i)).foldl (fun (s : State) l =>
    match s.landed.findIdx? (· == l) with
    | some k => s.land k l
    | none => s) s

/-- Each stopped strand acts as R240 gives, and the copy unit quiesces (R276): loads return, stores are performed and
written back, results arrive, TMASK is 0. DEDUCED (log 34). -/
def State.quiesce (s : State) (i : GroupId) : State :=
  let s := ((s.arriveAll i).settleLoads i).finishPieces i
  let s := ((s.settleLoads i).performInto i).landAll i
  let s := s.writeBackAll (((s.group? i).map Group.die).getD 0)
  let csrs (g : Group) : Group := { g with sr := (g.settle (s.now + 4 * s.cycOf g)).sr, swrites := [] }
  let clear (t : Strand) : Strand := { t with tmask := 0 }
  s.modGroup i (fun g => { csrs (g.mapSt clear) with store := g.store.map (fun x => { x with st := clear x.st }) })

/-- A group that can be taken from its tile, or copied. -/
def State.stoodOut (s : State) (g : Group) : Bool := g.state == .resident && g.standing && s.quiet g && !s.entered g.gid

/-! ### Release and resumption (R410 to R412) -/

/-- A group's strands go on. -/
def State.release (s : State) (i : GroupId) : State :=
  (s.modGroup i (fun g => { g.mapSt (fun t => { t with stopped := false }) with stop := none })).replay i

/-- The parts of a scratchpad that DISCARD names read zero, untagged and full (R410). -/
def Group.discarded (g : Group) : Group :=
  let part := g.size / 32
  let gone (off : Nat) : Bool := g.discard.getLsbD (off / part % 32)
  { g with
    spad := g.spad.filter (fun c => !gone c.1)
    spTags := g.spTags.filter (fun k => !gone (16 * k))
    spEmpty := g.spEmpty.filter (fun k => !gone (8 * k))
    badWords := g.badWords.filter (fun k => !gone (8 * k))
    disc := g.disc || g.discard != 0 }

/-- GROUP_RESUME (R412): a saved group is placed again; each strand acts as FENCE.DEVICE.ACQ (R240), and what came
meanwhile is there before a strand issues (R411). -/
def execGroupResume (g : GroupId) (tile : Nat) (s : State) : Out :=
  .next <|
    match s.group? g, s.launch? g.launch with
    | some x, some l =>
      if !(x.state == .saved && s.nextPlaced x && (s.tilesFor l x).contains tile) then s
      else
        let back (y : Group) : Group :=
          { y.discarded with
            state := .resident, place := some ⟨y.homeDie, tile⟩, logical := tile, resumed := true, outWhy := none, stop := none
            left := none, emits := y.emits ++ s.leftEmits g ⟨y.homeDie, tile⟩ }
        let s := s.modGroup g (fun y => (back y).mapSt (fun t => { t with stopped := false }))
        let s := slots.foldl (fun (s : State) k => s.atStrand ⟨g, k⟩ State.newEpoch) s
        let de := ((s.die? x.homeDie).map (·.de)).getD 0
        let acq (y : Stored) : Stored := { y with st := { y.st with ae := de } }
        (s.modGroup g (fun y => { y with store := y.store.map acq })).replay g
    | _, _ => s

/-- A stopped group leaves its tile with an image (R405, R407): SAVES counts it. -/
def Group.save (g : Group) (why : StopWhy) : Group :=
  { g with state := .saved, left := g.place, place := none, stop := none, outWhy := some why, saves := (g.saves + 1) % 2 ^ 32 }

/-! ### Recovery points (R418 to R423) -/

/-- Messages on their way to a group are accepted (R418 step 2). -/
def State.acceptAll (s : State) (i : GroupId) : State :=
  let cs := (s.chans.filter (fun c => match c.1.home with | .inbox g => g == i | _ => false)).map (·.1)
  cs.foldl (fun (s : State) c =>
    (s.chan c).foldl (fun (s : State) m =>
      match m.mail?, s.group? i with
      | some x, some g => s.meetGroup c g x
      | _, _ => s) s) s

/-- The acknowledgements on their way to a launch's strands reach them. -/
def State.ackAll (s : State) (n : Nat) : State :=
  let mine (a : Ack) : Bool := a.key.who.g.launch == n
  (s.msgAcks.filter mine).foldl (fun (s : State) a => s.acked a) { s with msgAcks := s.msgAcks.filter (fun a => !mine a) }

/-- Every group of a launch that is on a tile has stood out. -/
def State.launchOut (s : State) (n : Nat) : Bool :=
  s.groups.all (fun g => g.gid.launch != n || (g.state != .resident && g.state != .swapping) || s.stoodOut g)

/-- The groups of a launch on tiles. -/
def State.onTiles (s : State) (n : Nat) : List GroupId :=
  (s.groups.filter (fun g => g.gid.launch == n && g.state == .resident)).map (·.gid)

/-- Take the next point of a launch whose groups all stand (R418 steps 2 to 7), release its escrow (R420) and its groups. A drain
point is none of those that CKPT asked for (R420, R428). -/
def State.commitPoint (s : State) (l : Launch) (drain : Bool := false) : State :=
  let gs := s.onTiles l.num
  let s := (gs.foldl State.acceptAll s).ackAll l.num
  let s := l.dies.foldl State.writeBackAll s
  let inst := ((s.groups.find? (fun g => g.gid.launch == l.num)).map (·.instant)).getD 0
  let inst := match l.wave with
    | some w => if w.act = 0 then w.inst + 1 else inst
    | none => inst
  let now := (s.launch? l.num).getD l
  let p : Point :=
    { launch := l.num, num := l.points + 1, instant := inst, wave := now.wave
      groups := (s.groups.filter (fun g => g.gid.launch == l.num)).map (fun g => { g with stop := none })
      pools := s.pools.filter (fun p => p.launch == l.num), notifySeq := now.notifySeq, kids := now.kids
      entries := s.launches.filter (fun x => now.kids.contains x.num && !x.started && x.status.isNone)
      held := s.held.filter (fun x => agentLaunch x.1.src == some l.num), landed := s.landed.filter (fun x => x.g.launch == l.num)
      linkWords := s.linkWords.filter (fun x => x.dst.launch == l.num), steals := s.steals.filter (fun x => x.thief.launch == l.num) }
  let s := now.escrow.foldl (fun (s : State) e => { s with mem := s.mem.write e.1 e.2 }) s
  let s := { s with points := s.points.filter (fun (q : Point) => q.launch != l.num) ++ [p] }.modLaunch l.num (fun l =>
    { l with points := l.points + 1, ckpt := drain && l.ckpt, undo := [], escrow := [] })
  gs.foldl State.release s

/-- The granules that a launch has written since its last point are as they were, the last first (R422 step 3). -/
def State.applyUndo (s : State) (l : Launch) : State :=
  l.undo.reverse.foldl (fun (s : State) u =>
    let clear := (s.mem.filter (fun c => c.1 / 4096 == u.granule)).foldl (fun (m : Memory) c => m.write c.1 unlisted) s.mem
    let tags := s.memTags.filter (fun t => t / 256 != u.granule)
    { s with mem := u.cells.foldl (fun (m : Memory) c => m.write c.1 c.2) clear
             memTags := u.tags.foldl (fun (l : List Nat) t => insertNat t l) tags }) s

/-- A launch that LAUNCH had queued at a point and that has not ended waits again (R422 step 4). -/
def State.requeue (s : State) (x : Launch) : State :=
  match s.launch? x.num with
  | none => s
  | some l =>
    if !l.started || l.status.isSome then s
    else
      let s := s.dropLaunch x.num
      let wait (g : Group) : Group :=
        if g.gid.launch = x.num then waitingGroup x.num g.gid.num g.homeDie x.log2 x.strands x.discard else g
      ({ s with pools := s.pools.filter (fun p => p.launch != x.num) }.mapGroups wait).modLaunch x.num (fun _ => x)

/-- A group of a point as a rollback leaves it: its image waits to be placed (R422 step 6). -/
def Group.fromPoint (g : Group) : Group :=
  match g.state with
  | .resident | .swapping => { g with state := .saved, place := none, outWhy := some .rollback }
  | _ => g

/-- A launch whose groups all stand rolls back to its last point (R422). -/
def State.rollBack (s : State) (l : Launch) : State :=
  match s.points.find? (fun p => p.launch == l.num) with
  | none => s
  | some p =>
    let s := l.dies.foldl (fun (s : State) v =>
      let keys := (((s.die? v).map (·.lines)).getD []).map (·.key)
      keys.foldl (fun (s : State) k => s.flushLine v (k * 64) false) s) s
    let s := s.dropLaunch l.num
    let s := s.applyUndo ((s.launch? l.num).getD l)
    let lost := (((s.launch? l.num).map (·.kids)).getD []).filter (fun k => !p.kids.contains k)
    let s := lost.foldl (fun (s : State) k => if (s.launch? k).any (fun x => x.status.isNone) then s.cancelled k else s) s
    let back (g : Group) : Group := ((p.groups.find? (fun x => x.gid == g.gid)).map Group.fromPoint).getD g
    let s := p.entries.foldl State.requeue s
    let shard (q : Pool) : Pool := match s.pools.find? (fun x => x.num == q.num) with
      | none => q
      | some x => { q with
          t0 := x.t0, round := x.round, installed := x.installed
          shards := q.shards.map (fun h => { h with snap := none, seen := [], missed := [], g := none, formed := [], unacked := [] }) }
    let s := { s with
      pools := s.pools.filter (fun (q : Pool) => q.launch != l.num) ++ p.pools.map shard
      held := s.held ++ p.held, landed := s.landed ++ p.landed, linkWords := s.linkWords ++ p.linkWords.map (fun (w : LinkFly) => { w with trail := none }), steals := s.steals ++ p.steals
      hostOut := s.hostOut ++ [HostEvent.rolledBack l.num p.num] }.mapGroups (fun g => if g.gid.launch = l.num then back g else g)
    s.modLaunch l.num (fun l =>
      { l with wave := p.wave, recs := [], notifySeq := p.notifySeq, kids := p.kids, undo := [], escrow := [], ckpt := false
               rollbacks := (l.rollbacks + 1) % 2 ^ 32 })

/-! ### The end of a stop -/

/-- What a group's stop leads to, once it is out: its image and its tile's release, or the strand that asked goes on. -/
def State.endStop (s : State) (i : GroupId) : State :=
  match s.group? i with
  | none => s
  | some g =>
    match g.stop with
    | none => s
    | some t =>
      if !(g.state == .resident && g.standing && s.quiet g) then s
      else
        let s := s.quiesce i
        match s.group? i with
        | none => s
        | some g =>
          if !s.stoodOut g then s
          else
            match t.why with
            | .preempt | .saveOut => s.modGroup i (fun g => g.save t.why)
            | .ctx =>
              match t.by_ with
              | none => s
              | some k => s.modStrand ⟨i, k⟩ (fun x => match x.run, x.prog with
                  | .parked .ctx, .none => { x with run := .ready, prog := .answered 0 0 false true }
                  | _, _ => x)
            | _ => s

/-- The point or the rollback of a launch whose groups have all been asked and are all out. -/
def State.endLaunchStop (s : State) (l : Launch) : State :=
  let asked (why : StopWhy → Bool) : Bool :=
    s.groups.any (fun g => g.gid.launch == l.num && (g.stop.map (fun t => why t.why)).getD false)
  if asked (· == .rollback) then (if s.launchOut l.num then s.rollBack l else s)
  else if asked (fun w => w == .point || w == .drain) then (if s.launchOut l.num then s.commitPoint l (asked (· == .drain)) else s)
  else s

/-- Every stop goes as far as it can. DEDUCED (log 34). -/
def State.finishStops (s : State) : State :=
  if s.groups.any (fun g => g.stop.isSome) then
    let s := (s.groups.map (·.gid)).foldl State.endStop s
    (s.launches.filter (fun l => l.status.isNone)).foldl State.endLaunchStop s
  else s

/-- A strand of a group that is asked to stop, or of a pair in HOLD, after its instruction (R357, R403). -/
def State.stopsHere (s : State) : State :=
  let t := s.st
  if t.standsAtYield then
    let s := if s.holding s.g then s.modSt (fun t => { t with held := true }) else s
    if s.g.stop.isSome && (s.g.stop.bind (·.by_)) != some s.slot && !t.stopped then s.stopStrand s.me else s
  else s

/-- STOP_REQUEST (R403). A context instruction makes its own. -/
def execStopRequest (g : GroupId) (why : StopWhy) (s : State) : Out :=
  .next (if why = .ctx then s else (s.askStop g why none).finishStops)

/-- STOP_DEADLINE (R403): 100 µs after the request. -/
def execStopDeadline (g : GroupId) (s : State) : Out :=
  .next <|
    match s.group? g with
    | none => s
    | some x =>
      match x.stop with
      | none => s
      | some r =>
        let s := { s with now := max s.now (r.since + stopTicks) }
        let ends (t : Strand) : Bool := match t.run, t.prog with
          | .ready, .none => !t.consumed
          | .ready, _ => false
          | .parked y, _ => !y.committed
          | _, _ => true
        (slots.foldl (fun (s : State) k =>
          match s.strand? ⟨g, k⟩ with
          | some t => if ends t && !t.stopped && r.by_ != some k then s.stopStrand ⟨g, k⟩ else s
          | none => s) s).finishStops

/-- GROUP_SAVE_OUT (R322): groups of the reaction wait, no tile of the die is free, and the group is the first whose strands
are all halted, paused, or parked on a signal test or at RBAR. -/
def execGroupSaveOut (g : GroupId) (s : State) : Out :=
  .next <|
    match s.group? g with
    | none => s
    | some x =>
      let v := x.homeDie
      let blocked (y : Group) : Bool := y.state == .resident && y.gid.launch == g.launch && y.homeDie == v && y.stop.isNone
        && y.store.isEmpty && y.st.toList.all (fun t => match t.run with
          | .idle | .paused _ | .parked (.signal _ _) | .parked .rbar => true
          | _ => false)
      let waits := s.groups.any (fun y => y.gid.launch == g.launch && y.homeDie == v && y.waits)
      let full := (List.range 144).all (fun t => !s.tileFree v t g)
      if blocked x && waits && full && !s.groups.any (fun y => blocked y && y.gid.num < g.num) then
        (s.askStop g .saveOut none).finishStops
      else s

/-- A launch may take a point or roll back: no other stop of it is under way. -/
def State.noStops (s : State) (n : Nat) : Bool := s.groups.all (fun g => g.gid.launch != n || g.stop.isNone)

/-- RECOVERY_POINT (R418): at an instant end at which one is due, while the start of the next instant waits. -/
def execRecoveryPoint (launch : Nat) (s : State) : Out :=
  .next <|
    match s.launch? launch with
    | none => s
    | some l =>
      match l.wave with
      | none => s
      | some w =>
        if l.status.isSome || !s.pointDue l w || !s.noStops launch
            || l.dies.any (fun v => (s.region (s.regionOf v)).draining) then s
        else
          let s := s.askAll launch .point
          if s.noStops launch then s.commitPoint ((s.launch? launch).getD l) else s.finishStops

/-- DRAIN_POINT (R420): the tenant's share of the escrow is full; the point records the current instant. With no group on a tile
nothing has to stop, and it commits at once. -/
def execDrainPoint (launch : Nat) (s : State) : Out :=
  .next <|
    match s.launch? launch with
    | none => s
    | some l =>
      if l.status.isSome || !s.escrowFull l || !s.noStops launch then s
      else
        let s := s.askAll launch .drain
        if s.noStops launch then s.commitPoint ((s.launch? launch).getD l) true else s.finishStops

/-- Ask for the rollback of a launch that has a committed point. -/
def State.askRollback (s : State) (n : Nat) : State :=
  match s.launch? n with
  | none => s
  | some l =>
    if l.status.isSome || !(l.recov && 0 < l.points) then s
    else
      let s := s.askAll n .rollback
      if (s.onTiles n).isEmpty then s.rollBack l else s.finishStops

/-- ROLLBACK (R422). DEDUCED (log 36). -/
def execRollback (launch : Nat) (s : State) : Out := .next (s.askRollback launch)

/-! ### The debugger's halt (R413 to R415) -/

/-- DEBUG_HALT (R413): ndbg asks for the halt of a group of the launch to which it is attached. -/
def execDebugHalt (g : GroupId) (s : State) : Out :=
  .next (if ((s.launch? g.launch).map (·.debugged)).getD false && ((s.group? g).map (fun g => g.state == .resident)).getD false
    then s.halt g else s)

/-- FREEZE (R415): acknowledged once the accesses that have entered are performed. DEDUCED (log 51). -/
def execFreeze (g : GroupId) (s : State) : Out :=
  .next <|
    match s.group? g with
    | none => s
    | some x =>
      if !x.dhalt then s
      else
        let cs := (s.chans.filter (fun c => c.1.src == .copyUnit g)).map (·.1)
        let s := (cs.foldl (fun (s : State) c => State.drainTo s.chanFuel c none s) s).landAll g
        s.modGroup g (fun g => { g with frozen := true })

/-- FREEZE_RELEASE (R415). DEDUCED (log 51). -/
def execFreezeRelease (g : GroupId) (s : State) : Out :=
  .next ((s.modGroup g (fun g => { g with frozen := false })).pump g)

/-- GSTAT.QUIET (R405, R414): halted, with no access of its copy unit and no message to it in flight. -/
def State.quietNow (s : State) (g : Group) : Bool :=
  g.dhalt
    && !s.chans.any (fun c => c.1.src == .copyUnit g.gid || (match c.1.home with | .inbox i => i == g.gid | _ => false))
    && !s.rets.any (fun r => r.who.g == g.gid && (match r.back with | .data .. => true | _ => false))
    && !s.blocks.any (fun b => b.dst == g.gid) && !s.omcMsgs.any (fun m => m.bringsTo g.gid) && !s.landed.any (fun l => l.g == g.gid)

/-- The message of a strand stands refused at its target's tile. -/
def State.refusedAt (s : State) (w : StrandId) (seq : Nat) : Bool :=
  s.mailChans.any (fun c => c.2.2.key.is ⟨w, s.serialOf w, seq⟩ && ((s.group? c.2.1).map (fun g =>
    g.frozen || g.refusals.contains c.1.src)).getD false)

/-- The debugger releases a group: timers run again, and a BRK is passed over (R413). -/
def State.unhalt (s : State) (i : GroupId) : State :=
  let go (k : Fin 8) (t : Strand) : Strand :=
    let t := if t.brk then { t.step12 with brk := false } else t
    { t with outstanding := t.outstanding.map (fun o =>
        if o.since.isSome || s.refusedAt ⟨i, k⟩ o.seq then o else { o with since := some s.now }) }
  s.modGroup i (fun g => { g with dhalt := false, hitBreak := none, st := Vector.ofFn (fun (k : Fin 8) => go k g.st[k]) })

/-! ### Detected errors (R402, R406) -/

/-- MACHINE at the instruction that a strand executes: at the commit of one that it waits for (R402, details 0x01, 0x02). -/
def State.machineAt (s : State) (w : StrandId) (t : Trap) : State :=
  match s.strand? w with
  | none => s
  | some x =>
    match x.run with
    | .ready => s.trapStrand w t
    | .parked .commit =>
      s.modGroup w.g (fun g =>
        { g with mx := updateFirst (fun f => f.slot == w.slot) (fun f => { f with trap := some t }) g.mx
                 late := updateFirst (fun f => f.slot == w.slot) (fun f => { f with trap := some t }) g.late })
    | _ => s

/-- A lasting error raises MACHINE (R402). -/
def State.lasting (s : State) (e : ErrorAt) : State :=
  match e with
  | .unit w => s.machineAt w ⟨.machine, 0, 0x01, 0⟩
  | .scratch w word =>
    (s.modGroup w.g (fun g => { g with badWords := insertNat word g.badWords })).machineAt w
      ⟨.machine, 0, 0x02, pointer 0 (8 * word)⟩
  | .load w r ptr =>
    { s with rets := updateFirst (fun x => x.who == w && x.dst == r) (fun x => { x with bad := some ptr }) s.rets }
  | .copy g op ptr =>
    let uid := ((s.group? g).bind (fun x =>
      if op.val < 32 then (x.streams.find? (fun d => d.num == op.val && !d.exhausted)).map (·.uid)
      else (x.ops.find? (fun o => o.num + 32 == op.val && !o.abandoned)).map (·.uid)))
    match uid with
    | some u => s.pauseOp g u ⟨.machine, 0x04, ptr⟩
    | none => s
  | .state w index =>
    s.modStrand w (fun t => { t with ackLost := t.ackLost ++ [⟨.machine, 0, 0x05, BitVec.ofNat 64 index⟩] })
  | .part _ => s

/-- The launch that an error concerns; 0 where it concerns none. -/
def errorLaunch : ErrorAt → Nat
  | .unit w | .scratch w _ | .load w _ _ | .state w _ => w.g.launch
  | .copy g _ _ => g.launch
  | .part _ => 0

/-- The tile of a group, as a part. -/
def State.tilePart (s : State) (g : GroupId) : Option Part :=
  ((s.group? g).bind (·.place)).map (fun p => .tile p.die (p.tile % 12) (p.tile / 12))
/-- The part of a home. -/
def State.homePart (s : State) : Home → Option Part
  | .bank g _ | .inbox g => s.tilePart g
  | .slice v n => some (.slice v n)
  | .mem d b => some (.memBank d b)
  | .modPort q => some (.modPort q)
  | .control => none
/-- The part in which an error has been found (R455). DEDUCED (log 46). -/
def State.errorPart (s : State) : ErrorAt → Option Part
  | .unit w | .scratch w _ | .state w _ => s.tilePart w.g
  | .copy g _ _ => s.tilePart g
  | .load w r _ => (s.rets.find? (fun x => x.who == w && x.dst == r)).bind (fun x => s.homePart x.home)
  | .part p => some p
/-- An error of a part is counted (R406, R455). -/
def State.noteFault (s : State) (p : Option Part) (lasting : Bool) : State :=
  { s with dev := { s.dev with faults := s.dev.faults ++ p.toList.map (fun x => ⟨x, s.now, lasting⟩) } }

/-- ERROR_DETECTED (R406): retried once, and counted; a lasting error raises MACHINE, and a launch with recovery points rolls
back. DEDUCED (log 46). -/
def execErrorDetected (e : ErrorAt) (recurs : Bool) (s : State) : Out :=
  .next (
    let s := s.noteFault (s.errorPart e) recurs
    if recurs then (s.lasting e).askRollback (errorLaunch e) else s)

end Sys2Proof.Machine
end

