-- ==== Sys2Proof/Machine/Csr.lean ====
section
/-! DEFINITION. The control and status registers (02 R58 to R60, and the rule of each), reading and writing them (15 R427),
and when a group's takes effect (15 R427). -/

namespace Sys2Proof.Machine

/-! ### What is defined, and what may be written (R58, R59) -/

/-- A CSR number that is defined. -/
def csrDefined (n : Nat) : Bool :=
  (0x001 ≤ n && n ≤ 0x013) || (0x100 ≤ n && n ≤ 0x10D) || (0x200 ≤ n && n ≤ 0x207) || (0x300 ≤ n && n ≤ 0x306)

/-- A CSR with a field that may be written at a level. -/
def csrWritable (n : Nat) (kernel : Bool) : Bool :=
  n == 0x001 || n == 0x009
    || (kernel && (([0x004, 0x005, 0x006, 0x007, 0x008, 0x00A, 0x00C, 0x100, 0x101, 0x103, 0x106, 0x107, 0x108] : List Nat).contains n))

/-- The fields of TRAPINFO (R61). -/
def trapinfoMask : Lane := 0x1FFFFFF
/-- MB of MBOX (R53). -/
def mboxMask : Lane := 0xFFFFFFFFFFFE
/-- VEC of TVEC (R398). -/
def tvecMask : Lane := 0xFFFFFFFFFFC
/-- The low 32 bits of a register. -/
def low32 (v : Lane) : Nat := v.toNat % 2 ^ 32

/-! ### Layouts -/

/-- A word from fields: value, lowest bit, width. -/
def fields (l : List (Nat × Nat × Nat)) : Lane :=
  BitVec.ofNat 64 ((l.map (fun f => f.1 % 2 ^ f.2.2 * 2 ^ f.2.1)).sum)

/-- TSTAT (R397). -/
def Strand.tstat (t : Strand) : Lane := fields [(t.depth, 8, 2), (t.pl.toNat, 2, 1), (t.kernel.toNat, 0, 1)]

/-- GSTAT (R405). -/
def State.gstat (s : State) : Lane :=
  let g := s.g
  fields [(g.saves, 32, 32), (g.trig.toNat, 7, 1), (g.resumed.toNat, 6, 1), (g.frozen.toNat, 3, 1), (g.dhalt.toNat, 2, 1),
    ((s.quietNow g).toNat, 1, 1), (g.disc.toNat, 0, 1)]

/-- CPAUSE (R274). -/
def Group.cpause (g : Group) : Lane := fields [(g.cpsel, 56, 6)] ||| g.cpausePending

/-- OMCST (R303). -/
def Die.omcst (d : Die) : Lane := fields [(d.relayFree, 32, 10), (d.plup, 20, 4), (d.cal.toNat, 16, 1), (d.herr, 0, 16)]
/-- ROTINT (R359). -/
def Die.rotint (d : Die) : Lane := fields [(d.tdiff, 40, 8), (d.pairsMax, 32, 4), (d.interval, 0, 32)]
/-- PSTEP (R448). -/
def Region.pstep (r : Region) : Lane := fields [(r.floor, 32, 4), (r.held, 16, 16), (r.limit, 0, 16)]
/-- DROOP (R451). -/
def State.droop (s : State) (r : Region) : Lane := fields [(r.droops, 32, 32), ((decide (s.now < r.throttleEnd)).toNat, 0, 1)]
/-- REGIONST (R442). -/
def Device.regionst (d : Device) : Lane :=
  fields [(d.stage, 48, 3), (d.failed.toNat, 32, 16), (d.reduced.toNat, 16, 16), (d.live.toNat, 0, 16)]
/-- RPCFG (R417). -/
def Region.rpcfg (r : Region) : Lane := fields [(r.rpEn.toNat, 63, 1), (r.rpEvery, 0, 32)]
/-- TREGION (R444). -/
def Tenant.tregion (t : Tenant) : Lane :=
  fields [(t.num, 32, 8), (t.width - 1, 28, 4), (t.vx0, 24, 4), (t.height - 1, 20, 4), (t.vy0, 16, 4)]
/-- HARVEST (R456). -/
def State.harvest (s : State) : Lane :=
  let live := s.dies.filter (·.live)
  let tiles := (live.map (fun d => ((List.range 144).filter d.excused).length)).sum
  let slices := (s.dies.map (fun d => d.deadSlices.length)).sum
  fields [(s.dev.harvestVersion, 56, 8), ((s.dev.portsFailed ++ s.dev.portsOut).eraseDups.length, 48, 8), (s.dev.linksRetired.length, 40, 8),
    (slices, 32, 8), (tiles, 16, 16), (s.dev.deadMem.length, 8, 8), (s.dev.deadDies.length, 0, 8)]
/-- THERM (R361): the temperatures are measured, and DIEMAX is no lower than TEMP. -/
def State.therm (s : State) (d : Die) : Lane :=
  let temp := Config.measured s.fresh % 256
  let most := max temp (Config.measured (s.fresh + 1) % 256)
  fields [(most, 40, 8), (temp, 32, 8), (lookD d.tsteps s.tile 0, 20, 4), (s.stepOf d.v s.tile, 16, 4)]
/-- AGEMON (R453): the margins are measured, and WORST is no greater than MARGIN. -/
def State.agemon (s : State) (d : Die) : Lane :=
  let margin := Config.measured s.fresh % 2 ^ 16
  fields [(d.voff, 32, 16), (min margin (Config.measured (s.fresh + 1) % 2 ^ 16), 16, 16), (margin, 0, 16)]

/-! ### Reading -/

/-- A strand CSR. -/
def State.strandCsr (s : State) (n : Nat) : Lane :=
  let t := s.st
  match n with
  | 0x001 => t.fcsr
  | 0x002 => t.tmask
  | 0x003 => t.canemit
  | 0x004 => t.watchst
  | 0x005 => t.trappc
  | 0x006 => t.trapinfo
  | 0x007 => t.trapval
  | 0x008 => t.path
  | 0x009 => t.mbox
  | 0x00A => t.wdlim
  | 0x00B => s.g.strmst s.slot
  | 0x00C => t.canrld
  | 0x00D => capPointer (t.watch[0]).handler.v
  | 0x00E => capPointer (t.watch[1]).handler.v
  | 0x00F => capPointer (t.watch[2]).handler.v
  | 0x010 => capPointer (t.watch[3]).handler.v
  | 0x011 => t.excst
  | 0x012 => t.please
  | _ => t.tstat

/-- A group CSR; ROTCNT reads zero in a deterministic launch (R229). -/
def State.groupCsr (s : State) (n : Nat) : Lane :=
  let g := s.g
  match n with
  | 0x100 => s.gstat
  | 0x101 => g.tvec
  | 0x102 => fields [(g.log2, 0, 5)]
  | 0x103 => g.discard.setWidth 64
  | 0x104 => if s.det then 0 else g.rotcnt
  | 0x105 => g.instant
  | 0x106 => fields [(g.synclim, 0, 32)]
  | 0x107 => g.cpause
  | 0x108 => fields [(g.msgtim, 0, 32)]
  | 0x109 => (s.myLaunch.map (fun l => fields [(l.rollbacks, 32, 32), (l.points, 0, 32)])).getD 0
  | 0x10A => g.dbgbp[0]
  | 0x10B => g.dbgbp[1]
  | 0x10C => g.dbgbp[2]
  | _ => g.dbgbp[3]

/-- A die CSR of the strand's die; RTLAT, THERM, OMCST and AGEMON read zero in a deterministic launch (R229). -/
def State.dieCsr (s : State) (n : Nat) : Lane :=
  match s.die? s.g.die with
  | none => 0
  | some d =>
    match n with
    | 0x200 => if s.det then 0 else fields [(d.maxlat, 32, 32), (d.count, 0, 32)]
    | 0x201 => d.rotint
    | 0x202 => if s.det then 0 else s.therm d
    | 0x203 => if s.det then 0 else d.omcst
    | 0x204 => (d.excuse.extractLsb' 0 64)
    | 0x205 => (d.excuse.extractLsb' 64 64)
    | 0x206 => (d.excuse.extractLsb' 128 16).setWidth 64
    | _ => if s.det then 0 else s.agemon d

/-- A region or device CSR; PSTEP and DROOP read zero in a deterministic launch (R229). -/
def State.regionCsr (s : State) (n : Nat) : Lane :=
  let r := s.region (s.regionOf s.g.die)
  match n with
  | 0x300 => if s.det then 0 else r.pstep
  | 0x301 => if s.det then 0 else s.droop r
  | 0x302 => s.dev.regionst
  | 0x303 => fields [(r.allow.toNat, 0, 1)]
  | 0x304 => s.harvest
  | 0x305 => r.rpcfg
  | _ => ((s.tenant? s.myTenant).map Tenant.tregion).getD 0

/-- The value of a CSR for the issuing strand. -/
def State.csr (s : State) (n : Nat) : Lane :=
  if n < 0x100 then s.strandCsr n
  else if n < 0x200 then s.groupCsr n
  else if n < 0x300 then s.dieCsr n
  else s.regionCsr n

/-- The measured values that a read uses up: a later read measures anew. -/
def State.measuredBy (s : State) (n : Nat) : State := if n = 0x202 || n = 0x207 then { s with fresh := s.fresh + 2 } else s

/-! ### Writing (R427) -/

/-- CPAUSE written (R274): SEL, then RESUME or ABANDON of it; both change only SEL. -/
def State.writeCpause (s : State) (v : Lane) : State :=
  let n := (v.extractLsb' 56 6).toNat
  let s := s.modG (fun g => { g with cpsel := n })
  match v.getLsbD 63, v.getLsbD 62 with
  | true, false => s.resumeOp n
  | false, true => s.abandonOp n
  | _, _ => s

/-- A write of a group CSR comes into force at the group in front. -/
def State.applyCsr (s : State) (n : Nat) (v : Lane) : State :=
  match n with
  | 0x100 => s.modG (fun g => { g with disc := g.disc && !v.getLsbD 0 })
  | 0x101 => s.modG (fun g => { g with tvec := v &&& tvecMask })
  | 0x103 => s.modG (fun g => { g with discard := v.setWidth 32 })
  | 0x106 => s.modG (fun g => { g with synclim := low32 v })
  | 0x107 => s.writeCpause v
  | _ => s.modG (fun g => { g with msgtim := low32 v })

/-- The writes of the group in front that are due are in force (R427). DEDUCED (log 41). -/
def State.settleCsrs (s : State) : State :=
  let due := s.g.csrWrites.filter (fun w => w.1 ≤ s.now)
  if due.isEmpty then s
  else
    let s := s.modG (fun g => { g with csrWrites := g.csrWrites.filter (fun w => s.now < w.1) })
    due.foldl (fun (s : State) w => s.applyCsr w.2.1 w.2.2) s

/-- Those of every group. -/
def State.settleAllCsrs (s : State) : State :=
  (s.groups.filter (fun g => !g.csrWrites.isEmpty)).foldl (fun (s : State) g => s.atGroup g.gid State.settleCsrs) s

/-- A strand CSR written. -/
def State.writeStrandCsr (s : State) (n : Nat) (v : Lane) : State :=
  match n with
  | 0x001 => s.modSt (fun t => { t with fcsr := (t.fcsr &&& ~~~fcsrMask) ||| (v &&& fcsrMask) })
  | 0x004 => s.modSt (fun t => t.setWatchst v)
  | 0x005 => s.modSt (fun t => { t with trappc := v })
  | 0x006 => s.modSt (fun t => { t with trapinfo := v &&& trapinfoMask })
  | 0x007 => s.modSt (fun t => { t with trapval := v })
  | 0x008 => s.modSt (fun t => { t with path := v })
  | 0x009 => (s.modSt (fun t => { t with mbox := v &&& mboxMask })).pump s.g.gid
  | 0x00A => s.modSt (fun t => { t with wdlim := v })
  | _ => s.modSt (fun t => { t with canrld := v })

/-- A write of MBOX names a register in stream mode (R53). -/
def State.mboxStream (s : State) (v : Lane) : Bool :=
  (List.range 48).any (fun k => 0 < k && v.getLsbD k && (s.st.c.toList.getD k {}).stream)

/-- CSRGET and CSRSET once they execute (R427). -/
def State.csrAccess (s : State) (n : Nat) (d : Reg) (w : Option Lane) : Res :=
  if !csrDefined n then .trap ⟨.illegal, 0, 0x02, 0⟩
  else if w.isSome && !csrWritable n s.st.kernel then .trap ⟨.priv, 0, 0, 0⟩
  else if n = 0x001 && s.fpOut then .park .value s
  else
    let old := s.csr n
    let done (s : State) : Res := .ok ((s.measuredBy n).writeReg d (quad2 old 0))
    match w with
    | none => done s
    | some v =>
      if n = 0x009 && s.mboxStream v then .trap ⟨.illegal, 0, 0x0B, 0⟩
      else if n < 0x100 then done (s.writeStrandCsr n v)
      else done (s.modG (fun g => { g with csrWrites := g.csrWrites ++ [(s.now + 4 * s.cyc, n, v)] }))

/-- CSRSET of a number. -/
def State.csrset (s : State) (h : Head) (d : Reg) (a : PSrc) (n : Nat) : State :=
  s.issue h {} [pop1 a] [d] (fun l s => s.csrAccess n d (some (lane0 (opv l 0))))

/-- CSRGET. -/
def execCsrget (h : Head) (d : Reg) (csr : BitVec 12) (s : State) : Out :=
  .next (s.issue h {} [] [d] (fun _ s => s.csrAccess csr.toNat d none))
/-- CSRSET of the numbers that have no row of their own; a write of CPAUSE resumes or abandons by its operand.
DEDUCED (log 41). DEDUCED (log 45). -/
def execCsrset (h : Head) (d : Reg) (a : PSrc) (csr : BitVec 12) (s : State) : Out := .next (s.csrset h d a csr.toNat)
/-- MBOX_WRITE (R53). -/
def execMboxWrite (h : Head) (d : Reg) (a : PSrc) (s : State) : Out := .next (s.csrset h d a 0x009)
/-- CANRLD_WRITE (R316). -/
def execCanrldWrite (h : Head) (d : Reg) (a : PSrc) (s : State) : Out := .next (s.csrset h d a 0x00C)
/-- WATCHST_WRITE (R326). -/
def execWatchstWrite (h : Head) (d : Reg) (a : PSrc) (s : State) : Out := .next (s.csrset h d a 0x004)
/-- FCSR_WRITE (R147). -/
def execFcsrWrite (h : Head) (d : Reg) (a : PSrc) (s : State) : Out := .next (s.csrset h d a 0x001)
/-- CPAUSE_RESUME (R274): a CSRSET of CPAUSE whose operand has RESUME set and ABANDON clear. DEDUCED (log 45). -/
def execCpauseResume (h : Head) (d : Reg) (a : PSrc) (s : State) : Out := .next (s.csrset h d a 0x107)
/-- CPAUSE_ABANDON (R274): a CSRSET of CPAUSE whose operand has ABANDON set and RESUME clear. DEDUCED (log 45). -/
def execCpauseAbandon (h : Head) (d : Reg) (a : PSrc) (s : State) : Out := .next (s.csrset h d a 0x107)
/-- GSTAT_DISC_CLEAR (R405). -/
def execGstatDiscClear (h : Head) (d : Reg) (a : PSrc) (s : State) : Out := .next (s.csrset h d a 0x100)

end Sys2Proof.Machine
end

