-- ==== Sys2Proof/Machine/AsmTable.lean ====
section
/-! DEFINITION. The assembly forms of the instructions, class by class, and the words that ndas builds from them (03 R68
to R72, R85). -/

namespace Sys2Proof.Machine

/-- What an operand fills. -/
inductive Slot where
  /-- The D, A and B fields, by the kinds of the encoding table. -/
  | d | a | b
  /-- A, or this number where it is left out. -/
  | aOr0 | aOr57
  /-- A where the modifier bit of X is set. -/
  | aIf (bit : Nat)
  /-- [a + off], [a + b], [a], and [a] where the modifier bit is clear. -/
  | mem | memx | at_ | atUnless (bit : Nat)
  /-- An immediate of all of I: sign-extended, or zero-extended. -/
  | simm | uimm
  /-- A field of I by lowest bit and width; one that may be left out; one that stands where X bit 0 is set. -/
  | imm (lo w : Nat) | immOpt (lo w : Nat) | immIf (w : Nat)
  /-- The count of a shift, below the lane width. -/
  | count
  /-- A branch target. -/
  | target
  /-- A signal number in I, and in X. -/
  | sig | xsig
  /-- A predicate in X, a CVT format, a block format, the part of CVT, the route of SEND. -/
  | xpred (lo : Nat) | fmt (lo : Nat) | bfmt (lo : Nat) | partOpt | routeIf
  deriving DecidableEq, Repr

/-- A modifier: its suffixes with the X bits that they set, and whether one must stand. -/
structure AsmMod where
  must : Bool
  opts : List (String × Nat)
  deriving DecidableEq, Repr

/-- The assembly form of a mnemonic. -/
structure AsmRow where
  name : String
  op : Nat
  slots : List Slot
  mods : List AsmMod
  deriving DecidableEq, Repr

/-- A modifier that may stand. -/
def flag (s : String) (x : Nat) : AsmMod := ⟨false, [(s, x)]⟩
/-- One of several must stand. -/
def need (l : List (String × Nat)) : AsmMod := ⟨true, l⟩
/-- The condition codes of CMP and CMPI (R125). -/
def ccMod : AsmMod :=
  need [("EQ", 0), ("NE", 1), ("LT", 2), ("LE", 3), ("GT", 4), ("GE", 5), ("BL", 6), ("BE", 7), ("AB", 8), ("AE", 9)]
/-- Those of FCMP (R157). -/
def fccMod : AsmMod :=
  need [("EQ", 0), ("NE", 1), ("LT", 2), ("LE", 3), ("GT", 4), ("GE", 5), ("UN", 6), ("OR", 7)]
/-- How the lanes combine. -/
def combMod : AsmMod := ⟨false, [("ALL", 0x10), ("ANY", 0x20)]⟩
/-- .SAT at X[40]. -/
def satMod : AsmMod := flag "SAT" 0x100
/-- .EXP at X[44]. -/
def expMod : AsmMod := flag "EXP" 0x1000
/-- .S or .U. -/
def signMod : AsmMod := need [("S", 1), ("U", 0)]
/-- The policies of class 0x7 (R216). -/
def polMod : AsmMod := ⟨false, [("ALLOC", 0x40), ("STREAM", 0x50), ("HOME", 0x60)]⟩
/-- The kinds of a fence (R247). -/
def kindMod : AsmMod := need [("ACQ", 1), ("REL", 2), ("FULL", 3)]

/-- Class 0 (R131). -/
def asmRows0 : List AsmRow :=
  [ ⟨"NOP", 0x000, [], []⟩
  , ⟨"BR", 0x001, [.target], []⟩
  , ⟨"BRI", 0x002, [.a], []⟩
  , ⟨"CALL", 0x003, [.target], []⟩
  , ⟨"CALLI", 0x004, [.a], []⟩
  , ⟨"RET", 0x005, [.aOr57], []⟩
  , ⟨"LOOP", 0x006, [.d, .target], []⟩
  , ⟨"PAND", 0x007, [.d, .a, .b], []⟩
  , ⟨"POR", 0x008, [.d, .a, .b], []⟩
  , ⟨"PXOR", 0x009, [.d, .a, .b], []⟩
  , ⟨"PANDN", 0x00A, [.d, .a, .b], []⟩
  , ⟨"PGET", 0x00B, [.d], []⟩
  , ⟨"PSETM", 0x00C, [.a, .imm 0 8], []⟩
  , ⟨"PSET", 0x00D, [.d, .imm 0 1], []⟩ ]

/-- Class 1 (R121). -/
def asmRows1 : List AsmRow :=
  [ ⟨"ADD", 0x040, [.d, .a, .b], []⟩
  , ⟨"ADDI", 0x041, [.d, .a, .simm], []⟩
  , ⟨"SUB", 0x042, [.d, .a, .b], []⟩
  , ⟨"ADDS", 0x043, [.d, .a, .b], []⟩
  , ⟨"SUBS", 0x044, [.d, .a, .b], []⟩
  , ⟨"MUL", 0x045, [.d, .a, .b], []⟩
  , ⟨"MULI", 0x046, [.d, .a, .simm], []⟩
  , ⟨"MULH", 0x047, [.d, .a, .b], []⟩
  , ⟨"DIV", 0x048, [.d, .a, .b], []⟩
  , ⟨"REM", 0x049, [.d, .a, .b], []⟩
  , ⟨"NEG", 0x04A, [.d, .a], []⟩
  , ⟨"ABS", 0x04B, [.d, .a], []⟩
  , ⟨"MIN", 0x04C, [.d, .a, .b], []⟩
  , ⟨"MAX", 0x04D, [.d, .a, .b], []⟩
  , ⟨"AND", 0x04E, [.d, .a, .b], []⟩
  , ⟨"ANDI", 0x04F, [.d, .a, .simm], []⟩
  , ⟨"OR", 0x050, [.d, .a, .b], []⟩
  , ⟨"ORI", 0x051, [.d, .a, .simm], []⟩
  , ⟨"XOR", 0x052, [.d, .a, .b], []⟩
  , ⟨"XORI", 0x053, [.d, .a, .simm], []⟩
  , ⟨"ANDN", 0x054, [.d, .a, .b], []⟩
  , ⟨"SHL", 0x055, [.d, .a, .b], []⟩
  , ⟨"SHLI", 0x056, [.d, .a, .count], []⟩
  , ⟨"SHR", 0x057, [.d, .a, .b], []⟩
  , ⟨"SHRI", 0x058, [.d, .a, .count], []⟩
  , ⟨"ROT", 0x059, [.d, .a, .b], []⟩
  , ⟨"ROTI", 0x05A, [.d, .a, .count], []⟩
  , ⟨"CLZ", 0x05B, [.d, .a], []⟩
  , ⟨"POPC", 0x05C, [.d, .a], []⟩
  , ⟨"BREV", 0x05D, [.d, .a], []⟩
  , ⟨"BFX", 0x05E, [.d, .a, .imm 0 6, .imm 8 7], []⟩
  , ⟨"BFI", 0x05F, [.d, .a, .imm 0 6, .imm 8 7], []⟩
  , ⟨"CMP", 0x060, [.d, .a, .b], [ccMod, combMod]⟩
  , ⟨"CMPI", 0x061, [.d, .a, .simm], [ccMod, combMod]⟩
  , ⟨"SEL", 0x062, [.d, .a, .b, .xpred 0], []⟩
  , ⟨"MOVI", 0x063, [.d, .simm], []⟩
  , ⟨"MOVHI", 0x064, [.d, .uimm], []⟩
  , ⟨"MOV", 0x065, [.d, .a], []⟩
  , ⟨"SHUF", 0x066, [.d, .a, .b], []⟩
  , ⟨"LANEGET", 0x067, [.d, .a, .imm 0 4], []⟩
  , ⟨"LANESET", 0x068, [.d, .a, .imm 0 4], []⟩
  , ⟨"BCAST", 0x069, [.d, .a, .imm 0 4], []⟩ ]

/-- Class 2 (R135). -/
def asmRows2 : List AsmRow :=
  [ ⟨"CAPSUB", 0x080, [.d, .a, .b], []⟩
  , ⟨"CAPLEN", 0x081, [.d, .a], []⟩
  , ⟨"CAPPERM", 0x082, [.d, .a, .imm 0 8], []⟩
  , ⟨"CAPADD", 0x083, [.d, .a, .b], []⟩
  , ⟨"CAPADDI", 0x084, [.d, .a, .simm], []⟩
  , ⟨"CAPSET", 0x085, [.d, .a, .b], []⟩
  , ⟨"CAPGET", 0x086, [.d, .a, .imm 0 4, .immOpt 4 2], []⟩
  , ⟨"CAPTST", 0x087, [.d, .a, .b, .imm 0 8], []⟩
  , ⟨"CAPCLR", 0x088, [.d, .a], []⟩ ]

/-- Class 3 (R108 to R113). -/
def asmRows3 : List AsmRow :=
  [ ⟨"CVT", 0x0C0, [.d, .a, .fmt 4, .fmt 0, .partOpt], [satMod]⟩
  , ⟨"FTOI", 0x0C1, [.d, .a], [signMod, flag "SAT" 2]⟩
  , ⟨"ITOF", 0x0C2, [.d, .a], [signMod]⟩
  , ⟨"BLKSET", 0x0C3, [.d, .a, .bfmt 0], []⟩
  , ⟨"BLKPUT", 0x0C4, [.d, .a, .imm 0 6], [satMod]⟩
  , ⟨"BLKGET", 0x0C5, [.d, .a, .imm 0 6], []⟩
  , ⟨"BLKFIT", 0x0C6, [.d, .a, .bfmt 0], []⟩ ]

/-- Class 4 (R152). -/
def asmRows4 : List AsmRow :=
  [ ⟨"FADD", 0x100, [.d, .a, .b], []⟩
  , ⟨"FSUB", 0x101, [.d, .a, .b], []⟩
  , ⟨"FMUL", 0x102, [.d, .a, .b], []⟩
  , ⟨"FFMA", 0x103, [.d, .a, .b], []⟩
  , ⟨"FFMS", 0x104, [.d, .a, .b], []⟩
  , ⟨"FNFMA", 0x105, [.d, .a, .b], []⟩
  , ⟨"FDIV", 0x106, [.d, .a, .b], []⟩
  , ⟨"FSQRT", 0x107, [.d, .a], []⟩
  , ⟨"FMIN", 0x108, [.d, .a, .b], []⟩
  , ⟨"FMAX", 0x109, [.d, .a, .b], []⟩
  , ⟨"FABS", 0x10A, [.d, .a], []⟩
  , ⟨"FNEG", 0x10B, [.d, .a], []⟩
  , ⟨"FCMP", 0x10C, [.d, .a, .b], [fccMod, combMod]⟩
  , ⟨"FCLASS", 0x10D, [.d, .a], []⟩
  , ⟨"FRINT", 0x10E, [.d, .a], [flag "X" 1]⟩
  , ⟨"FSCALE", 0x10F, [.d, .a, .b], []⟩
  , ⟨"FREDUCE", 0x110, [.d, .a], []⟩ ]

/-- Class 5 (R162, R165, R171, R172). -/
def asmRows5 : List AsmRow :=
  [ ⟨"FEXP", 0x140, [.d, .a], []⟩
  , ⟨"FEXP2", 0x141, [.d, .a], []⟩
  , ⟨"FEXPM1", 0x142, [.d, .a], []⟩
  , ⟨"FLOG", 0x143, [.d, .a], []⟩
  , ⟨"FLOG2", 0x144, [.d, .a], []⟩
  , ⟨"FLOG1P", 0x145, [.d, .a], []⟩
  , ⟨"FERF", 0x146, [.d, .a], []⟩
  , ⟨"FERFC", 0x147, [.d, .a], []⟩
  , ⟨"FRCP", 0x148, [.d, .a], []⟩
  , ⟨"FRSQRT", 0x149, [.d, .a], []⟩
  , ⟨"FCSRGET", 0x14A, [.d], []⟩
  , ⟨"FCSRSET", 0x14B, [.d, .a, .uimm], []⟩
  , ⟨"FFLAGCLR", 0x14C, [.d, .imm 0 5], []⟩
  , ⟨"RND", 0x14D, [.d], []⟩
  , ⟨"RNDSTATE", 0x14E, [.d, .aIf 0], [flag "W" 1]⟩ ]

/-- Class 6 (R180, R190). -/
def asmRows6 : List AsmRow :=
  [ ⟨"MZERO", 0x180, [.d], []⟩
  , ⟨"MDOT", 0x181, [.d, .a, .b], [flag "INCA" 1, flag "INCB" 2]⟩
  , ⟨"MRD", 0x182, [.d, .a, .imm 0 3], [flag "COL" 1]⟩
  , ⟨"MWR", 0x183, [.d, .a, .imm 0 3], [flag "COL" 1]⟩
  , ⟨"MADD", 0x184, [.d, .a], []⟩
  , ⟨"MSCL", 0x185, [.d, .a], []⟩
  , ⟨"MSTAT", 0x186, [.d], []⟩ ]

/-- Class 7 (R216). -/
def asmRows7 : List AsmRow :=
  [ ⟨"LD", 0x1C0, [.d, .mem], [polMod]⟩
  , ⟨"ST", 0x1C1, [.mem, .b], [polMod]⟩
  , ⟨"LDX", 0x1C2, [.d, .memx], [polMod]⟩
  , ⟨"STX", 0x1C3, [.memx, .d], [polMod]⟩
  , ⟨"LDC", 0x1C4, [.d, .mem], [polMod]⟩
  , ⟨"STC", 0x1C5, [.mem, .b], [polMod]⟩
  , ⟨"LDE", 0x1C6, [.d, .mem], []⟩
  , ⟨"LDF", 0x1C7, [.d, .mem], []⟩
  , ⟨"STF", 0x1C8, [.mem, .b], []⟩
  , ⟨"FESET", 0x1C9, [.mem], [need [("FULL", 1), ("EMPTY", 0)]]⟩
  , ⟨"AMO", 0x1CA, [.d, .mem, .b], [need [("ADD", 0), ("AND", 1), ("OR", 2), ("XOR", 3), ("MIN", 4), ("MAX", 5), ("XCHG", 6), ("FADD", 7)]]⟩
  , ⟨"CAS", 0x1CB, [.d, .mem, .b], []⟩
  , ⟨"PREF", 0x1CC, [.mem], []⟩
  , ⟨"LINEWB", 0x1CD, [.mem], []⟩
  , ⟨"LINEINV", 0x1CE, [.mem], []⟩ ]

/-- Class 8 (R247). -/
def asmRows8 : List AsmRow :=
  [ ⟨"FENCE", 0x200, [], [kindMod]⟩
  , ⟨"TMGET", 0x201, [.d], []⟩
  , ⟨"TMCLR", 0x202, [], []⟩
  , ⟨"FENCEH", 0x203, [.a], [kindMod]⟩ ]

/-- Class 9 (R259). -/
def asmRows9 : List AsmRow :=
  [ ⟨"STRM", 0x240, [.d, .a, .b], [need [("IN", 0), ("OUT", 1)]]⟩
  , ⟨"STRMEND", 0x241, [.d], []⟩
  , ⟨"STRMQ", 0x242, [.d, .a], []⟩
  , ⟨"COPY", 0x243, [.d, .a, .b], [expMod]⟩
  , ⟨"COPYC", 0x244, [.d, .a, .b, .bfmt 4, .bfmt 0], [satMod, expMod]⟩
  , ⟨"GATHER", 0x245, [.d, .a, .b], [expMod]⟩
  , ⟨"SCATTER", 0x246, [.d, .a, .b], [expMod]⟩
  , ⟨"TXBINIT", 0x247, [.at_, .imm 0 20], []⟩
  , ⟨"TXBARR", 0x248, [.d, .at_], []⟩
  , ⟨"TXBEXP", 0x249, [.at_, .uimm], []⟩
  , ⟨"TXBWAIT", 0x24A, [.d, .at_, .b], []⟩
  , ⟨"TXBTEST", 0x24B, [.d, .at_, .b], []⟩ ]

/-- Class 10 (R304). -/
def asmRows10 : List AsmRow :=
  [ ⟨"SEND", 0x280, [.at_, .b, .routeIf], [flag "ROUTE" 0x40]⟩
  , ⟨"SENDI", 0x281, [.at_, .uimm, .routeIf], [flag "ROUTE" 0x40]⟩
  , ⟨"INPOP", 0x282, [.d], []⟩
  , ⟨"INPEEK", 0x283, [.d], []⟩
  , ⟨"RTLAT", 0x284, [.d], []⟩
  , ⟨"RTLOAD", 0x285, [.at_], []⟩
  , ⟨"LINKCLR", 0x286, [.d, .imm 0 4], []⟩
  , ⟨"OSEND", 0x287, [.d, .a, .b], [need [("ORDERED", 0), ("UNORDERED", 1)]]⟩
  , ⟨"OSLOT", 0x288, [.d], []⟩
  , ⟨"OFENCE", 0x289, [], []⟩ ]

/-- Class 11 (R329). -/
def asmRows11 : List AsmRow :=
  [ ⟨"PAUSE", 0x2C0, [], []⟩
  , ⟨"EMIT", 0x2C1, [.sig], [flag "REL" 1]⟩
  , ⟨"PRESENT", 0x2C2, [.d, .sig], []⟩
  , ⟨"PREV", 0x2C3, [.d, .sig], []⟩
  , ⟨"WATCH", 0x2C4, [.xsig, .target], [need [("STRONG", 1), ("WEAK", 2), ("SUSPEND", 3)]]⟩
  , ⟨"UNWATCH", 0x2C5, [], []⟩
  , ⟨"CANEMIT", 0x2C6, [.d, .a], []⟩
  , ⟨"DISCLAIM", 0x2C7, [.a], []⟩
  , ⟨"INSTANT", 0x2C8, [.d], []⟩
  , ⟨"RBAR", 0x2C9, [], []⟩
  , ⟨"REXCUSE", 0x2CA, [.d], [need [("ON", 1), ("OFF", 0)]]⟩
  , ⟨"AWAIT", 0x2CB, [.sig], []⟩ ]

/-- Class 12 (R362). -/
def asmRows12 : List AsmRow :=
  [ ⟨"FORK", 0x300, [.d, .target, .a, .b], []⟩
  , ⟨"JOIN", 0x301, [], []⟩
  , ⟨"YIELD", 0x302, [], []⟩
  , ⟨"HALT", 0x303, [.immIf 16], [flag "RETAIN" 1]⟩
  , ⟨"LAUNCH", 0x304, [.d, .a], []⟩
  , ⟨"TRIGGER", 0x305, [], []⟩
  , ⟨"WHO", 0x306, [.d, .imm 0 4], []⟩
  , ⟨"LWAIT", 0x307, [.d, .a], []⟩
  , ⟨"GBAR", 0x308, [], []⟩ ]

/-- Class 13 (R391). -/
def asmRows13 : List AsmRow :=
  [ ⟨"PINIT", 0x340, [.d, .a, .b], []⟩
  , ⟨"PPUT", 0x341, [.at_, .b], []⟩
  , ⟨"PTAKE", 0x342, [.xpred 3, .d, .at_], [need [("WAIT", 0), ("TRY", 1), ("X", 2)]]⟩
  , ⟨"PBOUND", 0x343, [.d, .at_], []⟩
  , ⟨"PSIZE", 0x344, [.d, .at_], []⟩
  , ⟨"PFREE", 0x345, [.d, .at_], []⟩
  , ⟨"PSYNC", 0x346, [.at_], []⟩ ]

/-- Class 14 (R424). -/
def asmRows14 : List AsmRow :=
  [ ⟨"TRAP", 0x380, [.imm 0 8, .aOr0], []⟩
  , ⟨"ERET", 0x381, [], [flag "SKIP" 1]⟩
  , ⟨"CSRGET", 0x382, [.d, .imm 0 12], []⟩
  , ⟨"CSRSET", 0x383, [.d, .a, .imm 0 12], []⟩
  , ⟨"BRK", 0x384, [.imm 0 16], []⟩
  , ⟨"CKPT", 0x385, [.d], []⟩
  , ⟨"TLBINV", 0x386, [.atUnless 0], [need [("ALL", 1), ("PAGE", 0)]]⟩
  , ⟨"CTXSAVE", 0x387, [.d, .a], []⟩
  , ⟨"CTXLOAD", 0x388, [.d, .a], []⟩
  , ⟨"NOTIFY", 0x389, [.d, .a, .imm 0 8], []⟩ ]

/-- Every form. -/
def asmRows : List AsmRow :=
  asmRows0 ++ asmRows1 ++ asmRows2 ++ asmRows3 ++ asmRows4 ++ asmRows5 ++ asmRows6 ++ asmRows7 ++ asmRows8 ++ asmRows9 ++ asmRows10 ++ asmRows11 ++ asmRows12 ++ asmRows13 ++ asmRows14

/-- The form of a mnemonic, in upper case. -/
def asmRow? (s : String) : Option AsmRow := asmRows.find? (fun r => r.name == s)

/-! ### Suffixes (R68) -/

/-- The type suffixes with the codes of R39: integer and memory classes. -/
def intTypes : List (String × Nat) :=
  [("B8", 0), ("B16", 1), ("B32", 2), ("B64", 3), ("I8", 4), ("I16", 5), ("I32", 6), ("I64", 7), ("Q128", 7)]
/-- And floating point. -/
def fpTypes : List (String × Nat) := [("F64", 0), ("F32", 1), ("BF16", 2)]
/-- The rounding suffixes (R38). -/
def rmNames : List (String × Nat) := [("RNE", 0), ("RTZ", 1), ("RDN", 2), ("RUP", 3), ("RNA", 4), ("DYN", 7)]
/-- The scopes. -/
def scopeNames : List (String × Nat) := [("TILE", 0), ("DIE", 1), ("REGION", 2), ("DEVICE", 3), ("SYSTEM", 4)]

/-- The kind of a suffix: type, rounding, scope, modifier. -/
def suffixKind (s : String) : Nat :=
  if (intTypes.lookup s).isSome || (fpTypes.lookup s).isSome then 0
  else if (rmNames.lookup s).isSome then 1
  else if (scopeNames.lookup s).isSome then 2
  else 3

/-- Types, roundings and scopes stand in order, each at most once. -/
def suffixOrder : Nat → List String → Bool
  | _, [] => true
  | k, s :: r => k ≤ suffixKind s && suffixOrder (if suffixKind s = 3 then 3 else suffixKind s + 1) r

/-- W = 7 is .Q128 in the memory class but AMO, in GATHER and SCATTER, and in MOV (R39, R127, R217); else .I64. -/
def wholeType (op : Nat) : Bool := op == 0x065 || (0x1C0 ≤ op && op < 0x240 && op != 0x1CA) || op == 0x245 || op == 0x246

/-- The W field of a type suffix, in an entry that has one. -/
def typeCode (r : EncRow) (s : Option String) : Except Nat Nat :=
  match r.w, s with
  | .reserved, none => .ok 0
  | .reserved, some _ => .error 102
  | _, none => .error 104
  | .fp, some s => match fpTypes.lookup s with | some n => .ok n | none => .error 102
  | .any, some s => match intTypes.lookup s with
    | some n => if n = 7 && (s == "Q128") != wholeType r.op then .error 102 else .ok n
    | none => .error 102
  | .set m, some s => match intTypes.lookup s with
    | some n => if !m.getLsbD n || (n = 7 && (s == "Q128") != wholeType r.op) then .error 102 else .ok n
    | none => .error 102

/-- The X bits of the modifiers, in the entry's order. -/
def modBits : List AsmMod → List String → Except Nat Nat
  | [], [] => .ok 0
  | [], _ :: _ => .error 102
  | m :: r, ss =>
    match ss with
    | [] => if m.must then .error 104 else modBits r []
    | s :: rest =>
      match m.opts.lookup s with
      | some x => (modBits r rest).map (fun y => Nat.lor x y)
      | none =>
        if m.must then .error (if r.any (fun q => (q.opts.lookup s).isSome) then 103 else 102)
        else modBits r (s :: rest)

/-- A modifier that the entry has, but that stands again or out of order. -/
def modCode (mods : List AsmMod) (ss : List String) : Except Nat Nat :=
  match modBits mods ss with
  | .ok x => .ok x
  | .error c => .error (if c = 102 && ss.all (fun s => mods.any (fun m => (m.opts.lookup s).isSome)) then 103 else c)

/-! ### Operands into fields -/

/-- A relocation of the I field. -/
structure FieldRel where
  kind : RelKind
  sym : String
  addend : Int
  deriving DecidableEq, Repr

/-- A word under construction. -/
structure AsmWord where
  w : Word96
  rel : Option FieldRel := none

/-- What a statement's fields are filled with: names, signals, and the word's address. -/
structure AsmCtx where
  env : AsmEnv
  sigs : List (String × Nat)

/-- A register operand as a D, A or B field: number and the marks allowed (R85, R88). -/
def regField (k : OpKind) (pol fwd : Bool) : AsmOp → Except Nat (BitVec 6 × Bool × Bool)
  | .reg n q f =>
    let ok : Except Nat (BitVec 6 × Bool × Bool) :=
      if q && !pol then .error 110 else if f && (!fwd || n < 60) then .error 111 else .ok (BitVec.ofNat 6 n, q, f)
    match k with
    | .reg => if 57 < n then .error 106 else ok
    | .regPort => ok
    | .pair => if 47 < n || n % 2 != 0 then .error 107 else ok
    | .pairPort => if 59 < n then ok else if 47 < n || n % 2 != 0 then .error 107 else ok
    | .quad => if 47 < n || n % 4 != 0 then .error 107 else ok
    | _ => .error 106
  | .pred n => match k with | .pred => .ok (BitVec.ofNat 6 n, false, false) | _ => .error 106
  | .acc n => match k with | .acc => .ok (BitVec.ofNat 6 n, false, false) | _ => .error 106
  | _ => .error 106

/-- Fill D. -/
def putD (r : EncRow) (x : AsmWord) (o : AsmOp) : Except Nat AsmWord := do
  let f ← regField r.dk false false o
  return { x with w := { x.w with d := f.1 } }
/-- Fill A. -/
def putA (r : EncRow) (x : AsmWord) (o : AsmOp) : Except Nat AsmWord := do
  let f ← regField r.ak r.pa r.fa o
  return { x with w := { x.w with a := f.1, pa := f.2.1, x := x.w.x ||| bx 15 f.2.2 } }
/-- Fill B. -/
def putB (r : EncRow) (x : AsmWord) (o : AsmOp) : Except Nat AsmWord := do
  let f ← regField r.bk r.pb r.fb o
  return { x with w := { x.w with b := f.1, pb := f.2.1, x := x.w.x ||| bx 14 f.2.2 } }

/-- A value in a range, as bits. -/
def inRange (v : Lane) (lo hi : Int) : Bool := lo ≤ v.toInt && v.toInt ≤ hi

/-- An immediate of all of I (R69, R72, R87). -/
def wholeImm (c : AsmCtx) (lo hi : Int) (k : ImmOp) (e : Ex) (x : AsmWord) : Except Nat AsmWord := do
  let v ← e.eval c.env
  match k, v.base with
  | .plain, none => if inRange v.v lo hi then return { x with w := { x.w with i := v.v.setWidth 32 } } else .error 108
  | .lo, none => return { x with w := { x.w with i := v.v.setWidth 32 } }
  | .hi, none => return { x with w := { x.w with i := (v.v >>> 32).setWidth 32 } }
  | .sdoff, none => .error 106
  | k, some s =>
    let kind : RelKind := match k with | .plain => .abs32 | .lo => .lo32 | .hi => .hi32 | .sdoff => .sdoff
    return { x with rel := some ⟨kind, s, v.v.toInt⟩ }

/-- An absolute field of I or X. -/
def fieldNum (c : AsmCtx) (w : Nat) (e : Ex) : Except Nat Nat := do
  let v ← e.abs c.env
  if inRange v 0 (2 ^ w - 1 : Nat) then return v.toNat else .error 108

/-- Set bits of I. -/
def orI (x : AsmWord) (lo n : Nat) : AsmWord := { x with w := { x.w with i := x.w.i ||| (BitVec.ofNat 32 n <<< lo) } }
/-- Set bits of X. -/
def orX (x : AsmWord) (lo n : Nat) : AsmWord := { x with w := { x.w with x := x.w.x ||| nx lo n } }

/-- A branch target or a raw count (R69, R87, E109). -/
def putTarget (c : AsmCtx) (x : AsmWord) : AsmOp → Except Nat AsmWord
  | .imm .plain e => do
    let v ← e.abs c.env
    if inRange v (-2147483648) 2147483647 then return { x with w := { x.w with i := v.setWidth 32 } } else .error 108
  | .expr e => do
    let v ← e.eval c.env
    let near (dst : Int) : Except Nat AsmWord :=
      let d := dst - c.env.off
      if d % 12 != 0 || d / 12 < -2147483648 || 2147483647 < d / 12 then .error 109
      else .ok { x with w := { x.w with i := BitVec.ofInt 32 (d / 12) } }
    match v.base with
    | none => near v.v.toInt
    | some s =>
      match c.env.label s with
      | some (k, off) =>
        if k = c.env.sect then near (v.v.toInt + off) else return { x with rel := some ⟨.br, s, v.v.toInt⟩ }
      | none => return { x with rel := some ⟨.br, s, v.v.toInt⟩ }
  | _ => .error 106

/-- A signal number: an immediate, or a name bound by .signal (R79). -/
def signalNum (c : AsmCtx) : AsmOp → Except Nat Nat
  | .imm .plain (.sym s) | .expr (.sym s) =>
    match c.sigs.lookup s with
    | some n => .ok n
    | none => fieldNum c 6 (.sym s)
  | .imm .plain e => fieldNum c 6 e
  | _ => .error 106

/-- The CVT formats by their names (R108). -/
def fmtNames : List (String × Nat) :=
  [("F64", 0), ("F32", 1), ("BF16", 2), ("E4M3", 3), ("INT8", 4), ("HS4", 5), ("LNS6", 6)]
/-- The block formats (R99). -/
def bfmtNames : List (String × Nat) := [("FP32", 1), ("BF16", 2), ("E4M3", 3), ("INT8", 4), ("HS4", 5), ("LNS6", 6)]

/-- A format's code by name. -/
def formatNum (l : List (String × Nat)) : AsmOp → Except Nat Nat
  | .expr (.sym s) => match l.lookup (upper s) with | some n => .ok n | none => .error 106
  | _ => .error 106

/-- A memory operand's register in A. -/
def memBase (r : EncRow) (x : AsmWord) (n : Nat) (q : Bool) : Except Nat AsmWord := putA r x (.reg n q false)

/-- A [a] operand. -/
def putAt (r : EncRow) (x : AsmWord) : AsmOp → Except Nat AsmWord
  | .mem n q none none => memBase r x n q
  | _ => .error 106

/-- Put an operand where its slot says; none where the statement gives no operand. -/
def putSlot (c : AsmCtx) (r : EncRow) (x : AsmWord) (s : Slot) (o : AsmOp) : Except Nat AsmWord :=
  match s with
  | .d => putD r x o
  | .a | .aOr0 | .aOr57 | .aIf _ => putA r x o
  | .b => putB r x o
  | .at_ | .atUnless _ => putAt r x o
  | .mem =>
    match o with
    | .mem n q off none => do
      let x ← memBase r x n q
      match off with
      | none => return x
      | some e => wholeImm c (-2147483648) 2147483647 .plain e x
    | _ => .error 106
  | .memx =>
    match o with
    | .mem n q none (some (m, p)) => do
      let x ← memBase r x n q
      putB r x (.reg m p false)
    | _ => .error 106
  | .simm => match o with | .imm k e => wholeImm c (-2147483648) 2147483647 k e x | _ => .error 106
  | .uimm => match o with | .imm k e => wholeImm c 0 4294967295 k e x | _ => .error 106
  | .imm lo w | .immOpt lo w =>
    match o with | .imm .plain e => do return orI x lo (← fieldNum c w e) | _ => .error 106
  | .immIf w => match o with | .imm .plain e => do return orI x 0 (← fieldNum c w e) | _ => .error 106
  | .count =>
    match o with
    | .imm .plain e => do
      let n ← fieldNum c 6 e
      if n < 2 ^ (3 + x.w.w.toNat % 4) then return orI x 0 n else .error 108
    | _ => .error 106
  | .target => putTarget c x o
  | .sig => do return orI x 0 (← signalNum c o)
  | .xsig => do return orX x 4 (← signalNum c o)
  | .xpred lo => match o with | .pred n => .ok (orX x lo n) | _ => .error 106
  | .fmt lo => do return orX x lo (← formatNum fmtNames o)
  | .bfmt lo => do return orX x lo (← formatNum bfmtNames o)
  | .partOpt => match o with | .imm .plain e => do return orX x 9 (← fieldNum c 4 e) | _ => .error 106
  | .routeIf => match o with | .imm .plain e => do return orX x 0 (← fieldNum c 6 e) | _ => .error 106

/-- A slot stands in the statement, given the modifiers. -/
def Slot.stands (x : BitVec 16) : Slot → Bool
  | .aIf k => x.getLsbD k
  | .atUnless k => !x.getLsbD k
  | .immIf _ => x.getLsbD 0
  | .routeIf => x.getLsbD 6
  | _ => true
/-- A slot that fills A where it stands. -/
def Slot.fillsA : Slot → Bool
  | .aIf _ | .atUnless _ => true
  | _ => false
/-- A slot whose operand may be left out at the end. -/
def Slot.optional : Slot → Bool
  | .aOr0 | .aOr57 | .immOpt _ _ | .partOpt => true
  | _ => false

/-- Put the operands in their slots. -/
def putSlots (c : AsmCtx) (r : EncRow) : List Slot → List AsmOp → AsmWord → Except Nat AsmWord
  | [], [], x => .ok x
  | [], _ :: _, _ => .error 105
  | s :: l, [], x =>
    if s.optional then putSlots c r l [] (if s = .aOr57 then { x with w := { x.w with a := 57 } } else x) else .error 105
  | s :: l, o :: os, x => do
    let x ← putSlot c r x s o
    putSlots c r l os x

/-! ### Hints (R70) -/

/-- The H field of hints; `a` and `b` say whether the instruction reads those sources. -/
def hintBits (a b : Bool) : List String → Except Nat (BitVec 8)
  | [] => .ok 0
  | s :: r => do
    let rest ← hintBits a b r
    let u := upper s
    if u = "LASTA" then (if a && rest &&& 0x80 == 0 then return rest ||| 0x80 else .error 112)
    else if u = "LASTB" then (if b && rest &&& 0x40 == 0 then return rest ||| 0x40 else .error 112)
    else
      match [("PARKS", 1), ("PARKM", 2), ("PARKL", 3)].lookup u,
            ((List.range 15).map (fun n => ("PF" ++ toString (n + 1), n + 1))).lookup u with
      | some k, _ => if rest &&& 3 == 0 then return rest ||| BitVec.ofNat 8 k else .error 112
      | none, some k => if rest &&& 0x3C == 0 then return rest ||| (BitVec.ofNat 8 k <<< 2) else .error 112
      | none, none => .error 112

/-! ### A whole instruction -/

/-- Does the instruction read the register in A? MADD's and MRD's A is an accumulator, and STRMQ does not read it. That a
predicate or an accumulator is no source for ~lastA and ~lastB is DEDUCED (log 47). -/
def encReadsA (r : EncRow) : Bool :=
  match r.ak with | .unused | .pred | .acc => false | _ => r.op != 0x242
/-- And in B? -/
def encReadsB (r : EncRow) : Bool := match r.bk with | .unused | .pred | .acc => false | _ => true

/-- Decode checks that are left once the operands stand (R85): which error each limit is. -/
def checkError (op : Nat) : Illegal → Nat
  | .reservedField => 108
  | .rounding | .fpType => 102
  | .pairOrQuad => 107
  | .regNumber => 106
  | .forward => 111
  | .operandKind => if op == 0x006 || op == 0x240 || op == 0x241 then 106 else if op == 0x1CA || op == 0x181 then 102 else 108
  | _ => 101

/-- Assemble an instruction: its form, suffixes, guard, operands and hints. -/
def asmInstr (c : AsmCtx) (row : AsmRow) (sufs : List String) (gn : Bool) (gp : Nat) (ops : List (List Tok))
    (hints : Option (List String)) : Except Nat AsmWord :=
  match rowOf (BitVec.ofNat 10 row.op) with
  | none => .error 101
  | some r => do
    if !suffixOrder 0 sufs then .error 103
    let w ← typeCode r (sufs.find? (fun s => suffixKind s == 0))
    let rm ← match sufs.find? (fun s => suffixKind s == 1) with
      | none => .ok 0
      | some s => if r.rm then .ok ((rmNames.lookup s).getD 0) else .error 102
    let fence := row.op == 0x200 || row.op == 0x203
    let sc ← match sufs.find? (fun s => suffixKind s == 2) with
      | none => if fence then .error 104 else .ok 0
      | some s => if fence then .ok ((scopeNames.lookup s).getD 0) else .error 102
    let mods ← modCode row.mods (sufs.filter (fun s => suffixKind s == 3))
    let x : BitVec 16 := BitVec.ofNat 16 mods ||| nx 2 sc
    let hs ← match hints with
      | none => .error 112
      | some l => hintBits (encReadsA r && !(row.slots.any (fun y => y.fillsA && !y.stands x))) (encReadsB r) l
    let w0 : Word96 :=
      { word (BitVec.ofNat 10 row.op) { gn := gn, gp := Fin.ofNat 8 gp, hint := hs } with
        rm := BitVec.ofNat 3 rm, w := BitVec.ofNat 3 w, x := x }
    let os ← ops.mapM (fun ts => match operandOf ts with | some o => Except.ok o | none => .error 106)
    let y ← putSlots c r (row.slots.filter (Slot.stands x)) os { w := w0 }
    match r.check y.w with
    | some e => .error (checkError row.op e)
    | none => return y

end Sys2Proof.Machine
end

