-- ==== Sys2Proof/Machine/Ndas.lean ====
section
/-! DEFINITION. The assembler ndas (03 R64 to R89): files and macros, statements, directives, checks, listings, objects. -/

namespace Sys2Proof.Machine

/-! ### Files, includes and macros (R64, R75, R84) -/

/-- A source line: file, number, text, and how deep it stands in includes and in macro expansions. -/
structure SrcLine where
  file : String
  line : Nat
  text : List Char
  inc : Nat
  mac : Nat
  deriving DecidableEq, Repr

/-- A line as it is assembled: one that is not live is only listed. -/
structure SrcItem where
  file : String
  line : Nat
  text : List Char
  err : Option Nat := none
  live : Bool := true
  label : Option String := none   -- the label of a line that is not live
  deriving DecidableEq, Repr

/-- A macro. -/
structure AsmMacro where
  name : String
  params : List String
  body : List (List Char)
  deriving DecidableEq, Repr

/-- The parts of a statement (R66). -/
structure StmtHead where
  label : Option String := none
  guard : Option (List Char) := none
  head : String := ""
  rest : List Char := []
  deriving DecidableEq, Repr

/-- A leading label. -/
def takeLabel (l : List Char) : Option (String × List Char) :=
  let l := l.dropWhile Char.isWhitespace
  let x := spanChars nameChar l
  match x.1, x.2.dropWhile Char.isWhitespace with
  | c :: r, ':' :: rest => if nameStart c then some (String.ofList (c :: r), rest) else none
  | _, _ => none

/-- A leading guard, in brackets. -/
def takeGuard (l : List Char) : Option (List Char × List Char) :=
  match l.dropWhile Char.isWhitespace with
  | '(' :: r => let x := spanChars (· != ')') r; some (trimChars x.1, x.2.drop 1)
  | _ => none

/-- A line as it is listed: mnemonic and suffixes in upper case (R66). -/
def listedText (line : List Char) : List Char :=
  let l := stripComment false line
  let l1 := ((takeLabel l).map (·.2)).getD l
  let l2 := ((takeGuard l1).map (·.2)).getD l1
  let body := l2.dropWhile Char.isWhitespace
  let head := (spanChars nameChar body).1
  let at_ := l.length - body.length
  if (asmRow? (upper (String.ofList (spanChars (· != '.') head).1))).isSome then
    line.take at_ ++ head.map Char.toUpper ++ line.drop (at_ + head.length)
  else line

/-- Part a statement. -/
def stmtHead (line : List Char) : StmtHead :=
  let l := stripComment false line
  let lab := takeLabel l
  let l := (lab.map (·.2)).getD l
  let g := takeGuard l
  let l := ((g.map (·.2)).getD l).dropWhile Char.isWhitespace
  let x := spanChars nameChar l
  { label := lab.map (·.1), guard := g.map (·.1), head := String.ofList x.1, rest := trimChars x.2 }

/-- The directives (R75). -/
def directiveNames : List String :=
  [".TEXT", ".DATA", ".SDATA", ".GLOBAL", ".EQU", ".INCLUDE", ".ALIGN", ".WORD", ".DWORD", ".QUAD", ".F32", ".F64",
   ".BF16", ".BLOCK", ".SIGNAL", ".POOL", ".ROUTE", ".LAUNCH", ".DET", ".LEVEL", ".MACRO", ".ENDM", ".INST"]

/-- The mnemonic of a head, before its suffixes. -/
def mnemonicOf (head : String) : String := upper (String.ofList (spanChars (· != '.') head.toList).1)

/-- A name that no symbol may have (R74). Symbol names are case-sensitive, and the worked programs define `loop` and
`wait`: a mnemonic is meant as the listing prints it (DEDUCED). DEDUCED (log 47). -/
def reservedName (s : String) : Bool :=
  (regNames.lookup s).isSome || (predNames.lookup s).isSome || (accNames.lookup s).isSome || (asmRow? s).isSome
    || directiveNames.contains (upper s)
/-- A name that no macro may have (R84). -/
def reservedMacro (s : String) : Bool := (asmRow? (upper s)).isSome || directiveNames.contains (upper s)

/-- The longest parameter that a text begins with. -/
def longestParam (l : List Char) : List String → Option String
  | [] => none
  | p :: r =>
    match longestParam l r with
    | some q => if p.toList.isPrefixOf l && q.length < p.length then some p else some q
    | none => if p.toList.isPrefixOf l && !p.isEmpty then some p else none

/-- Replace %p by its argument and %= by the expansion's number (R84). -/
def substitute (args : List (String × List Char)) (uniq : Nat) : Nat → List Char → List Char
  | 0, l => l
  | _, [] => []
  | f + 1, '%' :: '=' :: r => (toString uniq).toList ++ substitute args uniq f r
  | f + 1, '%' :: r =>
    match longestParam r (args.map (·.1)) with
    | some p => ((args.lookup p).getD []) ++ substitute args uniq f (r.drop p.length)
    | none => '%' :: substitute args uniq f r
  | f + 1, c :: r => c :: substitute args uniq f r

/-- The directory of a path, with its last slash. -/
def dirOf (path : String) : String := String.ofList ((path.toList.reverse.dropWhile (· != '/')).reverse)

/-- Find a file of .include: beside the file that includes it, then along the search list. R64 says "the source file's own
directory"; for a nested .include that the including file is meant is DEDUCED (log 47). -/
def findInclude (fs : List (String × String)) (dirs : List String) (fromFile name : String) : Option (String × String) :=
  ((dirOf fromFile :: dirs.map (fun d => d ++ "/")).map (fun d => d ++ name)).findSome? (fun p => (fs.lookup p).map (fun t => (p, t)))

/-- What the reading of a file has come to. -/
structure Reading where
  out : List SrcItem := []          -- the last first
  macros : List AsmMacro := []
  open_ : Option AsmMacro := none   -- the definition being read
  count : Nat := 0                  -- expansions so far
  deriving DecidableEq, Repr

/-- A listed line; one that is not live may still bear a label (R66). -/
def SrcLine.item (l : SrcLine) (live : Bool) (err : Option Nat := none) (label : Option String := none) : SrcItem :=
  { file := l.file, line := l.line, text := l.text, err := err, live := live, label := label }

/-- The lines of a file. -/
def fileLines (name text : String) (inc mac : Nat) : List SrcLine :=
  ((linesOf text).zipIdx 1).map (fun x => ⟨name, x.2, x.1, inc, mac⟩)

/-- A quoted name. -/
def quotedName (l : List Char) : Option String :=
  match l with
  | '"' :: r => let x := spanChars (· != '"') r; if x.2 == ['"'] then some (String.ofList x.1) else none
  | _ => none

/-- Read a line: macro definitions, includes and expansions; the number bounds how deep they nest. A macro defined again
replaces the earlier one, arguments beyond the parameters are dropped, and a macro named like a mnemonic or a directive
raises E202: DEDUCED (log 47). -/
def readLine (fs : List (String × String)) (dirs : List String) : Nat → Reading → SrcLine → Reading
  | 0, r, _ => r
  | f + 1, r, l =>
    let h := stmtHead l.text
    let d := upper h.head
    let add (it : SrcItem) (r : Reading) : Reading := { r with out := it :: r.out }
    match r.open_ with
    | some m =>
      if d = ".ENDM" then add (l.item false none h.label) { r with macros := m :: r.macros, open_ := none }
      else if d = ".MACRO" then add (l.item false (some 303)) r
      else add (l.item false) { r with open_ := some { m with body := m.body ++ [l.text] } }
    | none =>
      if d = ".ENDM" then add (l.item false (some 303) h.label) r
      else if d = ".MACRO" then
        let x := spanChars nameChar h.rest
        let name := String.ofList x.1
        let m : AsmMacro := ⟨name, (commaArgs x.2).map String.ofList, []⟩
        add (l.item false (if name.isEmpty || reservedMacro name then some 202 else none) h.label) { r with open_ := some m }
      else if d = ".INCLUDE" then
        match (if 16 ≤ l.inc then none else (quotedName h.rest).bind (findInclude fs dirs l.file)) with
        | none => add (l.item false (some 304) h.label) r
        | some (p, t) => (fileLines p t (l.inc + 1) l.mac).foldl (readLine fs dirs f) (add (l.item false none h.label) r)
      else
        match r.macros.find? (fun m => m.name == h.head) with
        | none => add (l.item true) r
        | some m =>
          if h.guard.isSome then add (l.item false (some 316) h.label) r
          else if 16 ≤ l.mac then add (l.item false (some 302) h.label) r
          else
            let args := commaArgs h.rest
            let bound := (m.params.zipIdx).map (fun p => (p.1, args.getD p.2 []))
            let r := add (l.item false none h.label) { r with count := r.count + 1 }
            let n := r.count
            (m.body.map (fun b => (⟨l.file, l.line, substitute bound n (b.length + 1) b, l.inc, l.mac + 1⟩ : SrcLine))).foldl
              (readLine fs dirs f) r

/-- The lines of a source file as they are assembled. -/
def readSource (fs : List (String × String)) (dirs : List String) (name text : String) : List SrcItem :=
  let ls := fileLines name text 0 0
  let r := ls.foldl (readLine fs dirs 40) {}
  let last : List SrcItem := if r.open_.isSome then
    [{ file := name, line := ls.length, text := [], err := some 303, live := false }] else []
  r.out.reverse ++ last

/-! ### A pass over the statements -/

/-- A row of the listing: line number (none on a continuation), offset, words with their marks, source text. -/
structure ListRow where
  line : Option Nat
  off : Option Nat
  words : List (Nat × Bool)
  src : List Char
  diags : List Diag := []
  deriving DecidableEq, Repr

/-- What a pass hands to the next: the names and the file-wide facts. -/
structure AsmFacts where
  labels : List (String × Sect × Nat) := []
  equs : List (String × Lane) := []
  sigs : List (String × Nat) := []
  det : Bool := false
  mask : Lane := 0
  deriving DecidableEq, Repr

/-- The state of a pass. `streams` are the registers in stream mode, true for output; `consts` the lane 0 of registers
that MOVI has set. -/
structure AsmPass where
  sect : Sect := .text
  text : List Byte := []
  data : List Byte := []
  sdata : List Byte := []
  aligns : Nat × Nat × Nat := (64, 64, 16)
  facts : AsmFacts := {}
  globals : List String := []
  kernel : Bool := false
  streams : List (Nat × Bool) := []
  consts : List (Nat × Lane) := []
  routes : List Nat := []
  launches : List Nat := []
  relocs : List Reloc := []
  rows : List ListRow := []
  notes : List Nat := []          -- codes of the statement at hand
  shown : Option (Option Nat × List (Nat × Bool)) := none   -- its offset and words in the listing
  deriving DecidableEq, Repr

/-- The bytes of a section. -/
def AsmPass.bytes (a : AsmPass) : Sect → List Byte
  | .text => a.text | .data => a.data | .sdata => a.sdata
/-- Append bytes to a section. -/
def AsmPass.emit (a : AsmPass) (k : Sect) (l : List Byte) : AsmPass :=
  match k with
  | .text => { a with text := a.text ++ l }
  | .data => { a with data := a.data ++ l }
  | .sdata => { a with sdata := a.sdata ++ l }
/-- The offset in the current section. -/
def AsmPass.off (a : AsmPass) : Nat := (a.bytes a.sect).length
/-- Note a code. -/
def AsmPass.note (a : AsmPass) (c : Nat) : AsmPass := { a with notes := a.notes ++ [c] }
/-- Names as the statement sees them: those of this pass, then those of the pass before. -/
def AsmPass.env (a : AsmPass) (prev : AsmFacts) : AsmEnv :=
  { labels := a.facts.labels ++ prev.labels, equs := a.facts.equs ++ prev.equs, sect := a.sect, off := a.off }
/-- The words of bytes, lowest first, little-endian. -/
def wordsOf : List Byte → List Nat
  | [] => []
  | a :: b :: c :: d :: r => (le32 a b c d).toNat :: wordsOf r
  | l => [(l.zipIdx.map (fun x => x.1.toNat * 256 ^ x.2)).sum]

/-- A name is taken (E202). -/
def AsmPass.taken (a : AsmPass) (s : String) : Bool :=
  (a.facts.labels.lookup s).isSome || (a.facts.equs.lookup s).isSome || reservedName s
/-- Define a label. -/
def AsmPass.define (a : AsmPass) (s : String) (k : Sect) (off : Nat) : AsmPass :=
  if a.taken s then a.note 202
  else { a with facts := { a.facts with labels := a.facts.labels ++ [(s, k, off)] } }

/-- A name of a symbol (R74). -/
def symbolName (l : List Char) : Option String :=
  match l with
  | c :: r => if nameStart c && r.all nameChar then some (String.ofList l) else none
  | [] => none

/-- Pad .data with zero bytes to a multiple. -/
def AsmPass.padData (a : AsmPass) (n : Nat) : AsmPass :=
  { a.emit .data (List.replicate ((n - a.data.length % n) % n) 0) with aligns := (a.aligns.1, max a.aligns.2.1 n, a.aligns.2.2) }

/-- Data bytes into the current section, listed from `from_`; W407 in .text. -/
def AsmPass.dataBytes (a : AsmPass) (l : List Byte) (stars : List Nat := []) : AsmPass :=
  let a1 := if a.sect = .text then a.note 407 else a
  { a1.emit a.sect l with shown := some (some a.off, (wordsOf l).zipIdx.map (fun x => (x.1, stars.contains x.2))) }

/-! ### Directives (R75 to R83) -/

/-- Values of 4, 8 or 16 bytes (R75): bytes, relocations, and the words that ndld fills. -/
def AsmPass.values (a : AsmPass) (prev : AsmFacts) (n : Nat) (args : List (List Char)) : Except Nat AsmPass :=
  let start := a.off
  let one (x : List Byte × List Reloc × List Nat) (p : List Char × Nat) : Except Nat (List Byte × List Reloc × List Nat) :=
    match exOf (toksOf p.1) with
    | none => .error 203
    | some e => do
      let v ← e.eval (a.env prev)
      let pos := start + n * p.2
      match v.base with
      | none =>
        if n = 4 && !inRange v.v (-2147483648) 4294967295 then .error 108
        else return (x.1 ++ bytesOfNat n (v.v.signExtend 128).toNat, x.2.1, x.2.2)
      | some s =>
        if n = 16 then .error 203
        else
          let r : Reloc := ⟨a.sect, pos, pos, if n = 4 then .abs32 else .abs64, s, v.v.toInt⟩
          let ks := if n = 4 then [p.2] else [2 * p.2, 2 * p.2 + 1]
          return (x.1 ++ List.replicate n 0, x.2.1 ++ [r], x.2.2 ++ ks)
  do
    let x ← args.zipIdx.foldlM one ([], [], [])
    return { a.dataBytes x.1 x.2.2 with relocs := a.relocs ++ x.2.1 }

/-- Floating-point values (R77). A statement draws W401 once, however many of its values were rounded: DEDUCED (log 47). -/
def AsmPass.floats (a : AsmPass) (f : BFormat) (args : List (List Char)) : Except Nat AsmPass :=
  let one (x : List Byte × Bool) (l : List Char) : Except Nat (List Byte × Bool) :=
    match decValOf l with
    | none => .error 306
    | some v => do
      let c ← v.code f
      return (x.1 ++ bytesOfNat (f.width / 8) c.1, x.2 || c.2)
  do
    let x ← args.foldlM one ([], false)
    return (if x.2 then (a.note 401).dataBytes x.1 else a.dataBytes x.1)

/-- The elements of a block (R78). An element that is rounded draws no W401: DEDUCED (log 47). -/
def blockElements (f : BFmt) (vals : List (List Char)) : Except Nat (List Nat) :=
  vals.mapM (fun l =>
    match decValOf l with
    | none => .error 306
    | some v =>
      let r := f.fmt.conv .rne false v.val
      if Nat.land r.2 (NV + OF) != 0 then .error 306 else .ok r.1)

/-- .block (R78). -/
def AsmPass.block (a : AsmPass) (args : List (List Char)) : Except Nat AsmPass :=
  match args with
  | fm :: sc :: vals =>
    match (bfmtNames.lookup (upper (String.ofList fm))).bind bfmtOf, decValOf sc with
    | some f, some (.fin false v) => do
      let s ← (DecVal.fin false v).code bf16
      if !scaleOk s.1 then .error 306
      let es ← blockElements f vals
      if f.count < es.length || (f == .hs4 && es.length != 120) then .error 306
      let blank := if f == .lns6 then 0x20 else 0
      let b := (List.range f.count).foldl (fun (n : Nat) i => f.setElement n i (es.getD i blank)) (mkHeader f s.1)
      let a := if s.2 then a.note 401 else a
      return a.dataBytes (bytesOfNat 64 b)
    | _, _ => .error 306
  | _ => .error 306

/-- A key and its value. -/
def keyValue (l : List Char) : Option (String × List Char) :=
  let x := spanChars (· != '=') l
  match x.2 with
  | _ :: v => some (String.ofList (trimChars x.1), trimChars v)
  | [] => none

/-- .signal (R79). That R74's rules for names do not bind its name is DEDUCED (log 47). -/
def AsmPass.signal (a : AsmPass) (prev : AsmFacts) (args : List (List Char)) : Except Nat AsmPass :=
  match args with
  | [n, e] =>
    match symbolName n with
    | none => .error 310
    | some s => do
      let v ← absOf (a.env prev) e
      let k := v.toNat
      if !inRange v 0 63 || a.facts.sigs.any (fun x => (x.1 == s) != (x.2 == k)) then .error 310
      else return { a with facts := { a.facts with sigs := a.facts.sigs ++ [(s, k)] } }
  | _ => .error 310

/-- .pool (R80). -/
def AsmPass.pool (a : AsmPass) (prev : AsmFacts) (args : List (List Char)) : Except Nat AsmPass :=
  match args with
  | n :: keys =>
    match symbolName n with
    | none => .error 311
    | some s => do
      let ks ← keys.mapM (fun l => match keyValue l with | some x => Except.ok x | none => .error 311)
      let limit (k : String) : Option Nat := [("k", 64), ("w", 65535), ("agemax", 65535)].lookup k
      let vs ← ks.mapM (fun x => do
        match limit x.1 with
        | none => .error 311
        | some m => do
          let v ← absOf (a.env prev) x.2
          if inRange v 1 m then return (x.1, v.toNat) else .error 311)
      let field (k : String) (d : Nat) : Nat := (vs.reverse.lookup k).getD d
      let rec_ := field "k" 16 + field "w" 256 * 2 ^ 16 + field "agemax" 64 * 2 ^ 32
      let a := a.padData 16
      let at_ := a.data.length
      let l := bytesOfNat 16 rec_
      return { (a.define s .data at_).emit .data l with shown := some (some at_, (wordsOf l).map (fun w => (w, false))) }
  | [] => .error 311

/-- The hop codes of .route (R81). -/
def hopNames : List (String × Nat) :=
  [("N", 0), ("E", 1), ("S", 2), ("W", 3), ("N4", 4), ("E4", 5), ("S4", 6), ("W4", 7)]

/-- .route (R81). A hop of no such name raises E309: DEDUCED (log 47). -/
def AsmPass.route (a : AsmPass) (prev : AsmFacts) (args : List (List Char)) : Except Nat AsmPass :=
  match args with
  | n :: hops => do
    let v ← absOf (a.env prev) n
    let k := v.toNat
    if !inRange v 0 63 || a.routes.contains k || hops.isEmpty || 37 < hops.length then .error 309
    let cs ← hops.mapM (fun h => match hopNames.lookup (upper (String.ofList h)) with
      | some c => Except.ok (Fin.ofNat 8 c) | none => .error 309)
    if breaksWest false cs then .error 308
    let packed := (cs.zipIdx.map (fun x => x.1.val * 8 ^ x.2)).sum
    let a := a.padData 16
    let at_ := a.data.length
    let l := bytesOfNat 16 (k + hops.length * 256 + packed * 65536)
    return { (a.define ("route." ++ toString k) .data at_).emit .data l with
      routes := k :: a.routes, shown := some (some at_, (wordsOf l).map (fun w => (w, false))) }
  | [] => .error 309

/-- The signal-name table of a launch (R79, R339). -/
def signalTable (sigs : List (String × Nat)) : List Byte :=
  (List.range 64).flatMap (fun k =>
    match sigs.find? (fun x => x.2 == k) with
    | none => List.replicate 16 0
    | some x =>
      let b := (x.1.toList.map (fun c => BitVec.ofNat 8 c.toNat)).take 16
      b ++ List.replicate (16 - b.length) 0)

/-- Sizes of spalloc, with LOG2 (R82). -/
def spallocNames : List (String × Nat) :=
  [("4K", 12), ("8K", 13), ("16K", 14), ("32K", 15), ("64K", 16), ("128K", 17), ("256K", 18)]

/-- A numeric key of .launch: limits and lowest bit in the descriptor (R82, R339). -/
def launchKeys : List (String × Int × Int × Nat) :=
  [("groups", 1, 65536, 64), ("strands", 1, 8, 96), ("discard", 0, 4294967295, 192), ("prio", 0, 3, 112),
   ("stagger", 0, 65535, 128), ("seed", -9223372036854775808, 9223372036854775807, 256)]

/-- .launch (R82, R339): the descriptor and, where the file binds signals, the table of their names behind it. -/
def AsmPass.launch (a : AsmPass) (prev : AsmFacts) (args : List (List Char)) : Except Nat AsmPass :=
  match args with
  | n :: keys =>
    match symbolName n with
    | none => .error 307
    | some s => do
      let ks ← keys.mapM (fun l => match keyValue l with | some x => Except.ok x | none => .error 307)
      let entry ← match (ks.reverse.lookup "entry").map (fun l => exOf (toksOf l)) with
        | some (some e) => e.eval (a.env prev)
        | _ => .error 307
      let target ← match entry.base with
        | none => .error 307
        | some t => match (a.env prev).label t with
          | some (.text, _) | none => .ok t
          | _ => .error 307
      let log2 ← match ks.reverse.lookup "spalloc" with
        | none => .ok 12
        | some l => match spallocNames.lookup (upper (String.ofList l)) with | some k => .ok k | none => .error 307
      let nums ← (ks.filter (fun x => x.1 != "entry" && x.1 != "spalloc")).mapM (fun x => do
        match launchKeys.lookup x.1 with
        | none => .error 307
        | some (lo, hi, at_) => do
          let v ← match absOf (a.env prev) x.2 with
            | .ok v => .ok v
            | .error c => .error (if c = 201 then 201 else 307)
          if inRange v lo hi then return (x.1, v.toNat * 2 ^ at_) else .error 307)
      let part (k : String) (d : Nat) : Nat := (nums.reverse.lookup k).getD d
      let d := part "groups" (2 ^ 64) + part "strands" (2 ^ 96) + log2 * 2 ^ 104 + part "prio" 0 + part "stagger" 0
        + part "discard" 0 + part "seed" 0 + (if prev.det || a.facts.det then 2 ^ 116 else 0)
      let a := a.padData 64
      let at_ := a.data.length
      let rel : Reloc := ⟨.data, at_, at_, .entry, target, entry.v.toInt⟩
      let sigs := if prev.sigs.isEmpty then a.facts.sigs else prev.sigs
      let a := { (a.define s .data at_).emit .data (bytesOfNat 64 d) with
        launches := a.launches ++ [at_], relocs := a.relocs ++ [rel], shown := some (some at_, []) }
      if sigs.isEmpty then return a
      else
        let tab := s ++ ".sig"
        return { (a.define tab .data (at_ + 64)).emit .data (signalTable sigs) with
          relocs := a.relocs ++ [⟨.data, at_ + 40, at_ + 40, .abs64, tab, 0⟩] }
  | [] => .error 307

/-- .align (R76), listed with its offset and the words that it emits (R89). -/
def AsmPass.align (a : AsmPass) (prev : AsmFacts) (arg : List Char) : Except Nat AsmPass := do
  let v ← absOf (a.env prev) arg
  let n := v.toNat
  if !([4, 8, 16, 32, 64, 128, 256, 512, 1024, 2048, 4096] : List Nat).contains n then .error 305
  let up (x : Nat) : Nat := max x n
  let grown : Nat × Nat × Nat := match a.sect with
    | .text => (up a.aligns.1, a.aligns.2)
    | .data => (a.aligns.1, up a.aligns.2.1, a.aligns.2.2)
    | .sdata => (a.aligns.1, a.aligns.2.1, up a.aligns.2.2)
  let a := { a with aligns := grown }
  let fill (k : Nat) : AsmPass :=
    { a.emit a.sect (List.replicate k 0) with shown := some (some a.off, List.replicate ((k + 3) / 4) (0, false)) }
  if a.sect != .text then return fill ((n - a.off % n) % n)
  else match (List.range n).find? (fun k => (a.off + 12 * k) % n == 0) with
    | some k => return fill (12 * k)
    | none => .error 305

/-- .inst (R83). -/
def AsmPass.inst (a : AsmPass) (prev : AsmFacts) (args : List (List Char)) : Except Nat AsmPass :=
  if a.sect != .text then .error 315
  else
    match args with
    | [x, y, z] => do
      let ws ← [z, y, x].mapM (fun l => do
        let v ← absOf (a.env prev) l
        if inRange v 0 4294967295 then return v.toNat else .error 108)
      let l := ws.flatMap (bytesOfNat 4)
      let a := match decodeBytes l with | .ok _ => a | .error _ => a.note 406
      return { a.emit .text l with shown := some (some a.off, ws.reverse.map (fun w => (w, false))) }
    | _ => .error 105

/-- A directive by its name in upper case. What stands behind .text, .data, .sdata and .det is not read: DEDUCED (log 47). -/
def AsmPass.directive (a : AsmPass) (prev : AsmFacts) (name : String) (rest : List Char) : Except Nat AsmPass :=
  let args := commaArgs rest
  match name with
  | ".TEXT" => .ok { a with sect := .text }
  | ".DATA" => .ok { a with sect := .data }
  | ".SDATA" => .ok { a with sect := .sdata }
  | ".GLOBAL" =>
    if args.all (fun l => (symbolName l).isSome) then .ok { a with globals := a.globals ++ args.map String.ofList } else .error 106
  | ".EQU" =>
    match args with
    | [n, e] =>
      match symbolName n with
      | none => .error 106
      | some s =>
        if a.taken s then .error 202
        else do
          let v ← absOf (a.env prev) e
          return { a with facts := { a.facts with equs := a.facts.equs ++ [(s, v)] } }
    | _ => .error 105
  | ".ALIGN" => match args with | [n] => a.align prev n | _ => .error 305
  | ".WORD" => a.values prev 4 args
  | ".DWORD" => a.values prev 8 args
  | ".QUAD" => a.values prev 16 args
  | ".F32" => a.floats f32 args
  | ".F64" => a.floats f64 args
  | ".BF16" => a.floats bf16 args
  | ".BLOCK" => a.block args
  | ".SIGNAL" => a.signal prev args
  | ".POOL" => a.pool prev args
  | ".ROUTE" => a.route prev args
  | ".LAUNCH" => a.launch prev args
  | ".DET" => .ok { a with facts := { a.facts with det := true } }
  | ".LEVEL" =>
    match args.map (fun l => upper (String.ofList l)) with
    | ["U"] => .ok { a with kernel := false }
    | ["K"] => .ok { a with kernel := true }
    | _ => .error 106
  | ".INST" => a.inst prev args
  | _ => .error 301

/-! ### Instructions -/

/-- A guard: GN and GP, or E113 (R67). -/
def guardOf : Option (List Char) → Except Nat (Bool × Nat)
  | none => .ok (false, 0)
  | some l =>
    let neg := l.head? == some '!'
    let p := trimChars (if neg then l.drop 1 else l)
    match predNames.lookup (String.ofList p) with
    | some n => .ok (neg, n)
    | none => .error 113

/-- Instructions of K alone (R44, R85). -/
def kernelOps : List Nat := [0x14E, 0x285, 0x2CA, 0x340, 0x345, 0x381, 0x385, 0x386, 0x387, 0x388]
/-- Instructions that read D and do not write it. -/
def dReadOnly : List Nat := [0x1C3, 0x243, 0x244, 0x245, 0x246, 0x287]

/-- Instructions that read D and write it: LOOP, BFI, MOVHI, LANESET, BLKSET, BLKFIT, FFMA, FFMS, FNFMA, CAS
(R37, R154, R86). -/
def dAlsoRead : List Nat := [0x006, 0x05F, 0x064, 0x068, 0x0C3, 0x0C6, 0x103, 0x104, 0x105, 0x1CB]

/-- A CVT into more lanes than its source has reads D too (R109). -/
def cvtReadsD (w : Word96) : Bool :=
  match fmtOf (w.xf 4 4), fmtOf (w.xf 0 4) with
  | some s, some t => s.lanes < t.lanes
  | _, _ => false

/-- Whether a word reads its D field's register. -/
def readsD (r : EncRow) (w : Word96) : Bool :=
  dReadOnly.contains r.op || dAlsoRead.contains r.op || (r.op == 0x0C0 && cvtReadsD w)

/-- The D field is a register that the instruction writes. -/
def writesD (r : EncRow) : Bool :=
  match r.dk with | .reg | .regPort => !dReadOnly.contains r.op && r.op != 0x240 && r.op != 0x241 | _ => false

/-- The registers of pair and quad fields. -/
def groupRegs (k : OpKind) (f : BitVec 6) : List Nat :=
  match k with
  | .pair => [f.toNat, f.toNat + 1]
  | .pairPort => if f.toNat < 48 then [f.toNat, f.toNat + 1] else []
  | .quad => [f.toNat, f.toNat + 1, f.toNat + 2, f.toNat + 3]
  | _ => []

/-- The checks that a word draws in its place: errors, then warnings (R85, R86). -/
def AsmPass.checks (a : AsmPass) (prev : AsmFacts) (r : EncRow) (w : Word96) : List Nat :=
  let inStream (n : Nat) (out : Bool) : Bool := a.streams.any (fun x => x.1 == n && x.2 == out)
  let pairs := groupRegs r.dk w.d ++ groupRegs r.ak w.a ++ groupRegs r.bk w.b
  let kOnly := kernelOps.contains r.op
    || (r.op == 0x383 && csrDefined w.i.toNat && !csrWritable w.i.toNat false)
  let reads := (if encReadsA r then [w.a.toNat] else []) ++ (if encReadsB r then [w.b.toNat] else [])
    ++ (if readsD r w then [w.d.toNat] else [])
  (if !a.kernel && kOnly then [312] else [])
    ++ (if (prev.det || a.facts.det) && r.op == 0x342 && w.xf 0 2 != 2 then [314] else [])
    ++ (if pairs.any (fun n => inStream n true || inStream n false) then [313] else [])
    ++ (if w.gn && w.gp == 0 then [402] else [])
    ++ (if r.op == 0x2C1 && !prev.mask.getLsbD (w.i.toNat % 64) then [403] else [])
    ++ (if (writesD r && inStream w.d.toNat false) || reads.any (fun n => inStream n true) then [404] else [])

/-- What a word changes for the statements behind it: stream mode, constants, the masks of CANEMIT. -/
def AsmPass.follow (a : AsmPass) (r : EncRow) (w : Word96) : AsmPass :=
  let d := w.d.toNat
  let known (n : Nat) : Option Lane := if n = 0 then some 0 else a.consts.lookup n
  let streams := if r.op == 0x240 then (d, w.xb 0) :: a.streams.filter (fun x => x.1 != d)
    else if r.op == 0x241 then a.streams.filter (fun x => x.1 != d) else a.streams
  let value : Option Lane :=
    if r.op == 0x063 then
      let n := 8 * 2 ^ (w.w.toNat % 4)
      let v := (w.i.signExtend 64).toNat % 2 ^ n
      some (BitVec.ofNat 64 (((List.range (64 / n)).map (fun k => v * 2 ^ (n * k))).sum))
    else if r.op == 0x064 then (known d).map (fun v => BitVec.ofNat 64 (v.toNat % 2 ^ 32 + w.i.toNat * 2 ^ 32))
    else none
  let kept := if writesD r || (groupRegs r.dk w.d).contains d then a.consts.filter (fun x => x.1 != d && !(groupRegs r.dk w.d).contains x.1)
    else a.consts
  let mask := if r.op == 0x2C6 then a.facts.mask ||| (known w.a.toNat).getD 0 else a.facts.mask
  { a with streams := streams, consts := (value.map (fun v => (d, v))).toList ++ kept, facts := { a.facts with mask := mask } }

/-- An instruction statement. -/
def AsmPass.instr (a : AsmPass) (prev : AsmFacts) (h : StmtHead) : AsmPass :=
  let parts := (splitArgs '.' 0 false [] h.head.toList).map String.ofList
  match asmRow? (upper (parts.headD "")) with
  | none => a.note 101
  | some row =>
    if a.sect != .text then a.note 315
    else
      let blank (c : Nat) : AsmPass := (a.note c).emit .text (List.replicate 12 0)
      let x := splitHints none [] (toksOf h.rest)
      let ops := if x.1.isEmpty then [] else splitToks [] x.1
      let sigs := a.facts.sigs ++ prev.sigs
      match guardOf h.guard with
      | .error c => blank c
      | .ok (gn, gp) =>
        match asmInstr ⟨a.env prev, sigs⟩ row ((parts.drop 1).map upper) gn gp ops (hintNames x.2) with
        | .error c => blank c
        | .ok y =>
          match rowOf (BitVec.ofNat 10 row.op) with
          | none => blank 101
          | some r =>
            let at_ := a.off
            let rel : List Reloc := (y.rel.map (fun f => (⟨.text, at_, at_, f.kind, f.sym, f.addend⟩ : Reloc))).toList
            let a := (a.checks prev r y.w).foldl AsmPass.note a
            let a := (a.follow r y.w).emit .text y.w.bytes
            { a with relocs := a.relocs ++ rel
                     shown := some (some at_, [(y.w.word2.toNat, false), (y.w.word1.toNat, false), (y.w.i.toNat, !rel.isEmpty)]) }

/-- One statement. -/
def AsmPass.stmt (a : AsmPass) (prev : AsmFacts) (text : List Char) : AsmPass :=
  let h := stmtHead text
  let a := match h.label with | none => a | some s => a.define s a.sect a.off
  if h.head.isEmpty then (if h.rest.isEmpty && h.guard.isNone then a else a.note 101)
  else if h.head.toList.head? == some '.' then
    if h.guard.isSome then a.note 301
    else match a.directive prev (upper h.head) h.rest with
      | .ok a => a
      | .error c => a.note c
  else a.instr prev h

/-- One line, with its diagnostics and its rows of the listing. Which column a diagnostic names is left open. The source
text keeps its comment, as the listings of chapters 18 to 21 do and that of R89 does not, and a macro's body keeps its
case where it is defined: DEDUCED (log 47). -/
def AsmPass.line (prev : AsmFacts) (a : AsmPass) (it : SrcItem) : AsmPass :=
  let a := { a with notes := [], shown := none }
  let a := match it.err with
    | some c => a.note c
    | none => if it.live then a.stmt prev it.text else a
  let a := match it.label with | none => a | some s => a.define s a.sect a.off
  let ds : List Diag := a.notes.map (fun c => ⟨it.file, it.line, Config.diagColumn it.file it.line c, c⟩)
  let off := a.shown.bind (·.1)
  let ws := (a.shown.map (·.2)).getD []
  let first : ListRow := { line := some it.line, off := off, words := ws.take 4, src := if it.live then listedText it.text else it.text, diags := ds }
  let more := (List.range ((ws.length + 3) / 4 - 1)).map (fun k =>
    ({ line := none, off := off.map (· + 16 * (k + 1)), words := (ws.drop (4 * (k + 1))).take 4, src := [] } : ListRow))
  { a with rows := a.rows ++ first :: more }

/-- Assemble a file's lines: passes until the names that stand behind their use are known. DEDUCED (log 47). -/
def assemble (start : AsmPass) (its : List SrcItem) : AsmPass :=
  let pass (prev : AsmFacts) : AsmPass := its.foldl (AsmPass.line prev) start
  let p1 := pass {}
  let p2 := pass p1.facts
  let p3 := pass p2.facts
  pass p3.facts

/-! ### Listings and objects (R88, R89) -/

/-- The meanings of the codes (R88). -/
def diagMeanings : List (Nat × String) :=
  [(101, "unknown mnemonic"),
   (102, "suffix not accepted by the mnemonic"),
   (103, "suffixes out of order, or a kind repeated"),
   (104, "required type suffix missing"),
   (105, "wrong number of operands"),
   (106, "operand kind not allowed"),
   (107, "misaligned pair or quad, or beyond c47"),
   (108, "immediate out of range"),
   (109, "branch target not a multiple of 12 from the instruction, or out of range"),
   (110, "? on an operand that is not a source"),
   (111, "> on an operand that is not a link-port source"),
   (112, "unknown, repeated or inapplicable hint"),
   (113, "guard predicate not p0 to p7"),
   (201, "undefined symbol where an absolute value is required"),
   (202, "symbol defined twice"),
   (203, "expression neither absolute nor relocatable"),
   (204, "division by zero in an expression"),
   (205, "negative shift count in an expression"),
   (301, "unknown directive"),
   (302, "macro expansion beyond 16 deep"),
   (303, ".endm without .macro, or .macro without .endm at end of file"),
   (304, ".include file not found, or nesting beyond 16"),
   (305, "bad .align value"),
   (306, "bad floating-point value or .block"),
   (307, "bad .launch"),
   (308, ".route breaks the west-first rule"),
   (309, ".route number or hop count out of range, or repeated"),
   (310, ".signal number out of range, or name and number bound twice"),
   (311, ".pool parameter out of range"),
   (312, "K-only instruction or CSR write in U code"),
   (313, "stream register in a pair or quad"),
   (314, "PTAKE without .X in a deterministic file"),
   (315, "instruction outside .text"),
   (316, "guard before a macro"),
   (401, "value rounded"),
   (402, "guard (!p0) never executes"),
   (403, "EMIT of a signal no CANEMIT in the file names"),
   (404, "input stream written or output stream read"),
   (406, ".inst word fails decode"),
   (407, "data in .text")]

/-- n digits in a base of 16. -/
def hexDigits : Nat → Nat → List Char
  | 0, _ => []
  | n + 1, v => hexDigits n (v / 16) ++ [(("0123456789ABCDEF".toList)[v % 16]?).getD '0']
/-- A word as 0x0000_0000. -/
def hexWord (v : Nat) : String := "0x" ++ String.ofList (hexDigits 4 (v / 65536)) ++ "_" ++ String.ofList (hexDigits 4 v)
/-- Pad with blanks behind. -/
def padTo (n : Nat) (s : String) : String := s ++ String.ofList (List.replicate (n - s.length) ' ')
/-- Pad with blanks before. -/
def padLeft (n : Nat) (s : String) : String := String.ofList (List.replicate (n - s.length) ' ') ++ s

/-- A diagnostic as it is printed (R88). -/
def Diag.text (d : Diag) : String :=
  d.file ++ ":" ++ toString d.line ++ ":" ++ toString d.col ++ ": " ++ (if d.code < 400 then "E" else "W") ++ toString d.code
    ++ " " ++ (diagMeanings.lookup d.code).getD ""

/-- The words of a row. -/
def ListRow.wordText (r : ListRow) : String :=
  " ".intercalate (r.words.map (fun w => hexWord w.1 ++ if w.2 then "*" else ""))

/-- A row of the listing, its source text from a column on. -/
def ListRow.text (col : Nat) (r : ListRow) : String :=
  let front := padLeft 5 ((r.line.map toString).getD "") ++ (match r.off with
    | none => ""
    | some o => "  " ++ hexWord o ++ (if r.words.isEmpty then "" else "  " ++ r.wordText))
  if r.src.isEmpty then front else padTo col front ++ String.ofList r.src

/-- The name of a relocation (R87). -/
def RelKind.name : RelKind → String
  | .abs32 => "NDREL_ABS32" | .abs64 => "NDREL_ABS64" | .lo32 => "NDREL_LO32" | .hi32 => "NDREL_HI32" | .br => "NDREL_BR"
  | .entry => "NDREL_ENTRY" | .sdoff => "NDREL_SDOFF"

/-- The symbols of a pass by section and offset. That a .global of a name with no label has no effect is DEDUCED (log 47). -/
def AsmPass.symbols (a : AsmPass) : List Symbol :=
  let all := a.facts.labels.map (fun x => (⟨x.1, x.2.1, x.2.2, a.globals.contains x.1⟩ : Symbol))
  let ins (s : Symbol) (l : List Symbol) : List Symbol :=
    l.takeWhile (fun t => t.off ≤ s.off) ++ s :: l.dropWhile (fun t => t.off ≤ s.off)
  [Sect.data, .sdata, .text].flatMap (fun k => (all.filter (fun s => s.sect == k)).foldl (fun l s => ins s l) [])

/-- An addend with its sign. -/
def addendText (n : Int) : String := if n < 0 then "-" ++ toString n.natAbs else "+" ++ toString n.natAbs

/-- Lines under a heading, which stands before the first. -/
def headed (h : String) : List String → List String
  | [] => []
  | l :: r => (padTo 13 h ++ l) :: r.map (fun x => padTo 13 "" ++ x)

/-- The listing (R89). -/
def AsmPass.listing (a : AsmPass) (suppressed : Nat → Bool) : List String :=
  let col := 23 + (a.rows.map (fun r => r.wordText.length)).foldl max 35
  let lines := a.rows.flatMap (fun r => r.text col :: (r.diags.filter (fun d => !suppressed d.code)).map Diag.text)
  let wide (l : List Nat) : Nat := l.foldl max 0 + 2
  let sy := a.symbols
  let n := wide (sy.map (fun s => s.name.length))
  let m := wide (sy.map (fun s => s.sect.start.length))
  let sLines := sy.map (fun s => padTo n s.name ++ padTo m s.sect.start ++ hexWord s.off ++ "  " ++ (if s.global then "global" else "local"))
  let j := wide (a.relocs.map (fun r => r.kind.name.length))
  let rLines := a.relocs.map (fun r => r.sect.start ++ " " ++ hexWord r.off ++ "  " ++ padTo j r.kind.name ++ r.sym ++ "  " ++ addendText r.addend)
  lines ++ [""] ++ headed "symbols:" sLines ++ headed "relocations:" rLines

/-! ### The command (R64, R65) -/

/-- The command line. -/
structure AsmCommand where
  out : Option String := none
  list : Bool := false
  dirs : List String := []
  defs : List (String × List Char) := []
  kernel : Bool := false
  det : Bool := false
  werror : Bool := false
  quiet : List Nat := []
  sources : List String := []
  deriving DecidableEq, Repr

/-- Read the arguments in order (R64). DEDUCED (log 48). -/
def readArgs : AsmCommand → List String → AsmCommand
  | c, [] => c
  | c, "-o" :: n :: r => readArgs { c with out := some n } r
  | c, "-I" :: d :: r => readArgs { c with dirs := c.dirs ++ [d] } r
  | c, "-D" :: d :: r =>
    match keyValue d.toList with
    | some x => readArgs { c with defs := c.defs.filter (fun y => y.1 != x.1) ++ [x] } r
    | none => readArgs { c with defs := c.defs ++ [(d, [])] } r
  | c, "-w" :: n :: r => readArgs { c with quiet := c.quiet ++ ((digitsVal 10 n.toList).toList) } r
  | c, a :: r =>
    if a = "-l" then readArgs { c with list := true } r
    else if a = "--level=U" then readArgs { c with kernel := false } r
    else if a = "--level=K" then readArgs { c with kernel := true } r
    else if a = "--det" then readArgs { c with det := true } r
    else if a = "-Werror" then readArgs { c with werror := true } r
    else readArgs { c with sources := c.sources ++ [a] } r

/-- A file's name without directory and extension. -/
def baseName (p : String) : String :=
  let n := (p.toList.reverse.takeWhile (· != '/')).reverse
  match spanChars (· != '.') n.reverse with
  | (_, _ :: r) => String.ofList r.reverse
  | _ => String.ofList n

/-- What a source file gives: its object, its diagnostics, its listing. -/
structure AsmResult where
  object : Option Object
  diags : List Diag
  listing : Option (String × List String)
  deriving DecidableEq, Repr

/-- The pass at the start of a file: the definitions of -D, the level, and DET. -/
def AsmCommand.start (c : AsmCommand) : AsmPass :=
  let equs := c.defs.foldl (fun (l : List (String × Lane)) d =>
    match absOf { equs := l } d.2 with | .ok v => l ++ [(d.1, v)] | .error _ => l) []
  { kernel := c.kernel, facts := { equs := equs, det := c.det } }

/-- Errors of the definitions of -D. They give status 1 and no object; that they print no diagnostic is DEDUCED (log 48). -/
def AsmCommand.badDefs (c : AsmCommand) : Bool :=
  c.defs.length != c.start.facts.equs.length || c.defs.any (fun d => reservedName d.1 || (symbolName d.1.toList).isNone)

/-- Assemble one source file. That directories of -I behind the 32nd are not searched is DEDUCED (log 48). -/
def AsmCommand.file (c : AsmCommand) (fs : List (String × String)) (num : Nat) (name text : String) : AsmResult :=
  let p := assemble c.start (readSource fs (c.dirs.take 32) name text)
  let quiet (k : Nat) : Bool := 400 ≤ k && c.quiet.contains k
  let ds := (p.rows.flatMap (·.diags)).filter (fun d => !quiet d.code)
  let bad := c.badDefs || ds.any (fun d => d.code < 400 || c.werror)
  let obj := c.out.getD (baseName name ++ ".ndo")
  let o : Object :=
    { num := num, name := obj, text := p.text, data := p.data, sdata := p.sdata, aligns := p.aligns, launches := p.launches
      symbols := p.symbols, relocs := p.relocs }
  { object := if bad then none else some o, diags := ds
    listing := if c.list then some (dirOf obj ++ baseName obj ++ ".ndl", p.listing quiet) else none }

/-- NDAS (R64, R65): the arguments of the command, and the files that it meets.
That status 2 goes before status 1 is DEDUCED (log 48). DEDUCED (log 47). -/
def execNdas (options : List String) (files : UserFiles) (s : State) : Out :=
  .next <|
    let c := readArgs {} options
    if c.out.isSome && c.sources.length != 1 then { s with tools := s.tools ++ [⟨1, [], []⟩] }
    else
      let found := c.sources.filterMap (fun n => (files.texts.lookup n).map (fun t => (n, t)))
      let rs := found.zipIdx.map (fun x => c.file files.texts (s.nextId + x.2) x.1.1 x.1.2)
      let made := rs.filterMap (·.object)
      let objs := made.filter (fun o => !files.locked.contains o.name)
      let lists := rs.filterMap (·.listing)
      let shut := objs.length < made.length || lists.any (fun l => files.locked.contains l.1)
      let status := if found.length < c.sources.length || shut then 2 else if rs.any (fun r => r.object.isNone) then 1 else 0
      { s with
        nextId := s.nextId + found.length
        objects := s.objects.filter (fun o => !objs.any (fun q => q.name == o.name)) ++ objs
        tools := s.tools ++ [⟨status, rs.flatMap (·.diags), lists.filter (fun l => !files.locked.contains l.1)⟩] }

end Sys2Proof.Machine
end

