-- ==== Sys2Proof/Machine/Ndld.lean ====
section
/-! DEFINITION. ndld: it places the sections of objects, resolves their relocations and makes one linked object
(03 R72, R73, R82, R87, 19 R461). -/

namespace Sys2Proof.Machine

/-- An object and where its sections begin in the linked sections. -/
structure Placed where
  obj : Object
  text : Nat
  data : Nat
  sdata : Nat
  deriving DecidableEq, Repr

/-- The link so far. -/
structure LinkAcc where
  text : List Byte := []
  data : List Byte := []
  sdata : List Byte := []
  placed : List Placed := []
  deriving DecidableEq, Repr

/-- Bytes that pad a section to a multiple of n: NOP words in .text, as .align lays them (R76), zeros elsewhere. -/
def linkPad (code : Bool) (len n : Nat) : List Byte :=
  if n = 0 then []
  else if code then
    match (List.range n).find? (fun k => (len + 12 * k) % n = 0) with
    | some k => List.replicate (12 * k) 0
    | none => []
  else List.replicate ((n - len % n) % n) 0

/-- Lay an object's sections behind those of the link (R73). -/
def LinkAcc.add (a : LinkAcc) (o : Object) : LinkAcc :=
  let text := a.text ++ linkPad true a.text.length o.aligns.1
  let data := a.data ++ linkPad false a.data.length o.aligns.2.1
  let sdata := a.sdata ++ linkPad false a.sdata.length o.aligns.2.2
  { text := text ++ o.text, data := data ++ o.data, sdata := sdata ++ o.sdata
    placed := a.placed ++ [⟨o, text.length, data.length, sdata.length⟩] }

/-- Where a section of an object begins in its linked section. -/
def Placed.start (p : Placed) : Sect → Nat
  | .text => p.text | .data => p.data | .sdata => p.sdata

/-- The final addresses at which linked sections begin: .sdata at offset 0 of every group's LOCAL (R73). -/
structure LinkBase where
  text : Nat
  data : Nat
  deriving DecidableEq, Repr

/-- Where a linked section begins. -/
def LinkBase.start (b : LinkBase) : Sect → Nat
  | .text => b.text | .data => b.data | .sdata => 0

/-- A resolved symbol: its section and its final address. -/
structure SymAddr where
  sect : Sect
  addr : Nat
  deriving DecidableEq, Repr

/-- The symbol of a name in an object. -/
def Object.symbol? (o : Object) (n : String) : Option Symbol := o.symbols.find? (fun y => y.name == n)

/-- The symbol that a relocation of p names (R74, R87): one of its own file, the start of one of its sections, or one
that another file exports. -/
def LinkAcc.resolve (a : LinkAcc) (b : LinkBase) (p : Placed) (n : String) : Option SymAddr :=
  let at_ (q : Placed) (y : Symbol) : SymAddr := ⟨y.sect, b.start y.sect + q.start y.sect + y.off⟩
  match p.obj.symbol? n with
  | some y => some (at_ p y)
  | none =>
    match [Sect.text, .data, .sdata].find? (fun k => k.start == n) with
    | some k => some ⟨k, b.start k + p.start k⟩
    | none => a.placed.findSome? (fun q => (q.obj.symbols.find? (fun y => y.global && y.name == n)).map (at_ q))

/-- The log2 allocation of each descriptor of an object (R340). -/
def Object.spallocs (o : Object) : List Nat := o.launches.map (fun at_ => (o.data.getD (at_ + 13) 0).toNat % 32)

/-- The value and the bytes of a relocation's field, none where its check fails (R87). -/
def relocField (k : RelKind) (y : SymAddr) (addend : Int) (place textBase textLen alloc : Nat) : Option (Nat × BitVec 64) :=
  let v : Int := y.addr + addend
  let w : BitVec 64 := BitVec.ofInt 64 v
  match k with
  | .abs32 => if -2 ^ 31 ≤ v && v < 2 ^ 32 then some (4, w) else none
  | .abs64 => some (8, w)
  | .lo32 => some (4, w)
  | .hi32 => some (4, w >>> 32)
  | .br =>
    let d := v - place
    if d % 12 == 0 && -2 ^ 31 ≤ d / 12 && d / 12 < 2 ^ 31 then some (4, BitVec.ofInt 64 (d / 12)) else none
  | .entry =>
    if y.sect == .text && v % 4 == 0 && textBase ≤ v && v < textBase + textLen then some (8, w) else none
  | .sdoff => if y.sect == .sdata && 0 ≤ v && v < alloc then some (4, w) else none

/-- Write bytes into a list. -/
def patchBytes (l : List Byte) (off : Nat) (b : List Byte) : List Byte := l.take off ++ b ++ l.drop (off + b.length)

/-- Apply a relocation of p. -/
def LinkAcc.relocate (a : LinkAcc) (b : LinkBase) (alloc : Nat) (p : Placed) (r : Reloc) : Option LinkAcc :=
  match a.resolve b p r.sym with
  | none => none
  | some y =>
    match relocField r.kind y r.addend (b.start r.sect + p.start r.sect + r.place) b.text a.text.length alloc with
    | none => none
    | some (n, v) =>
      let off := p.start r.sect + r.off
      let bs := bytesOfNat n (v.toNat % 256 ^ n)
      match r.sect with
      | .text => some { a with text := patchBytes a.text off bs }
      | .data => some { a with data := patchBytes a.data off bs }
      | .sdata => some { a with sdata := patchBytes a.sdata off bs }

/-- A linked symbol. -/
def Placed.moved (p : Placed) (y : Symbol) : Symbol := { y with off := p.start y.sect + y.off }

/-- Link objects (R73, R87): .text from offset 0 of the launch's code pages, .data at the start of a 64 KiB page, .sdata at
offset 0 of LOCAL. The link fails when an undefined symbol or a failed check stands in it, when two files export one name,
or when .sdata does not fit into a launch's allocation (R82). DEDUCED (log 48). -/
def linkObjects (os : List Object) (num dataPage : Nat) : Option Object :=
  let a := os.foldl LinkAcc.add {}
  let b : LinkBase := ⟨0, 65536 * ((a.text.length + 65535) / 65536 + dataPage % 2 ^ 27)⟩
  let alloc := 2 ^ ((os.flatMap Object.spallocs).foldl min 18)
  let globals := os.flatMap (fun o => (o.symbols.filter (·.global)).map (·.name))
  if alloc < a.sdata.length || globals.eraseDups.length != globals.length then none
  else
    let one (x : Option LinkAcc) (p : Placed) : Option LinkAcc :=
      p.obj.relocs.foldl (fun (x : Option LinkAcc) r => match x with
        | some a => a.relocate b alloc p r
        | none => none) x
    match a.placed.foldl one (some a) with
    | none => none
    | some c => some
      { num := num, name := ((os.map (·.name)).headD ""), linked := true, text := c.text, data := c.data, sdata := c.sdata
        aligns := (64, 65536, 64), launches := c.placed.flatMap (fun p => p.obj.launches.map (p.data + ·))
        symbols := c.placed.flatMap (fun p => p.obj.symbols.map p.moved), relocs := [], textBase := b.text, dataBase := b.data }

/-- NDLD (R72, R73, R87): link the objects of these numbers. An object that is not there gives status 2, and a failed link
status 1 and no object. Which 64 KiB page .data receives is left open. DESIGN CHOICE (log 8). DEDUCED (log 48). -/
def execNdld (objects : List Nat) (s : State) : Out :=
  .next <|
    let os := objects.filterMap (fun n => s.objects.find? (fun o => o.num == n))
    if os.length < objects.length || os.isEmpty then { s with tools := s.tools ++ [⟨2, [], []⟩] }
    else match linkObjects os s.nextId (Config.freeLane s.fresh).toNat with
      | none => { s with tools := s.tools ++ [⟨1, [], []⟩] }
      | some o =>
        { s with
          objects := s.objects ++ [o], nextId := s.nextId + 1, fresh := s.fresh + 1, tools := s.tools ++ [⟨0, [], []⟩] }

end Sys2Proof.Machine
end

