-- ==== Sys2Proof/Machine/System.lean ====
section
/-! DEFINITION. Class 0xE but for the control registers: TRAP, ERET, BRK, CKPT, TLBINV, CTXSAVE, CTXLOAD and NOTIFY (15
R407 to R410, R424 to R432). -/

namespace Sys2Proof.Machine

/-! ### TRAP, BRK, ERET, CKPT (R425, R426, R428) -/

/-- TRAP (R425): raises SOFTWARE. -/
def execTrap (h : Head) (code : BitVec 8) (a : PSrc) (s : State) : Out :=
  .next (s.issue h {} [pop1 a] [] (fun l _ => .trap ⟨.software, 0, code.toNat, lane0 (opv l 0)⟩))

/-- BRK (R413, R425): in a launch with a debugger attached it halts the group and stands unexecuted; else it raises BREAK. -/
def execBrk (h : Head) (code : BitVec 16) (s : State) : Out :=
  .next (s.issue h {} [] [] (fun _ s =>
    if (s.myLaunch.map (·.debugged)).getD false then
      .raw ((s.modSt (fun t => { t with brk := true })).halt s.g.gid)
    else .trap ⟨.break_, 0, 0x01, code.setWidth 64⟩))

/-- ERET (R400, R426). -/
def execEret (h : Head) (skip : Bool) (s : State) : Out :=
  .next (s.issue h { konly := true } [] [] (fun _ s => .go (s.modSt (fun t => t.leave skip))))

/-- CKPT (R428): marks the instant for a point and gives the number that the point will take. -/
def execCkpt (h : Head) (d : Reg) (s : State) : Out :=
  .next (s.issue h { konly := true } [] [d] (fun _ s =>
    match s.myLaunch with
    | none => .ok (s.writeReg d 0)
    | some l =>
      if !l.recov then .ok (s.writeReg d 0)
      else .ok ((s.modLaunch l.num (fun l => { l with ckpt := true })).writeReg d (quad2 (BitVec.ofNat 64 (l.points + 1)) 0))))

/-! ### TLBINV (R429) -/

/-- Strands whose walks are in flight. -/
def State.walking (s : State) : List StrandId :=
  s.groups.flatMap (fun g => (g.strands.filter (fun t => t.2.walkWant.isSome)).map (fun t => (⟨g.gid, t.1⟩ : StrandId)))

/-- Entries of the issuing tenant that a test picks leave every TLB of the launch's dies. -/
def State.dropTlb (s : State) (pick : TlbEntry → Bool) : State :=
  let tn := s.myTenant
  let gone (e : TlbEntry) : Bool := e.tenant == tn && pick e
  let clear (d : Die) : Die := { d with tlb := d.tlb.filter (fun e => !gone e.2), l2 := d.l2.filter (fun e => !gone e) }
  s.myDies.foldl (fun (s : State) v => s.modDie v clear) s

/-- TLBINV: the entries go, and the strand waits for the walks that had begun. -/
def State.tlbinv (s : State) (pick : TlbEntry → Bool) : Res :=
  let waits (s : State) (l : List StrandId) : Res :=
    if l.any (fun w => ((s.strand? w).map (fun t => t.walkWant.isSome)).getD false) then
      .park .tlbinv (s.modSt (fun t => { t with prog := .walksOut l }))
    else .ok s
  match s.st.prog with
  | .walksOut l => waits s l
  | _ => waits (s.dropTlb pick) s.walking

/-- TLBINV.ALL. -/
def execTlbinvAll (h : Head) (s : State) : Out :=
  .next (s.issue h { konly := true } [] [] (fun _ s => s.tlbinv (fun _ => true)))
/-- TLBINV.PAGE: the entries that map the cursor of A. -/
def execTlbinvPage (h : Head) (a : PSrc) (s : State) : Out :=
  .next (s.issue h { konly := true } [pop1 a] [] (fun l s =>
    let c := (opv l 0).v
    s.checkCaps [(opv l 0, { spaces := fun n => 2 ≤ n && n ≤ 5 })] (s.tlbinv (fun e => e.hits (capSpace c) (capCursor c)))))

/-! ### Context images (R407 to R410, R430, R431) -/

/-- Bytes of the control part. -/
def imageControl : Nat := 65536
/-- Bytes of an image. -/
def Group.imageSize (g : Group) : Nat := imageControl + g.size

/-- The header of an image without its SEAL (R408). -/
def State.imageHeader (s : State) (g : Group) (point : Nat) : Nat :=
  let l := s.launch? g.gid.launch
  point * 2 ^ 384 + g.discard.toNat * 2 ^ 352 + (g.logical / 12) * 2 ^ 312 + (g.logical % 12) * 2 ^ 304 + g.die * 2 ^ 296
    + g.log2 * 2 ^ 288 + g.gid.num * 2 ^ 256 + ((l.map (·.tnum)).getD 0) * 2 ^ 224 + ((l.map (·.tenant)).getD 0) * 2 ^ 192 + 1

/-- Byte k of the control part: the header; SEAL and what lies behind the header are the device's. -/
def State.imageByte (s : State) (im : Image) (k : Nat) : Byte :=
  if k < 56 then BitVec.ofNat 8 (s.imageHeader im.group 0 / 2 ^ (8 * k)) else Config.imageSealedByte (im.seed + k)

/-- Is a byte of a group's scratchpad discardable (R410)? -/
def Group.discardable (g : Group) (off : Nat) : Bool := g.discard.getLsbD (off / (g.size / 32) % 32)

/-- The byte that an image holds at a position; none where a discardable part was not written. -/
def State.imageAt (s : State) (im : Image) (k : Nat) : Option Byte :=
  if k < imageControl then some (s.imageByte im k)
  else if im.group.discardable (k - imageControl) then none
  else some (im.group.spad.read (k - imageControl))

/-- Byte positions of a capability's words in memory. -/
def imageCells (ws : List EngWord) : List (Nat × Nat) :=
  ws.flatMap (fun w => (List.range w.len).map (fun j => (w.pos + j, match w.target with | .mem k => k + j | .sp _ o => o + j)))

/-- Write an image where the words lie, with the tags of the scratchpad's granules (R196, R407, R410).
DESIGN CHOICE (log 13). -/
def State.writeImage (s : State) (im : Image) (ws : List EngWord) : State :=
  let who := some im.group.gid.launch
  let s := (imageCells ws).foldl (fun (s : State) c =>
    match s.imageAt im c.1 with
    | some b => (s.logWrite who c.2 1).writeMem c.2 [b]
    | none => s) s
  (imageCells ws).foldl (fun (s : State) c =>
    if imageControl ≤ c.1 && c.1 % 16 == 0 && !im.group.discardable (c.1 - imageControl)
        && im.group.spTags.contains ((c.1 - imageControl) / 16) then
      { s with memTags := insertNat (c.2 / 16) s.memTags }
    else s) s

/-- The image that the words hold, if its SEAL verifies and it is one of the group (R409). DESIGN CHOICE (log 13). -/
def State.findImage (s : State) (ws : List EngWord) : Option Image :=
  s.images.find? (fun im => im.group.gid == s.g.gid && im.group.imageSize == s.g.imageSize
    && (imageCells ws).all (fun c => match s.imageAt im c.1 with
      | none => true
      | some b => s.mem.read c.2 == b && (c.1 < imageControl || c.1 % 16 != 0
          || s.memTags.contains (c.2 / 16) == im.group.spTags.contains ((c.1 - imageControl) / 16))))

/-- The capability of CTXSAVE and CTXLOAD: CST is tested with the permissions, before the alignment (R46, R430). -/
def ctxAsk : CapAsk := { ld := true, st := true, spaces := fun n => 2 ≤ n && n ≤ 4, align := 4096, cst := true }

/-- The checks of CTXSAVE and CTXLOAD, and the words of the image. -/
def State.ctxCheck (s : State) (x : RegCell) (k : List EngWord → State → Res) : Res :=
  s.checkCaps [(x, ctxAsk)] (
    if capRest x.v < s.g.imageSize then .trap ⟨.capbound, 0, 0x06, capPointer x.v⟩
    else
      let r := s.engWords x.v 0 s.g.imageSize true true
      match r.1 with
      | .error (some p) => .trap ⟨.xlate, 0, p.detail - 0x80, p.ptr⟩
      | .error none => .trap ⟨.xlate, 0, 0x01, capPointer x.v⟩
      | .ok ws => k ws r.2)

/-- The other strands stop, then go on (R430, R431). DEDUCED (log 35). -/
def State.ctxStop (s : State) (k : State → Res) : Res :=
  match s.st.prog with
  | .answered _ _ _ _ => k s
  | _ => .park .ctx (s.askStop s.g.gid .ctx (some s.slot))

/-- A strand as an image holds it: TMASK 0, not stopped. -/
def Strand.imaged (t : Strand) : Strand := { t with tmask := 0, stopped := false, held := false, wdFrom := none }

/-- The group as an image of the issuing strand's CTXSAVE holds it: the strand has completed, with D lane 0 = 1. -/
def State.imageGroup (s : State) (d : Reg) : Group :=
  let s := (s.modSt Strand.step12).writeReg d (quad2 1 0)
  let g := s.g.settle (s.now + 4 * s.cyc)
  { g.mapSt Strand.imaged with stop := none, store := g.store.map (fun x => { x with st := x.st.imaged }) }

/-- CTXSAVE (R430): the live strand receives 0, and every strand is released. DESIGN CHOICE (log 13). -/
def execCtxsave (h : Head) (d : Reg) (a : PSrc) (s : State) : Out :=
  .next (s.issue h { konly := true } [pop1 a] [d] (fun l s =>
    s.ctxCheck (opv l 0) (fun ws s => s.ctxStop (fun s =>
      let i := s.g.gid
      let s := s.quiesce i
      let im : Image :=
        { group := s.imageGroup d, seed := s.fresh, by_ := s.slot, d := d
          held := s.held.filter (fun x => x.1.src == .copyUnit i), landed := s.landed.filter (fun l => l.g == i && l.stuck) }
      let s := { s with fresh := s.fresh + imageControl, images := s.images ++ [im] }
      let s := s.writeImage im ws
      .ok ((s.release i).writeReg d 0)))))

/-- A piece of a bulk operation that a load begins again from its source (R431). DEDUCED (log 35). -/
def Piece.again (p : Piece) : Piece :=
  if p.at_ = .index then p
  else
    let bs := match p.idx with | some i => (bytesOfNat 4 i).zip (List.range 4) | none => []
    { num := p.num, at_ := .index, got := bs.map (fun x => (x.2, x.1)) }

/-- The live copy-unit operations of the group in front are abandoned (R274, R431). -/
def State.abandonAll (s : State) : State :=
  let mark (p : Option Pause) : Option Pause := some (p.getD ⟨.copy, 0, 0⟩)
  let s := s.modG (fun g => { g with
    streams := g.streams.map (fun d => { d with pause := mark d.pause })
    ops := g.ops.map (fun o => if o.abandoned then o else { o with pause := mark o.pause }) })
  let ns := s.g.streams.map (·.num) ++ (s.g.ops.filter (fun o => !o.abandoned)).map (fun o => o.num + 32)
  ns.foldl State.abandonOp s

/-- A group's state replaced from an image (R410, R431): what it is and where it stands stay. -/
def Group.loadImage (g : Group) (im : Image) : Group :=
  let close (t : Strand) : Strand := { t with lease := none }
  let x := im.group.discarded
  { x.mapSt close with
    state := g.state, place := g.place, logical := g.logical, homeDie := g.homeDie, absent := g.absent
    refusals := g.refusals, dhalt := g.dhalt, frozen := g.frozen, dbgbp := g.dbgbp, handTile := none
    store := x.store.map (fun e => { e with st := close e.st })
    ops := x.ops.map (fun o => { o with pieces := o.pieces.map Piece.again }) }

/-- A message of a strand is on its way, or its acknowledgement is. -/
def State.inFlight (s : State) (k : MsgKey) : Bool :=
  s.chans.any (fun c => c.2.any (fun m => match m.act with | .mail x => x.key.is k | _ => false))
    || s.omcMsgs.any (fun m => m.key.is k) || s.msgAcks.any (fun a => a.key.is k) || s.relayAcks.any (fun a => a.key.is k)
    || s.groups.any (fun g => g.arrivals.any (fun x => x.key.is k))
    || s.blocks.any (fun b => (b.refused || b.coming) && b.msgKey.is k)
/-- A restored strand holds outstanding only what is still on its way. -/
def State.stillOut (s : State) (w : StrandId) (t : Strand) : Strand :=
  { t with outstanding := t.outstanding.filter (fun o => s.inFlight ⟨w, t.serial, o.seq⟩) }

/-- CTXLOAD (R431): the strand that made the image goes on with D lane 0 = 1 and, in lane 1, the number of inbox entries
and link words that the load discarded. DESIGN CHOICE (log 13). -/
def execCtxload (h : Head) (d : Reg) (a : PSrc) (s : State) : Out :=
  .next (s.issue h { konly := true } [pop1 a] [d] (fun l s =>
    s.ctxCheck (opv l 0) (fun ws s =>
      match s.findImage ws with
      | none => .trap ⟨.captag, 0, 0x03, capPointer (opv l 0).v⟩
      | some im => s.ctxStop (fun s =>
          let i := s.g.gid
          let s := (s.quiesce i).abandonAll
          let lost := s.g.inbox.length + (s.g.links.toList.map List.length).sum
          let index (m : ChanId × Msg) : Bool := !(im.group.ops.any (fun o => m.2.act.uid? == some o.uid
            && !o.pieces.any (fun p => p.at_ == .index && m.2.act.piece? == some p.num)))
          let other (x : ChanId × Msg) : Bool := x.1.src != .copyUnit i
          let s := { s with
            g := s.g.loadImage im, held := s.held.filter other ++ im.held.filter index
            landed := s.landed.filter (fun (l : Landed) => l.g != i) ++ im.landed, slot := im.by_ }
          let s := s.modG (fun g => { g with st := Vector.ofFn (fun (k : Fin 8) => s.stillOut ⟨i, k⟩ g.st[k]) })
          let s := s.writeReg im.d (quad2 1 (BitVec.ofNat 64 lost))
          .raw (s.release i)))))

/-! ### NOTIFY (R421, R432) -/

/-- Entries of a tenant's notification queue. -/
def noticeRoom : Nat := 1024

/-- NOTIFY (R432): FENCE.DEVICE.REL, then room in the queue, then the interrupt. DEDUCED (log 36). -/
def execNotify (h : Head) (d : Reg) (a : PSrc) (vec : BitVec 8) (s : State) : Out :=
  .next (s.issue h {} [pop1 a] [d] (fun l s =>
    s.fenceThen .device .rel 0 (fun s =>
      let q := ((s.tenant? s.myTenant).map (·.notices)).getD []
      if noticeRoom ≤ q.length then .park .notify s
      else
        let seq := (s.myLaunch.map (·.notifySeq)).getD 0 + 1
        let n : Notice := ⟨vec.toNat, lane0 (opv l 0), (s.myLaunch.map (·.points)).getD 0, seq⟩
        let s := s.modTenant s.myTenant (fun t => { t with notices := t.notices ++ [n] })
        let s := s.modLaunch s.g.gid.launch (fun l => { l with notifySeq := seq })
        .ok (s.writeReg d (quad2 (BitVec.ofNat 64 seq) 0)))))

/-- NOTIFY_TAKE (R432): the tenant's process takes the oldest entry and so frees it. -/
def execNotifyTake (tenant : Nat) (s : State) : Out :=
  .next <|
    match (s.tenant? tenant).bind (fun t => t.notices.head?) with
    | none => s
    | some n =>
      { s with hostOut := s.hostOut ++ [HostEvent.taken n] }.modTenant tenant (fun t => { t with notices := t.notices.drop 1 })

end Sys2Proof.Machine
end

