-- ==== Sys2Proof/Machine/Platform.lean ====
section
/-! DEFINITION. The control die, the staged start, tenants, power, ageing and the paths of the host (16 R433 to R456, 01 R30,
09 R241). -/

namespace Sys2Proof.Machine

/-! ### Start (R30, R437 to R442, R455) -/

/-- The live physical compute dies that the harvest map names, in order: their virtual numbers are their places (R455). -/
def Device.goodDies (d : Device) : List Nat := (List.range 128).filter (fun p => !d.deadDies.contains p)

/-- A bit of an excused-tile map from tile numbers. -/
def tileMask (l : List Nat) : BitVec 144 := l.foldl (fun (m : BitVec 144) t => m ||| (1#144 <<< t)) 0

/-- A die at its bring-up (R7, R206, R278, R321). -/
def Device.newDie (d : Device) (v phys : Nat) : Die :=
  let off := (d.deadTiles.filter (fun t => t.1 == phys)).map (·.2)
  { v := v, phys := phys, live := false, off := off, excuse := tileMask off
    voff := ((d.plan.find? (fun m => m.region == regionOfPhys phys % 16)).map (·.voff)).getD 0
    deadSlices := (d.deadSlices.filter (fun t => t.1 == phys)).map (·.2) }

/-- What the non-volatile store keeps across boots. -/
def Device.stored (d : Device) : Device :=
  { harvestVersion := d.harvestVersion, portsFailed := d.portsFailed, linksRetired := d.linksRetired, deadDies := d.deadDies
    deadMem := d.deadMem, deadTiles := d.deadTiles, deadSlices := d.deadSlices, slot0 := d.slot0, slot1 := d.slot1
    rollbackCounter := d.rollbackCounter, drives := d.drives, plan := d.plan, faults := d.faults }

/-- The first image slot whose signature verifies and whose version is no lower than the counter (R438). -/
def Device.accept (d : Device) (fresh : Nat) : Option Nat :=
  if Config.imageVerifies fresh && d.rollbackCounter ≤ d.slot0 then some 0
  else if Config.imageVerifies (fresh + 1) && d.rollbackCounter ≤ d.slot1 then some 1
  else none

/-- POWER_GOOD (R30, R437, R438, R455): stage 0 verifies the image, and everything but the non-volatile store is new; the failure
of both slots is reported, and the module ports train. The banks that were retired make their memory dies dead at this boot. DESIGN CHOICE (log 11). DEDUCED (log 37). -/
def execPowerGood (s : State) : Out :=
  let d := s.dev.stored
  let dead := (d.deadMem ++ s.dev.deadBanks.map (fun b => s.dev.memPhys b.1)).eraseDups
  let untrained := (List.range 32).filter (fun q => !d.portsFailed.contains q && Config.portFails (s.fresh + 2 + q))
  let d := { d with powered := true, accepted := d.accept s.fresh, deadMem := dead, memDies := 128 - dead.length
                    portsOut := d.portsFailed ++ untrained }
  let report := if d.accepted.isNone then [HostEvent.slotRefused 0, HostEvent.slotRefused 1] else []
  .next { State.reset with
    dev := d, now := s.now, fresh := s.fresh + 34, nextId := s.nextId, agenda := s.agenda, hostOut := s.hostOut ++ report, dbg := s.dbg
    objects := s.objects, tools := s.tools }

/-- Bytes of the module on a port: up to 256 GiB (R15, R437). DESIGN CHOICE (log 14). -/
def modulePart (q : Nat) : Nat := min (Config.moduleCapacity q) (2 ^ 38)

/-- The smallest capacity on a working port (R437). -/
def Device.smallestModule (d : Device) : Nat :=
  match (List.range 32).filter (fun q => !d.portsOut.contains q) with
  | [] => 0
  | q :: r => r.foldl (fun (m : Nat) k => min m (modulePart k)) (modulePart q)

/-- A compute die is joined to the optical core: the router of one of its four attachments is powered (R466). -/
def Die.attached (d : Die) : Bool := attachments.any (fun t => !d.off.contains t)

/-- A power region joins at the reduced clock, and its dies are brought up (R7, R440); one that is not attached stays dead
(R466). -/
def State.join (s : State) (k : Nat) : State :=
  let b : BitVec 16 := 1#16 <<< k
  let s := s.modRegion k (fun _ => { reduced := true })
  let up (d : Die) : Die :=
    if regionOfPhys d.phys = k then
      let x := s.dev.newDie d.v d.phys
      { x with live := x.attached }
    else d
  { s with dies := s.dies.map up, dev := { s.dev with live := s.dev.live ||| b, reduced := s.dev.reduced ||| b } }

/-- STAGE_1 (R440): region 0 at clock step 8. -/
def execStage1 (s : State) : Out :=
  .next (if !s.dev.powered || s.dev.accepted.isNone || s.dev.stage != 0 then s
    else
      let ps := s.dev.goodDies
      let dies := (List.range ps.length).map (fun v => s.dev.newDie v (ps.getD v 0))
      { s with
        dies := dies
        dev := { s.dev with stage := 1, hashedPart := min Config.hashedPart (2 ^ 29), moduleSize := s.dev.smallestModule } }.join 0)

/-- REGION_JOIN (R440): in ascending order; a region that fails its test never joins during this boot. With the first, stage 2
begins, and the region CSRs take their reset values (R7). -/
def execRegionJoin (region : Nat) (passes : Bool) (s : State) : Out :=
  .next <|
    let seen (k : Nat) : Bool := s.dev.live.getLsbD k || s.dev.failed.getLsbD k
    if !(s.dev.stage == 1 || s.dev.stage == 2) || 16 ≤ region || seen region || !(List.range region).all seen then s
    else
      let s := if s.dev.stage = 1 then { s with regions := s.regions.map (fun r => { reduced := r.reduced }) } else s
      let s := { s with dev := { s.dev with stage := 2 } }
      if passes then s.join region
      else { s.modRegion region (fun _ => {}) with dev := { s.dev with failed := s.dev.failed ||| (1#16 <<< region) } }

/-- STAGE_3 (R440): the optical core is calibrated and the reduced clock ends. -/
def execStage3 (s : State) : Out :=
  .next (if s.dev.stage != 2 || (s.dev.live ||| s.dev.failed) != BitVec.allOnes 16 then s
    else { s with
      dev := { s.dev with stage := 3, reduced := 0 }
      regions := s.regions.map (fun r => { r with reduced := false })
      dies := s.dies.map (fun d => { d with cal := true, plup := 15 }) })

/-- What the harvest map names (R455, R456). -/
def Device.harvestMap (d : Device) : List (List (Nat × Nat)) :=
  let one (l : List Nat) : List (Nat × Nat) := l.map (fun n => (n, 0))
  [one d.portsFailed, one d.linksRetired, one d.deadDies, one d.deadMem, d.deadTiles, d.deadSlices, d.deadBanks]

/-- SPDM_MEASUREMENT (R439): the digests are functions of what is measured; they and the signature are the device's.
DESIGN CHOICE (log 9).
DESIGN CHOICE (log 11). -/
def execSpdmMeasurement (tenant index : Nat) (s : State) : Out :=
  .next (if !s.dev.powered || index < 1 || 5 < index || (index = 5 && (s.tenant? tenant).isNone) then s
    else
      let slotted (o : Option Nat) : Nat := match o with | some 0 => s.dev.slot0 | some _ => s.dev.slot1 | none => 0
      let digest : BitVec 256 := match index with
        | 2 => Config.imageDigest (s.dev.accepted.getD 0) (slotted s.dev.accepted)
        | 4 => Config.mapDigest s.dev.harvestVersion s.dev.harvestMap
        | 5 => Config.runtimeDigest tenant (((s.tenant? tenant).map (·.handler)).getD 0)
        | _ => Config.digest index
      let version := match index with
        | 1 => Config.romVersion
        | 2 => (match s.dev.accepted with | some 0 => s.dev.slot0 | some _ => s.dev.slot1 | none => 0)
        | 3 => s.dev.rollbackCounter
        | _ => 0
      { s with
        fresh := s.fresh + 1
        hostOut := s.hostOut ++ [HostEvent.signed index version (if index = 2 then s.dev.accepted else none) digest (Config.signature s.fresh)] })

/-! ### The host and DMA (R241, R423, R433 to R435) -/

/-- The model's address of a byte in spaces 2 to 5 for a tenant, through its tables (R214). -/
def State.hostKey (s : State) (tenant space a : Nat) (rd wr : Bool) : Except Nat Nat :=
  if space < 2 || 5 < space then .error 0x05
  else
    let v := (s.tenantDies tenant).headD 0
    match (s.walk v tenant space a).1 with
    | .error d => .error d
    | .ok e =>
      match e.refuse tenant rd wr false with
      | some d => .error d
      | none => match physKey s.dev space (e.phys a) with
        | none => .error 0x05
        | some k => .ok k

/-- The addresses of n bytes, or the first fault with its address. DEDUCED (log 38). -/
def State.hostKeys (s : State) (tenant space a : Nat) (rd wr : Bool) (n : Nat) : Except (Nat × Nat) (List Nat) :=
  (List.range n).foldl (fun (r : Except (Nat × Nat) (List Nat)) k =>
    match r with
    | .error e => .error e
    | .ok l => match s.hostKey tenant space (a + k) rd wr with
      | .ok key => .ok (l ++ [key])
      | .error d => .error (d, a + k)) (.ok [])

/-- Store bytes of the control die agent at their homes (R230). -/
def State.hostStore (s : State) (ks : List Nat) (bytes : List Byte) : State :=
  (ks.zip bytes).foldl (fun (s : State) x => s.agentPut .control (keyHome x.1) (.mem x.1) [x.2] none) s

/-- In stage 0 the module answers on its management port only (R438). -/
def State.mute (s : State) : Bool := s.dev.stage == 0

/-- HOST_READ (R241, R423, R433): the current bytes at the homes. DEDUCED (log 38). -/
def execHostRead (tenant space addr n : Nat) (s : State) : Out :=
  .next (if s.mute then s else match s.hostKeys tenant space addr true false n with
    | .ok ks => { s with hostOut := s.hostOut ++ [HostEvent.value (ks.map s.mem.read)] }
    | .error _ => { s with hostOut := s.hostOut ++ [HostEvent.aborted] })
/-- HOST_WRITE (R241, R433). DEDUCED (log 38). -/
def execHostWrite (tenant space addr : Nat) (bytes : List Byte) (s : State) : Out :=
  .next (if s.mute then s else match s.hostKeys tenant space addr false true bytes.length with
    | .ok ks => s.hostStore ks bytes
    | .error _ => s)

/-- The tenant to which a PCI function is assigned (R435). -/
def State.functionOwner (s : State) (fn : Nat) : Option Tenant := s.tenants.find? (fun t => t.functions.contains fn)

/-- DMA_ACCESS (R435): translated through the tables of the function's tenant, in spaces 2 to 4. One that faults is dropped
and logged, and a read of it returns completer abort. DEDUCED (log 38). -/
def execDmaAccess (fn : Nat) (k : XferKind) (space addr : Nat) (bytes : List Byte) (s : State) : Out :=
  .next <|
    match (if s.mute then none else s.functionOwner fn) with
    | none => s
    | some t =>
      let rd := k == .read
      match (if space = 5 then .error (0x05, addr) else s.hostKeys t.num space addr rd (!rd) bytes.length) with
      | .error (d, a) =>
        let s := s.modTenant t.num (fun t => { t with log := t.log ++ [.dma fn d (pointer space a)] })
        if rd then { s with hostOut := s.hostOut ++ [HostEvent.aborted] } else s
      | .ok ks =>
        if rd then { s with hostOut := s.hostOut ++ [HostEvent.value (ks.map s.mem.read)] } else s.hostStore ks bytes

/-- A root port. -/
def Device.rootPort (d : Device) (n : Nat) : PciPort := d.pci[n % 8]'(Nat.mod_lt _ (by decide))
/-- Change a root port. -/
def Device.modRoot (d : Device) (n : Nat) (f : PciPort → PciPort) : Device :=
  { d with pci := d.pci.set (n % 8) (f (d.rootPort n)) (Nat.mod_lt _ (by decide)) }

/-- HOT_PLUG (R434): an NVMe drive is inserted or removed at a part of a root port: port + 8 × part. -/
def execHotPlug (port : Nat) (present : Bool) (s : State) : Out :=
  .next (if s.mute || (s.dev.rootPort port).parts ≤ port / 8 then s
    else
      let l := s.dev.drives.filter (· != port)
      { s with dev := { s.dev with drives := if present then insertNat port l else l } })

/-- AER_ERROR (R434): logged to the tenant that owns the function. -/
def execAerError (fn code : Nat) (s : State) : Out :=
  .next <|
    match s.functionOwner fn with
    | none => s
    | some t => s.modTenant t.num (fun t => { t with log := t.log ++ [.aer fn code] })

/-! ### Tenants and management messages (R59, R417, R443 to R448) -/

/-- The virtual dies of a rectangle. -/
def rectangleDies (vx0 vy0 width height : Nat) : List Nat :=
  (List.range 128).filter (fun v => vx0 ≤ v % 8 && v % 8 < vx0 + width && vy0 ≤ v / 8 && v / 8 < vy0 + height)

/-- TENANT_RECTANGLE (R443). -/
def execTenantRectangle (tenant vx0 vy0 width height : Nat) (s : State) : Out :=
  .next <|
    let mine := rectangleDies vx0 vy0 width height
    let shared := s.tenants.any (fun t => t.num != tenant
      && (rectangleDies t.vx0 t.vy0 t.width t.height).any mine.contains)
    let busy := s.launches.any (fun l => l.tenant == tenant && l.status.isNone)
    if s.mute || tenant = 0 || 255 < tenant || width = 0 || height = 0 || 8 < vx0 + width || 16 < vy0 + height || shared || busy then s
    else if (s.tenant? tenant).isSome then
      s.modTenant tenant (fun t => { t with vx0 := vx0, vy0 := vy0, width := width, height := height })
    else
      let t : Tenant := { num := tenant, vx0 := vx0, vy0 := vy0, width := width, height := height }
      { s with tenants := s.tenants ++ [t] }

/-- A die CSR that firmware writes (R286, R303, R321, R359, R453): the fields that the die holds. -/
def Die.setCsr (d : Die) (n : Nat) (v : Lane) : Die :=
  match n with
  | 0x200 => { d with maxlat := (v.extractLsb' 32 32).toNat, count := low32 v }
  | 0x203 => { d with herr := v.toNat % 2 ^ 16, cal := v.getLsbD 16, plup := (v.extractLsb' 20 4).toNat }
  | 0x207 => { d with voff := (v.extractLsb' 32 16).toNat }
  | 0x201 => { d with tdiff := (v.extractLsb' 40 8).toNat, pairsMax := (v.extractLsb' 32 4).toNat, interval := low32 v }
  | 0x204 => { d with excuse := (d.excuse &&& ~~~((BitVec.allOnes 64).setWidth 144)) ||| v.setWidth 144 }
  | 0x205 => { d with excuse := (d.excuse &&& ~~~((BitVec.allOnes 64).setWidth 144 <<< 64)) ||| (v.setWidth 144 <<< 64) }
  | 0x206 => { d with excuse := (d.excuse &&& ~~~((BitVec.allOnes 16).setWidth 144 <<< 128)) ||| ((v.setWidth 16).setWidth 144 <<< 128) }
  | _ => d

/-- A region CSR that firmware writes (R417, R446, R448). -/
def Region.setCsr (r : Region) (n : Nat) (v : Lane) : Region :=
  match n with
  | 0x300 => { r with limit := v.toNat % 2 ^ 16, held := (v.extractLsb' 16 16).toNat, floor := (v.extractLsb' 32 4).toNat }
  | 0x301 => { r with droops := (v.extractLsb' 32 32).toNat }
  | 0x303 => { r with allow := v.getLsbD 0 }
  | 0x305 => { r with rpEn := v.getLsbD 63, rpEvery := low32 v }
  | _ => r

/-- A device CSR that firmware writes (R442, R456): what the device holds of it. -/
def Device.setCsr (d : Device) (n : Nat) (v : Lane) : Device :=
  match n with
  | 0x302 => { d with stage := (v.extractLsb' 48 3).toNat, failed := v.extractLsb' 32 16, reduced := v.extractLsb' 16 16
                      live := v.extractLsb' 0 16 }
  | 0x304 => { d with harvestVersion := (v.extractLsb' 56 8).toNat }
  | _ => d

/-- A group CSR that firmware writes: a breakpoint register (R416). -/
def Group.setBreak (g : Group) (n : Nat) (v : Lane) : Group :=
  let x := v &&& (bitAt 63 ||| tvecMask)
  match n with
  | 0x10A => { g with dbgbp := g.dbgbp.set 0 x }
  | 0x10B => { g with dbgbp := g.dbgbp.set 1 x }
  | 0x10C => { g with dbgbp := g.dbgbp.set 2 x }
  | 0x10D => { g with dbgbp := g.dbgbp.set 3 x }
  | _ => g

/-- Record a region's DROOP and PSTEP in a wave trace (R465). -/
def State.tracePower (s : State) (k : Nat) : State :=
  let r := s.region k
  s.traceWave (.power s.now k r.droops r.floor r.held r.limit (s.now < r.throttleEnd))

/-- A lane of a register. -/
def RegCell.setLane (x : RegCell) (lane : Fin 2) (v : Lane) : RegCell :=
  { x with v := if lane = 0 then quad2 v (lane1 x) else quad2 (lane0 x) v, tag := false, full := true, poison := none }
/-- ndbg writes the state of a group while it is halted (R413). -/
def State.debugWrite (s : State) (i : GroupId) (f : Group → Group) : State :=
  s.modGroup i (fun g => if g.dhalt then f g else g)
/-- A register of a halted group's strand is written. -/
def Group.putReg (g : Group) (k : Fin 8) (r : Reg) (f : RegCell → RegCell) : Group :=
  match r with
  | .s n => { g with sr := g.sr.set n.val (f g.sr[n]) n.isLt }
  | .c n => g.modSt k (fun t => t.setCell r (f t.c[n]))
  | .sp => g.modSt k (fun t => { t with sp := f t.sp })
  | .ra => g.modSt k (fun t => { t with ra := f t.ra })
  | .link _ => g

/-- MANAGEMENT_MESSAGE (R59): firmware writes a register, a tenant's table root, handler, PCI function or memory, a root port, or
the state of a halted group. DEDUCED (log 39). -/
def execManagementMessage (t : MgmtTarget) (v : Lane) (s : State) : Out :=
  .next <|
    match t with
    | .dieCsr die n => s.modDie die (fun d => d.setCsr n v)
    | .regionCsr k n =>
      if k < 16 then
        let s := s.modRegion k (fun r => r.setCsr n v)
        if n = 0x300 || n = 0x301 then s.tracePower k else s
      else s
    | .deviceCsr n => { s with dev := s.dev.setCsr n v }
    | .groupCsr g n => s.modGroup g (fun g => g.setBreak n v)
    | .root tenant space => s.modTenant tenant (fun t => { t with roots := insertKey t.roots space (v.toNat % 2 ^ 44) })
    | .handler tenant => s.modTenant tenant (fun t => { t with handler := v.toNat })
    | .function fn =>
      { s with tenants := s.tenants.map (fun t =>
          { t with functions := if t.num = v.toNat then insertNat fn t.functions else t.functions.filter (· != fn) }) }
    | .grant tenant space base => s.modTenant tenant (fun t => { t with panel := t.panel ++ [(space, base, v.toNat)] })
    | .saveArea tenant base => s.modTenant tenant (fun t => { t with saveArea := t.saveArea ++ [(base, v.toNat)] })
    | .pciSplit port =>
      if s.dev.stage = 0 && port < 8 && (v == 1 || v == 2 || v == 4) then
        { s with dev := s.dev.modRoot port (fun _ => { parts := v.toNat }) }
      else s
    | .pciWidth port part =>
      if port < 8 && part < (s.dev.rootPort port).parts && [1, 2, 4, 8, 16].contains v.toNat && v.toNat * (s.dev.rootPort port).parts ≤ 16 then
        { s with dev := s.dev.modRoot port (fun x => { x with widths := insertKey x.widths part v.toNat }) }
      else s
    | .pciPower port part =>
      if port < 8 && part < (s.dev.rootPort port).parts then
        let to_ : LinkPower := if v = 0 then .l0 else if v = 1 then .l0p else .l1
        { s with dev := s.dev.modRoot port (fun x => { x with power := insertKey x.power part to_ }) }
      else s
    | .reg w r lane => s.debugWrite w.g (fun g => g.putReg w.slot r (fun x => x.setLane lane v))
    | .pred w p => s.debugWrite w.g (fun g => g.modSt w.slot (fun t => if p.val = 0 then t else { t with p := t.p.set p.val (v.getLsbD 0) p.isLt }))
    | .pc w => s.debugWrite w.g (fun g => g.modSt w.slot (fun t => { t with fcap := { t.fcap with v := capAt t.fcap.v v.toNat } }))
    | .spad g off => s.debugWrite g (fun g => g.writeSp off (bytesOfNat 8 v.toNat))

/-! ### Power (R447 to R451) -/

/-- Ticks of 200 ns. -/
def governorTicks : Nat := 200 * Config.nsTicks
/-- The next multiple of a period at or after a time. -/
def nextMultiple (t p : Nat) : Nat := (t + p - 1) / p * p

/-- The next multiple of a period that is not the one judged last. -/
def nextPeriod (last : Option Nat) (t p : Nat) : Nat :=
  let n := nextMultiple t p
  if last = some n then n + p else n

/-- GOVERNOR_STEP (R447): the estimated rise of the next step is measured; above LIMIT, placements and MDOT starts wait.
DESIGN CHOICE (log 9). -/
def execGovernorStep (region : Nat) (s : State) : Out :=
  .next (if 16 ≤ region then s
    else
      let t := nextPeriod (s.region region).stepAt s.now governorTicks
      let rise := Config.measured s.fresh
      let s := { s with now := t, fresh := s.fresh + 1 }.modRegion region (fun r => { r with stepAt := some t })
      if (s.region region).limit < rise then
        (s.modRegion region (fun r => { r with governor := t + governorTicks, held := min 65535 (r.held + 1) })).tracePower region
      else s)

/-- POWER_CHECK (R449): each millisecond; above 22 kW the region that draws most has its FLOOR raised by 1.
DESIGN CHOICE (log 9). -/
def execPowerCheck (s : State) : Out :=
  .next <|
    let t := nextPeriod s.dev.checkedAt s.now msTicks
    let draw := Config.measured s.fresh
    let live := (List.range 16).filter (fun k => s.dev.live.getLsbD k)
    let most := leastBy (fun (a b : Nat) => Config.measured (s.fresh + 1 + b) < Config.measured (s.fresh + 1 + a)) live
    let low := if draw < 20900 then some (s.dev.lowSince.getD t) else none
    let s := { s with now := t, fresh := s.fresh + 17, dev := { s.dev with lowSince := low, checkedAt := some t } }
    match (if 22000 < draw then most else none) with
    | some k => (s.modRegion k (fun r => { r with floor := min 15 (r.floor + 1) })).tracePower k
    | none => s

/-- FLOOR_LOWER (R449): 100 ms below 20.9 kW; the highest FLOOR falls by 1. -/
def execFloorLower (s : State) : Out :=
  .next <|
    match s.dev.lowSince with
    | none => s
    | some t0 =>
      let t := max s.now (t0 + 100 * msTicks)
      let top := leastBy (fun (a b : Nat) => (s.region b).floor < (s.region a).floor) (List.range 16)
      let s := { s with now := t, dev := { s.dev with lowSince := some t } }
      match top with
      | some k => (s.modRegion k (fun r => { r with floor := r.floor - 1 })).tracePower k
      | none => s

/-- DROOP_ALARM (R450): every tile of the region at step 8 for 2 µs from now. DEDUCED (log 46). -/
def execDroopAlarm (region : Nat) (s : State) : Out :=
  .next (if 16 ≤ region then s
    else (s.modRegion region (fun r =>
      { r with droops := (r.droops + 1) % 2 ^ 32, throttleEnd := s.now + 2000 * Config.nsTicks, throttled := true })).tracePower region)

/-- THROTTLE_END (R450): THROT falls. -/
def execThrottleEnd (region : Nat) (s : State) : Out :=
  .next (if 16 ≤ region || !(s.region region).throttled then s
    else ({ s with now := max s.now (s.region region).throttleEnd }.modRegion region (fun r => { r with throttled := false })).tracePower region)

/-! ### Harvesting (R453 to R455) -/

/-- A retirement is recorded in the harvest map, whose version rises at each change (R455, R456). -/
def State.record (s : State) (f : Device → Device) : State :=
  { s with dev := { f s.dev with harvestVersion := (s.dev.harvestVersion + 1) % 256 } }

/-- A die leaves the live set (R455): what its relay buffer holds is lost (R301), and the launches with groups on it are
cancelled (R468). -/
def State.leaveLive (s : State) (v : Nat) : State :=
  let ls := (s.launches.filter (fun l => l.status.isNone && s.groups.any (fun g =>
    g.gid.launch == l.num && g.homeDie == v && g.state != .retired))).map (·.num)
  let s := s.modDie v (fun d => { d with live := false, relay := [] })
  ls.foldl (fun (s : State) n => match execLaunchCancel n s with | .next u => u | _ => s) s

/-- Retire a part of a drained region (R455): at this drain, and in the map for the next boot. A die that loses the last of its
attachments leaves the live set (R466). -/
def State.retirePart (s : State) (p : Part) : State :=
  match p with
  | .tile v x y =>
    let t := 12 * y + x
    let off (d : Die) : Die := { d with excuse := d.excuse ||| (1#144 <<< t), off := insertNat t d.off }
    let s := (s.modDie v off).record (fun d => { d with deadTiles := d.deadTiles ++ [(s.physOf v, t)] })
    if ((s.die? v).map Die.attached).getD true then s else s.leaveLive v
  | .slice v n =>
    let s := (((s.die? v).map (·.lines)).getD []).foldl (fun (s : State) l => s.flushLine v (l.key * 64) false) s
    (s.modDie v (fun d => { d with deadSlices := insertNat n d.deadSlices })).record
      (fun d => { d with deadSlices := d.deadSlices ++ [(s.physOf v, n)] })
  | .link n => s.record (fun d => { d with linksRetired := insertNat n d.linksRetired })
  | .die v => (s.record (fun d => { d with deadDies := insertNat (s.physOf v) d.deadDies })).leaveLive v
  | .memBank d b => s.record (fun x => { x with deadBanks := x.deadBanks ++ [(d, b)] })
  | .modPort q => s.record (fun d => { d with portsFailed := insertNat q d.portsFailed })

/-- The groups that stand on the dies of a region. -/
def State.onRegion (s : State) (k : Nat) : List Group :=
  s.groups.filter (fun g => (g.state == .resident || g.state == .swapping) && s.regionOf g.die == k)

/-- Ten minutes. -/
def drainGap : Nat := 600000 * msTicks

/-- Ticks of 24 hours. -/
def dayTicks : Nat := 86400000 * msTicks

/-- A part has met 3 lasting faults, or 64 corrected errors in 24 hours (R455). DEDUCED (log 37). -/
def State.worn (s : State) (p : Part) : Bool :=
  let mine := s.dev.faults.filter (fun f => f.part == p)
  3 ≤ (mine.filter (·.lasting)).length || 64 ≤ (mine.filter (fun f => !f.lasting && s.now ≤ f.at_ + dayTicks)).length

/-- A part that a drain of a region can retire: its own tiles, slices and dies, and what no region holds alone (R455).
DEDUCED (log 37). -/
def State.partIn (s : State) (region : Nat) : Part → Bool
  | .tile v _ _ | .slice v _ | .die v => s.regionOf v == region
  | .link _ | .memBank _ _ | .modPort _ => true

/-- Firmware's margin plan at a drain: each region's supply offset and highest permitted step, which keep its least margin above
its floor (R453). DESIGN CHOICE (log 9). -/
def State.newPlan (s : State) : List Margin :=
  (List.range 16).map (fun k => ⟨k, Config.measured (s.fresh + 2 * k) % 2 ^ 16, Config.measured (s.fresh + 2 * k + 1) % 16⟩)

/-- REGION_DRAIN (R453 to R455): every group on the region's dies stops and is saved; then the retirements and the margin
plan are applied, and the groups may be placed again. While one has still to stop, the drain is under way, and this step
ends it later. DEDUCED (log 37). -/
def execRegionDrain (region : Nat) (retire : List Part) (s : State) : Out :=
  .next <|
    let r := s.region region
    let due := match r.drainAt with | none => true | some t => t + drainGap ≤ s.now
    if 16 ≤ region || (!r.draining && !due) then s
    else
      let s := s.modRegion region (fun r => { r with draining := true, drainAt := if r.draining then r.drainAt else some s.now })
      let s := ((s.onRegion region).foldl (fun (s : State) g => s.askStop g.gid .preempt none) s).finishStops
      if !(s.onRegion region).isEmpty then s
      else
        let plan := s.newPlan
        let offset (d : Die) : Die :=
          { d with voff := ((plan.find? (fun m => m.region == regionOfPhys d.phys % 16)).map (·.voff)).getD d.voff }
        let s := (retire.filter (fun p => s.worn p && s.partIn region p)).foldl State.retirePart { s with
          fresh := s.fresh + 32, dies := s.dies.map offset, dev := { s.dev with routing := s.dev.routing + 1, plan := plan } }
        s.modRegion region (fun r => { r with draining := false })

end Sys2Proof.Machine
end

