-- ==== Sys2Proof/Machine/Debugger.lean ====
section
/-! DEFINITION. ndbg: the commands of the debugger (15 R413 to R416, 17 R457, R458, 18 R460, 19 R462, 20 R463, 21 R465). -/

namespace Sys2Proof.Machine

/-- Print one answer of ndbg. -/
def State.print (s : State) (x : Shown) : State := { s with dbg := { s.dbg with shown := s.dbg.shown ++ [x] } }

/-- The object to which ndbg is attached. -/
def State.dbgObject (s : State) : Option Object := s.objects.find? (fun o => o.num == s.dbg.object)
/-- The launch to which ndbg is attached. -/
def State.dbgLaunch (s : State) : Option Launch := s.dbg.launch.bind s.launch?
/-- The groups of that launch. -/
def State.dbgGroups (s : State) : List Group := s.groups.filter (fun g => s.dbg.launch == some g.gid.launch)
/-- The selected group, while it is halted (R457, R460). -/
def State.dbgGroup (s : State) : Option Group := s.dbgGroups.find? (fun g => g.gid.num == s.dbg.group && g.dhalt)
/-- Every group that has not retired is halted (R460). -/
def State.allHalted (s : State) : Bool := s.dbgGroups.all (fun g => g.state == .retired || g.dhalt)

/-- A command given at the prompt: while one that runs the launch has not returned, there is no prompt (R460). -/
def State.atPrompt (s : State) (f : State → State) : Out := .next (if s.dbg.running then s else f s)
/-- A command that reads the selected group: it prints while that group is halted (R457). -/
def State.showGroup (s : State) (f : Group → Shown) : Out :=
  s.atPrompt (fun s => match s.dbgGroup with | none => s | some g => s.print (f g))

/-! ### Loading, breakpoints and running (R457) -/

/-- Store an object's .text and .data in the tenant's memory; none where a page of it is not mapped.
PRESUMED (log 15). -/
def State.loadObject (s : State) (tenant : Nat) (o : Object) : Option State :=
  match s.hostKeys tenant Config.codeSpace o.textBase false false o.text.length,
      s.hostKeys tenant 3 o.dataBase false false o.data.length with
  | .ok ks, .ok js => some ((s.hostStore ks o.text).hostStore js o.data)
  | _, _ => none

/-- ndbg file.ndo: load the object, linked alone where ndld has not linked it, and attach to the next launch of its
descriptor. DEDUCED (log 49). -/
def execNdbgLoad (tenant : Nat) (object : Nat) (s : State) : Out :=
  .next <|
    match s.objects.find? (fun o => o.num == object) with
    | none => s
    | some o =>
      let linked : Option (Object × State) :=
        if o.linked then some (o, s)
        else (linkObjects [o] s.nextId (Config.freeLane s.fresh).toNat).map (fun q =>
          (q, { s with objects := s.objects ++ [q], nextId := s.nextId + 1, fresh := s.fresh + 1 }))
      match linked with
      | none => s
      | some (q, s) =>
        match s.loadObject tenant q with
        | none => s
        | some s => { s with dbg := { tenant := tenant, object := q.num } }

/-- break addr: the lowest free DBGBP register of every group, at most four. -/
def execBreak (addr : Nat) (s : State) : Out :=
  s.atPrompt fun s =>
    let i := s.dbg.breaks.length
    if 4 ≤ i || s.dbg.object = 0 then s
    else
      let s := { s with dbg := { s.dbg with breaks := s.dbg.breaks ++ [addr] } }
      let put (g : Group) : Group :=
        if s.dbg.launch == some g.gid.launch then { g with dbgbp := g.dbgbp.setIfInBounds i (breakReg addr) } else g
      s.mapGroups put

/-- istop n (R458). -/
def execIstop (n : Nat) (s : State) : Out := s.atPrompt fun s => { s with dbg := { s.dbg with istop := some n } }

/-- run: queue the launch, with a data root over the object's .data where the runtime gives one (R461). -/
def execRun (dataRoot : Bool) (s : State) : Out :=
  s.atPrompt fun s =>
    match s.dbgObject with
    | none => s
    | some o =>
      if (s.tenant? s.dbg.tenant).isNone || s.dev.stage < 1 || o.launches.isEmpty then s
      else
        let root := if dataRoot then some (o.dataBase, o.data.length) else none
        let s := (s.queueLaunch s.dbg.tenant o.descriptor o.textBase o.text.length root o.sdata none).2
        { s with dbg := { s.dbg with running := s.dbg.launch.isSome } }

/-- cont: every halted group of the launch goes on, and an instant's evaluations proceed (R413, R458). -/
def execCont (s : State) : Out :=
  s.atPrompt fun s =>
    let hs := s.dbgGroups.filter (·.dhalt)
    if hs.isEmpty then s
    else
      let s := hs.foldl (fun (s : State) g => (s.unhalt g.gid).modGroup g.gid (fun x => x.mapSt Strand.evaluate)) s
      { s with dbg := { s.dbg with running := true } }

/-- Slots in rising order as runs, each by its first and last (R463). -/
def runsOf : List Nat → List (Nat × Nat)
  | [] => []
  | k :: r =>
    match runsOf r with
    | (a, b) :: q => if a = k + 1 then (k, b) :: q else (k, k) :: (a, b) :: q
    | [] => [(k, k)]

/-- The line of a breakpoint at which groups halted: how many and which, and the instant; for a launch of one group also the
slots whose pc is its address (R460, R463). -/
def State.haltLine (s : State) (l : Launch) (bp addr : Nat) : Option Shown :=
  let gs := s.dbgGroups.filter (fun g => g.dhalt && g.hitBreak == some addr)
  let at_ (g : Group) : List Nat := (g.strands.filter (fun t => t.2.run != .idle && t.2.pc == addr)).map (·.1.val)
  gs.head?.map (fun g => .halts bp (gs.map (·.gid.num)) (if l.groups = 1 then runsOf (gs.flatMap at_) else []) g.instant)

/-- The line of an instant stop that halted groups (R458). -/
def State.stopLine (s : State) : Option Shown :=
  (s.dbgGroups.find? (fun g => g.dhalt && g.hitBreak.isNone && s.instantStop g.gid g.instant)).map (fun g => .stopped g.instant)

/-- Every strand of the halted groups has come to its instruction boundary: a committed park ends first (R404, R413). -/
def State.atBoundaries (s : State) : Bool := s.dbgGroups.all (fun g => !g.dhalt || !g.st.toList.any Strand.committed)

/-- The command has ended. -/
def State.prompted (s : State) : State := { s with dbg := { s.dbg with running := false } }

/-- The prompt returns once the launch has ended, or once every group that has not retired is halted (R460). -/
def State.prompt (s : State) : State :=
  match (if s.dbg.running then s.dbgLaunch else none) with
  | none => s
  | some l =>
    match l.status with
    | some e => (s.print (.ended l.num e)).prompted
    | none =>
      if s.allHalted && s.atBoundaries && s.dbgGroups.any (·.dhalt) then
        let lines := s.dbg.breaks.zipIdx.filterMap (fun b => s.haltLine l b.2 b.1) ++ s.stopLine.toList
        (lines.foldl State.print s).prompted
      else s

/-! ### Reading a halted group (R457, R460, R465) -/

/-- group g. -/
def execGroup (g : Nat) (s : State) : Out :=
  s.atPrompt fun s => if s.dbgGroups.any (fun x => x.gid.num == g) then { s with dbg := { s.dbg with group := g } } else s

/-- The state as a strand of a group sees it, with the writes to the group's scalars that are due. -/
def State.seenBy (s : State) (g : Group) (slot : Fin 8) : State :=
  { (s.focus g.gid).modG (Group.settle · s.now) with slot := slot }

/-- What a strand holds under a name of regs. -/
def State.named (s : State) (r : RegName) : Quad :=
  match r with
  | .reg r => (s.cell r).v
  | .pc => BitVec.ofNat 128 s.st.pc

/-- regs s reg …; p prints the predicates. -/
def execRegs (slot : Fin 8) (names : List RegName) (preds : Bool) (s : State) : Out :=
  s.showGroup fun g =>
    let x := s.seenBy g slot
    let p : BitVec 8 := BitVec.ofNat 8 (((List.range 8).map (fun k => if x.st.pred (Fin.ofNat 8 k) then 2 ^ k else 0)).sum)
    .regs (names.map (fun r => (r, x.named r))) (if preds then some p else none)

/-- csr s name …: each as the slot reads it. -/
def execCsr (slot : Fin 8) (csrs : List Nat) (s : State) : Out :=
  s.atPrompt fun s =>
    match s.dbgGroup with
    | none => s
    | some g =>
      let one (r : State × List (Nat × Lane)) (n : Nat) : State × List (Nat × Lane) :=
        if csrDefined n then (r.1.measuredBy n, r.2 ++ [(n, (r.1.seenBy g slot).csr n)]) else r
      let r := csrs.foldl one (s, [])
      r.1.print (.csrs r.2)

/-- tree: the tile summary of the halted group and the previous instant's vector (R317, R324). -/
def execTree (s : State) : Out :=
  s.atPrompt fun s =>
    match s.dbgGroup, s.dbgLaunch with
    | some g, some l =>
      let w := ({ s with g := g, others := [], steals := s.steals.filter (fun x => x.victim == g.gid) } : State).sample l 0
      s.print (.tree w.inst w.act w.ce w.em w.blk w.rbn w.tst g.prevEm)
    | _, _ => s

/-- 32-bit words of the selected group's LOCAL. -/
def Group.words (g : Group) (off n : Nat) : List (BitVec 32) :=
  (List.range n).map (fun k => BitVec.ofNat 32 (natOfBytes (g.readSp (off + 4 * k) 4)))

/-- The value of an FP32 encoding. -/
def fp32Value (w : BitVec 32) : Fp32Value :=
  match Fmt.f32.decode w.toNat with
  | .nan _ _ => .nan
  | .inf neg => .inf neg
  | .fin neg q => .fin neg q.num.natAbs q.den

/-- The lines of mem and memf: four words to a line. -/
def Group.lines (g : Group) (off n : Nat) (fp : Bool) : List WordLine :=
  (List.range ((n + 3) / 4)).map (fun j =>
    let ws := g.words (off + 16 * j) (min 4 (n - 4 * j))
    { off := off + 16 * j, words := ws, values := if fp then ws.map fp32Value else [] })

/-- mem off n. -/
def execMem (off n : Nat) (s : State) : Out := s.showGroup fun g => .words (g.lines off n false)
/-- memf off n. -/
def execMemf (off n : Nat) (s : State) : Out := s.showGroup fun g => .words (g.lines off n true)

/-- dmem label n: words of the launch's .data, once it has ended or while its groups are halted (R462). -/
def execDmem (label : String) (n : Nat) (s : State) : Out :=
  s.atPrompt fun s =>
    match s.dbgObject, s.dbgLaunch with
    | some o, some l =>
      match o.symbols.find? (fun y => y.name == label && y.sect == .data) with
      | none => s
      | some y =>
        if l.status.isNone && !s.allHalted then s
        else match s.hostKeys s.dbg.tenant 3 (o.dataBase + y.off) false false (8 * n) with
          | .error _ => s
          | .ok ks =>
            let b := ks.map s.mem.read
            s.print (.dwords y.off ((List.range n).map (fun k => BitVec.ofNat 64 (natOfBytes ((b.drop (8 * k)).take 8)))))
    | _, _ => s

/-! ### Traces (R462, R465) -/

/-- ptrace, before run. -/
def execPtrace (s : State) : Out :=
  s.atPrompt fun s => if s.dbg.launch.isSome then s else { s with dbg := { s.dbg with tracing := true } }
/-- ptrace a b: the events from time a to time b, in nanoseconds from the pool's t_0. DEDUCED (log 49). -/
def execPtracePrint (a b : Nat) (s : State) : Out :=
  s.atPrompt fun s => s.print (.pool (s.dbg.ptrace.filter (fun x => a * Config.nsTicks ≤ x.at_ && x.at_ ≤ b * Config.nsTicks)))
/-- rounds a b. -/
def execRounds (a b : Nat) (s : State) : Out :=
  s.atPrompt fun s => s.print (.rounds (s.dbg.rounds.filter (fun x => a ≤ x.round && x.round ≤ b)))
/-- wavetrace, before run. -/
def execWavetrace (s : State) : Out :=
  s.atPrompt fun s => if s.dbg.launch.isSome then s else { s with dbg := { s.dbg with wtracing := true } }
/-- streams g, before run. -/
def execStreams (g : Nat) (s : State) : Out :=
  s.atPrompt fun s => if s.dbg.launch.isSome then s else { s with dbg := { s.dbg with streamRec := some g } }

/-- The launch's first placement, from which ndbg gives times (R465). -/
def State.dbgStart (s : State) : Nat := ((s.dbgLaunch.bind (·.firstPlace))).getD 0
/-- A record of a stream with its time from another. -/
def StreamNote.since (t0 : Nat) : StreamNote → StreamNote
  | .entered t num elem tile => .entered (t - t0) num elem tile
  | .landed t num elem tile => .landed (t - t0) num elem tile
  | .rotation t hot cool code => .rotation (t - t0) hot cool code

/-- streams. -/
def execStreamsPrint (s : State) : Out :=
  s.atPrompt fun s =>
    match s.dbg.streamRec with
    | none => s
    | some g => s.print (.streams g (s.dbg.streamLog.map (StreamNote.since s.dbgStart)))

/-- The least and greatest of a list. -/
def ends (l : List Nat) : Option (Nat × Nat) :=
  match l with
  | [] => none
  | x :: r => some (r.foldl min x, r.foldl max x)

/-- The power region of a group's die. -/
def State.regionOfGroup (s : State) (i : GroupId) : Nat := s.regionOf (((s.group? i).map Group.die).getD 0)

/-- The times at which the n-th RBAR release reached the tiles of a region, from the first placement. -/
def State.releaseTimes (s : State) (t0 n : Nat) (k : Option Nat) : List Nat :=
  s.dbg.waves.filterMap (fun w => match w with
    | .release t m g => if m = n && (match k with | none => true | some k => s.regionOfGroup g == k) then some (t - t0) else none
    | _ => none)

/-- The row of a power region: first and last placement, last arrival at the first RBAR, THROT, COUNT and HELD (R465). -/
def State.regionRow (s : State) (t0 k : Nat) : RegionRow :=
  let placed := ends (s.dbg.waves.filterMap (fun w => match w with
    | .placed t g die _ => if s.dbg.launch == some g.launch && s.regionOf die = k then some (t - t0) else none
    | _ => none))
  let freed := ends (s.releaseTimes t0 1 none)
  let came := ends (s.dbg.waves.filterMap (fun w => match w with
    | .atRbar t g => if s.dbg.launch == some g.launch && s.regionOfGroup g = k && (match freed with | none => true | some f => t - t0 ≤ f.1) then some (t - t0) else none
    | _ => none))
  let r := s.region k
  { first := placed.map (·.1), last := placed.map (·.2), rbar := came.map (·.2), throt := decide (s.now < r.throttleEnd)
    droops := r.droops, held := r.held }

/-- regions. DEDUCED (log 49). -/
def execRegions (s : State) : Out :=
  s.atPrompt fun s => if s.dbgLaunch.isNone then s else s.print (.regions ((List.range 16).map (s.regionRow s.dbgStart)))

/-- rbar n: first and last tile of each region, and the release skew. DEDUCED (log 49). -/
def execRbarPrint (n : Nat) (s : State) : Out :=
  s.atPrompt fun s =>
    if s.dbgLaunch.isNone then s
    else
      let t0 := s.dbgStart
      let skew := match ends (s.releaseTimes t0 n none) with | none => 0 | some e => e.2 - e.1
      s.print (.rbar ((List.range 16).map (fun k => ends (s.releaseTimes t0 n (some k)))) skew)

/-- where: the selected group's virtual die, power region, logical position and tile. -/
def execWhere (s : State) : Out :=
  s.showGroup fun g => .place g.gid.num g.die (s.regionOf g.die) g.logical ((g.place.map (·.tile)).getD g.logical)

/-- acc a. -/
def execAcc (a : Fin 4) (s : State) : Out :=
  s.showGroup fun g => .acc a g.acc[a].toList

/-- accmatch a x: how many halted groups hold x in all 64 elements of accumulator a, and up to four that do not. -/
def execAccmatch (a : Fin 4) (x : BitVec 32) (s : State) : Out :=
  s.atPrompt fun s =>
    let hs := s.dbgGroups.filter (·.dhalt)
    let other := hs.filter (fun g => !g.acc[a].toList.all (· == x))
    if hs.isEmpty then s
    else s.print (.accmatch a x (hs.length - other.length) hs.length ((other.map (·.gid.num)).take 4))

end Sys2Proof.Machine
end

