-- ==== Sys2Proof/Machine/Homes.lean ====
section
/-! DEFINITION. The step in which a home performs a message (09 R232). -/

namespace Sys2Proof.Machine

/-- PERFORM: the home of a channel performs the message at its head. -/
def execPerform (ch : ChanId) (s : State) : Out :=
  let x := s.headArrives ch
  .next (if x.1 then x.2.performHead ch else x.2)

end Sys2Proof.Machine
end

