-- ==== Sys2Proof/Machine/Auto.lean ====
section
/-! DEFINITION. The moves that the module can make of itself, and when: from them the machine takes one legal order among
those that 09 R232 leaves free, when no agenda names a move. -/

namespace Sys2Proof.Machine

/-- A strand of a group can issue (02 R45, 01 R23); in a group that is halted, the instruction whose committed park has ended
(15 R404, R413). -/
def Group.canIssue (g : Group) (k : Fin 8) : Bool :=
  let t := g.st[k]
  t.run == .ready && !t.stopped && !t.held && (!g.dhalt || t.committed) && g.state == .resident

/-- Since when a strand stands in the ring. -/
def Group.inRing (g : Group) (k : Fin 8) : Nat := ((g.st[k]).ringFrom).getD 0

/-- The rotation has passed a strand's place in its present turn: a slot that has issued or that one of its turn has followed,
or one that has joined the ring after the cycle in which its place came (01 R23). -/
def Group.passed (g : Group) (k : Fin 8) : Bool := k.val ≤ g.prevSlot || g.lastIssue < g.inRing k

/-- The first turn that begins at or after a time: the ring comes round every 4 cycles where it holds no more than 4 positions
(01 R23). -/
def Group.turnAt (g : Group) (cyc t : Nat) : Nat :=
  g.turnEnds + (t - g.turnEnds + 4 * cyc - 1) / (4 * cyc) * (4 * cyc)

/-- The time at which a strand may issue again: the tile issues one instruction in a cycle, and a strand whose place the
rotation has passed waits for a turn to come, behind the padding positions (01 R23). -/
def Group.issueTime (g : Group) (cyc : Nat) (k : Fin 8) : Nat :=
  max (max g.lastIssue (g.st[k]).nextIssue) (if g.passed k then g.turnAt cyc (g.inRing k) else 0)

/-- The strand of a group that issues next: the next of the turn, else the first of a turn to come, never out of slot order
(01 R23). -/
def Group.nextSlot (g : Group) (cyc : Nat) : Option (Fin 8) :=
  let l := slots.filter g.canIssue
  match l.find? (fun k => !g.passed k) with
  | some k => some k
  | none => leastBy (fun a b => g.issueTime cyc a < g.issueTime cyc b || (g.issueTime cyc a == g.issueTime cyc b && a < b)) l

/-! ### The module's own moves -/

/-- A move that the module makes of itself, with what names it. -/
inductive Own where
  | returnValue (k : Nat) | echo (ch : ChanId) | perform (ch : ChanId)
  | tlbWalkDone (w : StrandId) | descriptorCopied (w : StrandId) | portCopyDone (w : StrandId) | syncResend (w : StrandId)
  | copyUnitEnter (g : GroupId) (op : Fin 48) | streamDelivery (k : Nat) | copyUnitLanding (k : Nat)
  | linkWordArrival (k : Nat) | messageAck (k : Nat) | messageArrival (k : Nat) | msglost (w : StrandId) (seq : Nat)
  | mdotCommit (g : GroupId) | accumulatorCommit (g : GroupId) | resultArrival (g : GroupId) | longCommit (w : StrandId)
  | joinStoreReturn (g : GroupId) | joinDeadlock (g : GroupId) | taskStart (w : StrandId) | groupRetire (g : GroupId)
  | stealRequest (g : GroupId) | stealReply (g : GroupId) | watchdog (w : StrandId)
  | launchCancel (l : Nat) | dependentLaunchRelease (l : Nat) | drainPoint (l : Nat) | exactTakeService (l : Nat)
  | recoveryPoint (l : Nat) | waveSample (l : Nat) | waveRelease (g : GroupId)
  | swap (d k : Nat) | done (d k : Nat) | skip (d k : Nat)
  | stage1 | regionJoin (k : Nat) | stage3
  | omcWindow (d p : Nat) | relayAck (k : Nat)
  | poolExchangeRound (p : Nat) | poolSummaryArrival (p a b : Nat) | forwardedTakeArrival (k : Nat)
  | takeReplyArrival (k : Nat) | leaseAck (k : Nat)
  | groupPlacement (g : GroupId) (tile : Nat) | groupResume (g : GroupId) (tile : Nat) | groupSaveOut (g : GroupId)
  | stopDeadline (g : GroupId) | throttleEnd (k : Nat)
  | rotationInterval (d : Nat) | subnetworkOn (d k : Nat) | subnetworkOff (d k : Nat)
  deriving DecidableEq, Repr

/-- The move made: the meaning of its row. A region's self-test passes. -/
def Own.run (o : Own) (s : State) : Out :=
  match o with
  | .returnValue k => execReturnValue k s
  | .echo c => execEcho c s
  | .perform c => execPerform c s
  | .tlbWalkDone w => execTlbWalkDone w s
  | .descriptorCopied w => execDescriptorCopied w s
  | .portCopyDone w => execPortCopyDone w s
  | .syncResend w => execSyncResend w s
  | .copyUnitEnter g n => execCopyUnitEnter g n s
  | .streamDelivery k => execStreamDelivery k s
  | .copyUnitLanding k => execCopyUnitLanding k s
  | .linkWordArrival k => execLinkWordArrival k s
  | .messageAck k => execMessageAck k s
  | .messageArrival k => execMessageArrival k s
  | .msglost w n => execMsglost w n s
  | .mdotCommit g => execMdotCommit g s
  | .accumulatorCommit g => execAccumulatorCommit g s
  | .resultArrival g => execResultArrival g s
  | .longCommit w => execLongCommit w s
  | .joinStoreReturn g => execJoinStoreReturn g s
  | .joinDeadlock g => execJoinDeadlock g s
  | .taskStart w => execTaskStart w s
  | .groupRetire g => execGroupRetire g s
  | .stealRequest g => execStealRequest g s
  | .stealReply g => execStealReply g s
  | .watchdog w => execWatchdog w s
  | .launchCancel l => execLaunchCancel l s
  | .dependentLaunchRelease l => execDependentLaunchRelease l s
  | .drainPoint l => execDrainPoint l s
  | .exactTakeService l => execExactTakeService l s
  | .recoveryPoint l => execRecoveryPoint l s
  | .waveSample l => execWaveSample l s
  | .waveRelease g => execWaveRelease g s
  | .swap d k => execSwap d k s
  | .done d k => execDone d k s
  | .skip d k => execSkip d k s
  | .stage1 => execStage1 s
  | .regionJoin k => execRegionJoin k true s
  | .stage3 => execStage3 s
  | .omcWindow d p => execOmcWindow d p s
  | .relayAck k => execRelayAck k s
  | .poolExchangeRound p => execPoolExchangeRound p s
  | .poolSummaryArrival p a b => execPoolSummaryArrival p a b s
  | .forwardedTakeArrival k => execForwardedTakeArrival k s
  | .takeReplyArrival k => execTakeReplyArrival k s
  | .leaseAck k => execLeaseAck k s
  | .groupPlacement g t => execGroupPlacement g t s
  | .groupResume g t => execGroupResume g t s
  | .groupSaveOut g => execGroupSaveOut g s
  | .stopDeadline g => execStopDeadline g s
  | .throttleEnd k => execThrottleEnd k s
  | .rotationInterval d => execRotationInterval d s
  | .subnetworkOn d k => execSubnetworkOn d k s
  | .subnetworkOff d k => execSubnetworkOff d k s

/-! ### Moves that nothing delays -/

/-- What heads the channels. -/
def State.channelMoves (s : State) : List Own :=
  s.chans.filterMap (fun c =>
    match c.2 with
    | [] => none
    | m :: _ => match m.act with
      | .probe => some (.echo c.1)
      | .mail _ => none
      | _ => some (.perform c.1))

/-- What the strands of a group wait for from the control die, the ports and the walkers. -/
def Group.answerMoves (g : Group) : List Own :=
  g.strands.filterMap (fun x =>
    let w : StrandId := ⟨g.gid, x.1⟩
    match x.2.run with
    | .parked .walk => some (.tlbWalkDone w)
    | .parked .launchCopy => some (.descriptorCopied w)
    | .parked .portCopy => some (.portCopyDone w)
    | _ => none)

/-- What the copy unit of a group may enter. -/
def Group.copyMoves (g : Group) : List Own :=
  if !g.copying then []
  else
    let more (o : BulkOp) : Bool := (o.pause.isNone && o.next < o.total && o.pieces.length < pieceRoom) || o.pieces.any (fun p => p.need == 0)
    let runs (d : StreamD) : Bool := d.pause.isNone && !d.exhausted
      && (if d.output then !d.buffer.isEmpty else d.next < d.units && d.next - d.moved < StreamD.depth)
    (g.ops.filter more).map (fun o => .copyUnitEnter g.gid (Fin.ofNat 48 (o.num + 32)))
      ++ (g.streams.filter runs).map (fun d => .copyUnitEnter g.gid (Fin.ofNat 48 d.num))

/-- What the dispatchers and the task engine do for a group. -/
def Group.taskMoves (g : Group) : List Own :=
  if g.state != .resident then []
  else
    (if g.store.any Stored.returns then [.joinStoreReturn g.gid] else [])
      ++ (if g.store.length == 8 && g.st.toList.all Strand.atJoin then [.joinDeadlock g.gid] else [])
      ++ (if g.deque.isEmpty then [] else slots.filterMap (fun k => if (g.st[k]).run == .idle then some (.taskStart ⟨g.gid, k⟩) else none))
      ++ (if g.stealing then [.stealReply g.gid] else [])
      ++ (if g.idleAll && g.store.isEmpty then [.groupRetire g.gid] else [])

/-- What a launch as a whole waits for. -/
def Launch.ownMoves (escrowFull : Bool) (l : Launch) : List Own :=
  if l.status.isSome then []
  else
    (if l.cancelling then [.launchCancel l.num] else [])
      ++ (if l.after.isSome && !l.started then [.dependentLaunchRelease l.num] else [])
      ++ (if escrowFull then [.drainPoint l.num] else [])
      ++ (match l.wave with
          | none => []
          | some w =>
            if w.act == 0 then [.exactTakeService l.num, .recoveryPoint l.num] else [])

/-- The pairs of a die whose exchange may begin or end. -/
def Die.pairMoves (d : Die) : List Own := d.pairs.flatMap (fun q => [.swap d.v q.num, .done d.v q.num])

/-- The staged start (R440). -/
def State.startMoves (s : State) : List Own :=
  if !s.dev.powered || 3 ≤ s.dev.stage then []
  else [.stage1] ++ (List.range 16).map (fun k => .regionJoin k) ++ [.stage3]

/-- Moves that nothing delays. DESIGN CHOICE (log 2). DESIGN CHOICE (log 3). -/
def State.readyMoves (s : State) : List Own :=
  (List.range s.rets.length).map .returnValue
    ++ s.channelMoves
    ++ s.groups.flatMap Group.answerMoves
    ++ (List.range s.deliverable.length).map .streamDelivery
    ++ (List.range (s.landed.length + s.blocks.length)).map .copyUnitLanding
    ++ s.groups.flatMap Group.copyMoves
    ++ (List.range s.linkWords.length).map .linkWordArrival
    ++ (List.range s.msgAcks.length).map .messageAck
    ++ s.groups.flatMap Group.taskMoves
    ++ s.launches.flatMap (fun l => l.ownMoves (s.escrowFull l))
    ++ s.dies.flatMap Die.pairMoves
    ++ s.startMoves

/-! ### Moves with a time -/

/-- The long results, commits and block-dot commits of a group (R50, R146, R187). -/
def Group.lateMoves (g : Group) : List (Nat × Own) :=
  (match g.mx.head? with
    | none => []
    | some f => [(f.due, match f.op with | .mdot _ _ => .mdotCommit g.gid | _ => .accumulatorCommit g.gid)])
    ++ g.late.map (fun l => (l.due, if l.waits then .longCommit ⟨g.gid, l.slot⟩ else .resultArrival g.gid))

/-- A strand's re-send (R204), watchdog (R352) and message timers (R295). -/
def State.timerMoves (s : State) (g : Group) : List (Nat × Own) :=
  let cyc := s.cycOf g
  g.strands.flatMap (fun x =>
    let w : StrandId := ⟨g.gid, x.1⟩
    let t := x.2
    (match t.prog with | .refused _ at_ _ c => [(if c then s.now else at_ + 256 * cyc, .syncResend w)] | _ => [])
      ++ (match t.run, t.wdFrom with
          | .parked _, some f => if t.wdlim = 0 then [] else [(f + (t.wdlim.toNat - t.wdcount) * cyc, .watchdog w)]
          | _, _ => [])
      ++ t.outstanding.filterMap (fun o => o.since.map (fun f => (f + (g.msgtim - o.counted) * cyc, .msglost w o.seq))))

/-- The messages on their way over the mesh (R285, R291). -/
def State.mailMoves (s : State) : List (Nat × Own) :=
  s.mailChans.zipIdx.filterMap (fun x =>
    let t := ((s.chan x.1.1).head?.map (·.trail)).getD {}
    match t.legs with
    | .omc _ _ true :: _ => none
    | _ => some (t.due + 2 * t.cyc, .messageArrival x.2))

/-- The windows of the ports that have something to send (R298), and the acknowledgements of relays (R301). -/
def State.omcMoves (s : State) : List (Nat × Own) :=
  (s.dies.filter (fun d => !d.sendq.isEmpty || !d.relay.isEmpty || s.oprobes.any (fun p => p.src == d.v && !p.sent))).flatMap (fun d =>
    (List.range 4).map (fun p => (d.nextWindow p s.now, .omcWindow d.v p)))
    ++ s.relayAcks.zipIdx.map (fun a =>
      (directAfter (s.physOf a.1.relay) (s.physOf (((s.group? a.1.key.who.g).map Group.die).getD 0)) a.1.at_, .relayAck a.2))

/-- The exchange of a pool (R378, R379). -/
def State.roundMoves (s : State) (p : Pool) : List (Nat × Own) :=
  let dies := p.shards.map (·.die)
  let pairs := dies.flatMap (fun a => (dies.filter (fun b => b != a)).map (fun b => (a, b)))
  (p.t0 + p.round * Config.omcCycleTicks, .poolExchangeRound p.num)
    :: (if p.round = 0 then [] else pairs.map (fun x =>
        (directAfter (s.physOf x.1) (s.physOf x.2) (p.t0 + p.last * Config.omcCycleTicks - 1) + 115 * Config.nsTicks,
          .poolSummaryArrival p.num x.1 x.2)))

/-- Takes, elements and lease acknowledgements between dies (R382, R387). -/
def State.poolMoves (s : State) : List (Nat × Own) :=
  s.pools.flatMap s.roundMoves
    ++ s.takes.zipIdx.map (fun f => (f.1.opens + 115 * Config.nsTicks, .forwardedTakeArrival f.2))
    ++ s.replies.zipIdx.filterMap (fun r => r.1.crossed.map (fun t => (t, .takeReplyArrival r.2)))
    ++ s.leaseAcks.zipIdx.map (fun a => (directAfter (s.physOf a.1.origin) (s.physOf a.1.server) a.1.since, .leaseAck a.2))

/-- The times from now on at which a dispatcher may place what it could not place before: at once, and where the stagger,
the governor and the throttle end (R345, R447, R464). -/
def State.placeTimes (s : State) (l : Launch) (g : Group) : List Nat :=
  let k := s.regionOf g.homeDie
  let k0 := (l.dies.map s.regionOf).foldl min 16
  let r := s.region k
  s.now :: ([r.governor, r.throttleEnd, l.firstPlace.getD 0 + (k - k0) * l.stagger * Config.nsTicks].filter (s.now < ·))

/-- The placements of a group that waits (R342 to R346, R412). -/
def State.placeMoves (s : State) (g : Group) : List (Nat × Own) :=
  match s.launch? g.gid.launch with
  | none => []
  | some l =>
    if !g.waits || !l.started || l.status.isSome then []
    else (s.tilesFor l g).flatMap (fun t => (s.placeTimes l g).map (fun at_ =>
      (at_, if g.state == .saved then .groupResume g.gid t else .groupPlacement g.gid t)))

/-- The next of the times that the model sets for a move whose rate the manual leaves open: one in so many cycles.
DESIGN CHOICE (log 3). -/
def nextTime (now cycles : Nat) : Nat := (now / (cycles * Config.cycleTicks) + 1) * (cycles * Config.cycleTicks)

/-- The next waves that decide something, and the releases of those under way, at the bounds of their bands (R24, R318): the
period is at most the latency. -/
def State.waveMoves (s : State) : List (Nat × Own) :=
  (s.launches.filter (fun l => l.started && l.status.isNone)).flatMap (fun l =>
    match l.wave with
    | none => if s.decides l.num (s.sample l 0) then [(nextTime s.now (if l.band = 0 then 4 else 64), .waveSample l.num)] else []
    | some w => w.waiting.map (fun n => (s.waveDue l w, .waveRelease ⟨l.num, n⟩)))

/-- The requests of idle groups while one of their domain has records to give (R349); their timing is open. -/
def State.stealMoves (s : State) (g : Group) : List (Nat × Own) :=
  match s.launch? g.gid.launch with
  | none => []
  | some l =>
    if !l.det && g.state == .resident && g.idleAll && !g.stealing && (s.domain l g).any (fun h => 2 ≤ h.deque.length) then
      [(nextTime s.now 16, .stealRequest g.gid)]
    else []

/-- Stops and rotations that reach their limits (R357, R403), throttles that end (R450), and save-outs (R322). -/
def State.limitMoves (s : State) : List (Nat × Own) :=
  s.groups.filterMap (fun g => g.stop.map (fun t => (t.since + stopTicks, .stopDeadline g.gid)))
    ++ s.dies.flatMap (fun d => d.pairs.map (fun q => (q.since + d.rotTicks / 4, .skip d.v q.num)))
    ++ (List.range 16).filterMap (fun k =>
        if (s.region k).throttled then some ((s.region k).throttleEnd, .throttleEnd k) else none)
    ++ (s.groups.filter (fun g => g.state == .resident && s.groups.any (fun h => h.gid.launch == g.gid.launch && h.waits))).map (fun g =>
        (nextTime s.now 64, .groupSaveOut g.gid))

/-- The intervals of a die's rotation controller (R356, R359), and the switches of its subnetworks (R277). -/
def Die.meshMoves (d : Die) : List (Nat × Own) :=
  if !d.live then []
  else
    (if d.pairsMax = 0 && d.tsteps.isEmpty then [] else [(d.intervalStart + d.rotTicks, .rotationInterval d.v)])
      ++ (if d.subnets < 4 then (d.hotSince.filter (fun x => x.1.2 == d.subnets - 1)).map (fun x =>
            (x.2 + hotTicks, .subnetworkOn d.v d.subnets)) else [])
      ++ (match d.idleSince.lookup (d.subnets - 1) with
          | some t => if 1 < d.subnets then [(t + idleTicks, .subnetworkOff d.v (d.subnets - 1))] else []
          | none => [])

/-- Moves with the time at which each may be made. DESIGN CHOICE (log 2). DESIGN CHOICE (log 3). -/
def State.timedMoves (s : State) : List (Nat × Own) :=
  s.groups.flatMap Group.lateMoves
    ++ s.groups.flatMap s.timerMoves
    ++ s.mailMoves
    ++ s.omcMoves
    ++ s.poolMoves
    ++ s.groups.flatMap s.placeMoves
    ++ s.groups.flatMap s.stealMoves
    ++ s.waveMoves
    ++ s.limitMoves
    ++ s.dies.flatMap Die.meshMoves

end Sys2Proof.Machine
end

