-- ==== Sys2Proof/Machine/Capability.lean ====
section
/-! DEFINITION. Class 0x2, the capability instructions (05 R135 to R143). -/

namespace Sys2Proof.Machine

/-- CAPTAG 0x01 of an untagged A (R135): TRAPVAL is A[63:0]. -/
def untagged (x : RegCell) : Trap := ⟨.captag, 0, 0x01, lane0 x⟩

/-- A body whose A must be a capability. -/
def needCap (x : RegCell) (r : Res) : Res := if x.tag then r else .trap (untagged x)

/-- A capability with another range (R137). -/
def capRange (q : Quad) (base exp mant : Nat) : Quad := mkCap (capPerms q) (capSpace q) exp mant 0 base

/-- CAPSUB (R137). -/
def capSub (q : Quad) (len : Nat) : Except Nat Quad :=
  let cur := capCursor q
  let f := fit len
  let n := f.2 * 2 ^ f.1
  if 2 ^ 24 ≤ f.2 || 2 ^ 44 < cur + n then .error 0x01
  else if 2 ≤ capSpace q && (cur < capBase q || capBase q + capLen q < cur + n) then .error 0x01
  else if cur % 2 ^ f.1 != 0 then .error 0x02
  else .ok (capRange q cur f.1 f.2)

/-- The cursor moved (R140): the new capability, or the value TRAPVAL reports. -/
def capMove (q : Quad) (off : Int) : Except Lane Quad :=
  if capSpace q < 2 then .ok (capWithOffset q off)
  else
    let a := (capBase q : Int) + off
    if off < -(2 ^ 39) || 2 ^ 39 ≤ off || a < 0 || 2 ^ 44 ≤ a then .error (BitVec.ofInt 64 a)
    else .ok (capWithOffset q off)

/-- The end of CAPADD, CAPADDI and CAPSET. -/
def State.moved (s : State) (d : Reg) (r : Except Lane Quad) : Res :=
  match r with
  | .error v => .trap ⟨.capbound, 0, 0x03, v⟩
  | .ok q => .ok (s.writeReg d q true)

/-- A mask over permissions in the order of R135, CHK kept (R139). -/
def capMasked (q : Quad) (mask : BitVec 8) : Quad :=
  let keep : BitVec 8 := mask ||| 0x40
  q &&& ~~~(((~~~keep).setWidth 128) <<< 117)

/-- A field of CAPGET (R141). -/
def capField (x : RegCell) (field : Nat) (pol : Nat) : Lane :=
  let q := x.v
  match field with
  | 0 => capPointer q pol
  | 1 => BitVec.ofNat 64 (capBase q)
  | 2 => BitVec.ofInt 64 (capOffset q)
  | 3 => BitVec.ofNat 64 (capLen q)
  | 4 => (capPerms q).setWidth 64
  | 5 => BitVec.ofNat 64 (capSpace q)
  | 6 => if x.tag then 1 else 0
  | 7 => BitVec.ofNat 64 (capExp q)
  | _ => BitVec.ofNat 64 (capCursor q)

/-- The test of CAPTST (R142). -/
def capTest (x : RegCell) (n : Nat) (perm : BitVec 8) : Bool :=
  let q := x.v
  let cur := capCursor q
  x.tag && capSpace q ≤ 5 && (capPerms q &&& perm) == perm
    && (capSpace q < 2 || n == 0 || (capBase q ≤ cur && cur + n ≤ capBase q + capLen q))

/-- CAPSUB. -/
def execCapsub (h : Head) (d : Reg) (a b : PSrc) (s : State) : Out :=
  .next (s.issue h {} [pop1 a, pop1 b] [d] (fun l s =>
    needCap (opv l 0) (match capSub (opv l 0).v (lane0 (opv l 1)).toNat with
      | .error e => .trap ⟨.capbound, 0, e, BitVec.ofNat 64 (capCursor (opv l 0).v)⟩
      | .ok q => .ok (s.writeReg d q true))))
/-- CAPLEN (R138). -/
def execCaplen (h : Head) (d : Reg) (a : PSrc) (s : State) : Out :=
  .next (s.issue h {} [pop1 a] [d] (fun l s =>
    let n := (lane0 (opv l 0)).toNat
    let f := fit n
    .ok (s.writeReg d (if 2 ^ 44 < n then 0
      else quad2 (BitVec.ofNat 64 (f.2 * 2 ^ f.1)) (BitVec.ofNat 64 (2 ^ 64 - 2 ^ f.1))))))
/-- CAPPERM (R139). -/
def execCapperm (h : Head) (d : Reg) (a : PSrc) (mask : BitVec 8) (s : State) : Out :=
  .next (s.issue h {} [pop1 a] [d] (fun l s =>
    needCap (opv l 0) (.ok (s.writeReg d (capMasked (opv l 0).v mask) true))))
/-- CAPADD (R140). -/
def execCapadd (h : Head) (d : Reg) (a b : PSrc) (s : State) : Out :=
  .next (s.issue h {} [pop1 a, pop1 b] [d] (fun l s =>
    let q := (opv l 0).v
    needCap (opv l 0) (s.moved d (capMove q (capOffset q + (lane0 (opv l 1)).toInt)))))
/-- CAPADDI. -/
def execCapaddi (h : Head) (d : Reg) (a : PSrc) (delta : BitVec 32) (s : State) : Out :=
  .next (s.issue h {} [pop1 a] [d] (fun l s =>
    let q := (opv l 0).v
    needCap (opv l 0) (s.moved d (capMove q (capOffset q + delta.toInt)))))
/-- CAPSET: the address is read as an unsigned 64-bit number (R140). -/
def execCapset (h : Head) (d : Reg) (a b : PSrc) (s : State) : Out :=
  .next (s.issue h {} [pop1 a, pop1 b] [d] (fun l s =>
    let q := (opv l 0).v
    needCap (opv l 0) (s.moved d (capMove q ((lane0 (opv l 1)).toNat - (capBase q : Int))))))
/-- CAPGET (R141): field 6 takes an untagged A. -/
def execCapget (h : Head) (d : Reg) (a : PSrc) (field : BitVec 4) (pol : BitVec 2) (s : State) : Out :=
  .next (s.issue h {} [pop1 a] [d] (fun l s =>
    let r : Res := .ok (s.writeReg d (quad2 (capField (opv l 0) field.toNat pol.toNat) 0))
    if field = 6 then r else needCap (opv l 0) r))
/-- CAPTST (R142). -/
def execCaptst (h : Head) (p : Pred) (a b : PSrc) (perm : BitVec 8) (s : State) : Out :=
  .next (s.issue h {} [pop1 a, pop1 b] [] (fun l s =>
    .ok (s.writePred p (capTest (opv l 0) (lane0 (opv l 1)).toNat perm))))
/-- CAPCLR (R143). -/
def execCapclr (h : Head) (d : Reg) (a : PSrc) (s : State) : Out :=
  .next (s.issue h {} [pop1 a] [d] (fun l s => .ok (s.writeReg d (opv l 0).v)))

end Sys2Proof.Machine
end

