-- ==== Sys2Proof/Machine/Control.lean ====
section
/-! DEFINITION. Class 0x0, control flow and predicates (05 R129 to R134). -/

namespace Sys2Proof.Machine

/-- CheckTarget (R132): the trap of a capability that is no branch target. -/
def checkTarget (x : RegCell) : Option Trap :=
  let q := x.v
  let t (c : Cause) (d : Nat) : Option Trap := some ⟨c, 0, d, capPointer q⟩
  if !x.tag then t .captag 0x01
  else if 7 ≤ capSpace q then t .captag 0x02
  else if !capEX q then t .capperm 0x01
  else if capSpace q < 2 || 5 < capSpace q then t .capperm 0x02
  else if capCursor q % 4 != 0 then t .align 0
  else none

/-- Move pc by a count of instructions (R42). -/
def State.branch (s : State) (off : BitVec 32) : State := s.modSt (fun t => t.movePc (12 * off.toInt))
/-- Write into ra a capability to the next instruction (R132). -/
def State.link (s : State) : State := s.writeReg .ra s.st.returnCap true
/-- Go to a target capability (R129). -/
def State.jump (s : State) (x : RegCell) : State := s.modSt (fun t => { t with fcap := ⟨x.v, x.tag⟩ })

/-- NOP. -/
def execNop (h : Head) (s : State) : Out := .next (s.issue h {} [] [] (fun _ s => .ok s))
/-- BR. -/
def execBr (h : Head) (off : BitVec 32) (s : State) : Out := .next (s.issue h {} [] [] (fun _ s => .go (s.branch off)))
/-- BRI. -/
def execBri (h : Head) (a : PSrc) (s : State) : Out :=
  .next (s.issue h {} [pop1 a] [] (fun l s =>
    match checkTarget (opv l 0) with
    | some t => .trap t
    | none => .go (s.jump (opv l 0))))
/-- CALL: ra is a destination (R132). -/
def execCall (h : Head) (off : BitVec 32) (s : State) : Out :=
  .next (s.issue h {} [] [.ra] (fun _ s => .go (s.link.branch off)))
/-- CALLI. -/
def execCalli (h : Head) (a : PSrc) (s : State) : Out :=
  .next (s.issue h {} [pop1 a] [.ra] (fun l s =>
    match checkTarget (opv l 0) with
    | some t => .trap t
    | none => .go (s.link.jump (opv l 0))))
/-- RET: BRI under another name (R132). -/
def execRet (h : Head) (a : PSrc) (s : State) : Out :=
  .next (s.issue h {} [pop1 a] [] (fun l s =>
    match checkTarget (opv l 0) with
    | some t => .trap t
    | none => .go (s.jump (opv l 0))))
/-- LOOP (R133): a counter register in MBOX or in stream mode traps ILLEGAL 0x0B. -/
def execLoop (h : Head) (d : Reg) (off : BitVec 32) (s : State) : Out :=
  .next (s.issue h { ill := illGroup [d] } [dop d] [d] (fun l s =>
    let n := lane0 (opv l 0) - 1
    let s := s.writeReg d (quad2 n (lane1 (opv l 0)))
    if n = 0 then .ok s else .go (s.branch off)))

/-- The predicates as bits 7 to 0, bit 0 always 1 (R134). -/
def Strand.predByte (t : Strand) : BitVec 8 :=
  (List.range 8).foldl (fun (b : BitVec 8) k => if t.pred (Fin.ofNat 8 k) then b ||| (1#8 <<< k) else b) 0

/-- PAND. -/
def execPand (h : Head) (p q r : Pred) (s : State) : Out :=
  .next (s.issue h {} [] [] (fun _ s => .ok (s.writePred p (s.st.pred q && s.st.pred r))))
/-- POR. -/
def execPor (h : Head) (p q r : Pred) (s : State) : Out :=
  .next (s.issue h {} [] [] (fun _ s => .ok (s.writePred p (s.st.pred q || s.st.pred r))))
/-- PXOR. -/
def execPxor (h : Head) (p q r : Pred) (s : State) : Out :=
  .next (s.issue h {} [] [] (fun _ s => .ok (s.writePred p (s.st.pred q != s.st.pred r))))
/-- PANDN. -/
def execPandn (h : Head) (p q r : Pred) (s : State) : Out :=
  .next (s.issue h {} [] [] (fun _ s => .ok (s.writePred p (s.st.pred q && !s.st.pred r))))
/-- PGET. -/
def execPget (h : Head) (d : Reg) (s : State) : Out :=
  .next (s.issue h {} [] [d] (fun _ s => .ok (s.writeReg d (s.st.predByte.setWidth 128))))
/-- PSETM: bits 1 to 7 of the mask choose the predicates that A writes. -/
def execPsetm (h : Head) (a : PSrc) (mask : BitVec 8) (s : State) : Out :=
  .next (s.issue h {} [pop1 a] [] (fun l s =>
    .ok ((List.range 8).foldl (fun (s : State) k =>
      if mask.getLsbD k then s.writePred (Fin.ofNat 8 k) ((opv l 0).v.getLsbD k) else s) s)))
/-- PSET. -/
def execPset (h : Head) (p : Pred) (v : Bool) (s : State) : Out :=
  .next (s.issue h {} [] [] (fun _ s => .ok (s.writePred p v)))

end Sys2Proof.Machine
end

