-- ==== Sys2Proof/Machine/Dispatch.lean ====
section
/-! DEFINITION. One arm per instruction or step of the manual: its meaning. -/

namespace Sys2Proof.Machine

def exec (i : Instr) (s : State) : Host.Outcome State Fault Refusal :=
  match i with
  | .nop h => Sys2Proof.Machine.execNop h s
  | .br h off => Sys2Proof.Machine.execBr h off s
  | .bri h a => Sys2Proof.Machine.execBri h a s
  | .call h off => Sys2Proof.Machine.execCall h off s
  | .calli h a => Sys2Proof.Machine.execCalli h a s
  | .ret h a => Sys2Proof.Machine.execRet h a s
  | .loop h d off => Sys2Proof.Machine.execLoop h d off s
  | .pand h p q r => Sys2Proof.Machine.execPand h p q r s
  | .por h p q r => Sys2Proof.Machine.execPor h p q r s
  | .pxor h p q r => Sys2Proof.Machine.execPxor h p q r s
  | .pandn h p q r => Sys2Proof.Machine.execPandn h p q r s
  | .pget h d => Sys2Proof.Machine.execPget h d s
  | .psetm h a mask => Sys2Proof.Machine.execPsetm h a mask s
  | .pset h p v => Sys2Proof.Machine.execPset h p v s
  | .add h t d a b => Sys2Proof.Machine.execAdd h t d a b s
  | .addi h t d a im => Sys2Proof.Machine.execAddi h t d a im s
  | .sub h t d a b => Sys2Proof.Machine.execSub h t d a b s
  | .adds h t d a b => Sys2Proof.Machine.execAdds h t d a b s
  | .subs h t d a b => Sys2Proof.Machine.execSubs h t d a b s
  | .mul h t d a b => Sys2Proof.Machine.execMul h t d a b s
  | .muli h t d a im => Sys2Proof.Machine.execMuli h t d a im s
  | .mulh h t d a b => Sys2Proof.Machine.execMulh h t d a b s
  | .div h t d a b => Sys2Proof.Machine.execDiv h t d a b s
  | .rem h t d a b => Sys2Proof.Machine.execRem h t d a b s
  | .neg h t d a => Sys2Proof.Machine.execNeg h t d a s
  | .abs h t d a => Sys2Proof.Machine.execAbs h t d a s
  | .min h t d a b => Sys2Proof.Machine.execMin h t d a b s
  | .max h t d a b => Sys2Proof.Machine.execMax h t d a b s
  | .and h t d a b => Sys2Proof.Machine.execAnd h t d a b s
  | .andi h t d a im => Sys2Proof.Machine.execAndi h t d a im s
  | .or h t d a b => Sys2Proof.Machine.execOr h t d a b s
  | .ori h t d a im => Sys2Proof.Machine.execOri h t d a im s
  | .xor h t d a b => Sys2Proof.Machine.execXor h t d a b s
  | .xori h t d a im => Sys2Proof.Machine.execXori h t d a im s
  | .andn h t d a b => Sys2Proof.Machine.execAndn h t d a b s
  | .shl h t d a b => Sys2Proof.Machine.execShl h t d a b s
  | .shli h t d a n => Sys2Proof.Machine.execShli h t d a n s
  | .shr h t d a b => Sys2Proof.Machine.execShr h t d a b s
  | .shri h t d a n => Sys2Proof.Machine.execShri h t d a n s
  | .rot h t d a b => Sys2Proof.Machine.execRot h t d a b s
  | .roti h t d a n => Sys2Proof.Machine.execRoti h t d a n s
  | .clz h t d a => Sys2Proof.Machine.execClz h t d a s
  | .popc h t d a => Sys2Proof.Machine.execPopc h t d a s
  | .brev h t d a => Sys2Proof.Machine.execBrev h t d a s
  | .bfx h t d a pos len => Sys2Proof.Machine.execBfx h t d a pos len s
  | .bfi h t d a pos len => Sys2Proof.Machine.execBfi h t d a pos len s
  | .cmp h t cc comb p a b => Sys2Proof.Machine.execCmp h t cc comb p a b s
  | .cmpi h t cc comb p a im => Sys2Proof.Machine.execCmpi h t cc comb p a im s
  | .sel h d a b p => Sys2Proof.Machine.execSel h d a b p s
  | .movi h t d im => Sys2Proof.Machine.execMovi h t d im s
  | .movhi h d im => Sys2Proof.Machine.execMovhi h d im s
  | .mov h t d a => Sys2Proof.Machine.execMov h t d a s
  | .shuf h t d a b => Sys2Proof.Machine.execShuf h t d a b s
  | .laneget h t d a k => Sys2Proof.Machine.execLaneget h t d a k s
  | .laneset h t d a k => Sys2Proof.Machine.execLaneset h t d a k s
  | .bcast h t d a k => Sys2Proof.Machine.execBcast h t d a k s
  | .capsub h d a b => Sys2Proof.Machine.execCapsub h d a b s
  | .caplen h d a => Sys2Proof.Machine.execCaplen h d a s
  | .capperm h d a mask => Sys2Proof.Machine.execCapperm h d a mask s
  | .capadd h d a b => Sys2Proof.Machine.execCapadd h d a b s
  | .capaddi h d a delta => Sys2Proof.Machine.execCapaddi h d a delta s
  | .capset h d a b => Sys2Proof.Machine.execCapset h d a b s
  | .capget h d a field pol => Sys2Proof.Machine.execCapget h d a field pol s
  | .captst h p a b perm => Sys2Proof.Machine.execCaptst h p a b perm s
  | .capclr h d a => Sys2Proof.Machine.execCapclr h d a s
  | .cvt h rm sat part src dst d a => Sys2Proof.Machine.execCvt h rm sat part src dst d a s
  | .ftoi h t rm signed sat d a => Sys2Proof.Machine.execFtoi h t rm signed sat d a s
  | .itof h t rm signed d a => Sys2Proof.Machine.execItof h t rm signed d a s
  | .blkset h rm f d a => Sys2Proof.Machine.execBlkset h rm f d a s
  | .blkput h t rm sat q a part => Sys2Proof.Machine.execBlkput h t rm sat q a part s
  | .blkget h t rm d q trapEmpty part => Sys2Proof.Machine.execBlkget h t rm d q trapEmpty part s
  | .blkfit h t f d a => Sys2Proof.Machine.execBlkfit h t f d a s
  | .fadd h t rm d a b => Sys2Proof.Machine.execFadd h t rm d a b s
  | .fsub h t rm d a b => Sys2Proof.Machine.execFsub h t rm d a b s
  | .fmul h t rm d a b => Sys2Proof.Machine.execFmul h t rm d a b s
  | .ffma h t rm d a b => Sys2Proof.Machine.execFfma h t rm d a b s
  | .ffms h t rm d a b => Sys2Proof.Machine.execFfms h t rm d a b s
  | .fnfma h t rm d a b => Sys2Proof.Machine.execFnfma h t rm d a b s
  | .fdiv h t rm d a b => Sys2Proof.Machine.execFdiv h t rm d a b s
  | .fsqrt h t rm d a => Sys2Proof.Machine.execFsqrt h t rm d a s
  | .fmin h t d a b => Sys2Proof.Machine.execFmin h t d a b s
  | .fmax h t d a b => Sys2Proof.Machine.execFmax h t d a b s
  | .fabs h t d a => Sys2Proof.Machine.execFabs h t d a s
  | .fneg h t d a => Sys2Proof.Machine.execFneg h t d a s
  | .fcmp h t cc comb p a b => Sys2Proof.Machine.execFcmp h t cc comb p a b s
  | .fclass h t d a => Sys2Proof.Machine.execFclass h t d a s
  | .frint h t rm exact d a => Sys2Proof.Machine.execFrint h t rm exact d a s
  | .fscale h t rm d a b => Sys2Proof.Machine.execFscale h t rm d a b s
  | .freduce h t rm d a => Sys2Proof.Machine.execFreduce h t rm d a s
  | .fexp h t rm d a => Sys2Proof.Machine.execFexp h t rm d a s
  | .fexp2 h t rm d a => Sys2Proof.Machine.execFexp2 h t rm d a s
  | .fexpm1 h t rm d a => Sys2Proof.Machine.execFexpm1 h t rm d a s
  | .flog h t rm d a => Sys2Proof.Machine.execFlog h t rm d a s
  | .flog2 h t rm d a => Sys2Proof.Machine.execFlog2 h t rm d a s
  | .flog1p h t rm d a => Sys2Proof.Machine.execFlog1p h t rm d a s
  | .ferf h t rm d a => Sys2Proof.Machine.execFerf h t rm d a s
  | .ferfc h t rm d a => Sys2Proof.Machine.execFerfc h t rm d a s
  | .frcp h t rm d a => Sys2Proof.Machine.execFrcp h t rm d a s
  | .frsqrt h t rm d a => Sys2Proof.Machine.execFrsqrt h t rm d a s
  | .fcsrget h d => Sys2Proof.Machine.execFcsrget h d s
  | .fcsrset h d a mask => Sys2Proof.Machine.execFcsrset h d a mask s
  | .fflagclr h d mask => Sys2Proof.Machine.execFflagclr h d mask s
  | .rnd h d => Sys2Proof.Machine.execRnd h d s
  | .rndstate h d => Sys2Proof.Machine.execRndstate h d s
  | .rndstateW h d a => Sys2Proof.Machine.execRndstateW h d a s
  | .mzero h ad => Sys2Proof.Machine.execMzero h ad s
  | .mdot h inca incb ad a b => Sys2Proof.Machine.execMdot h inca incb ad a b s
  | .mrd h col d as k => Sys2Proof.Machine.execMrd h col d as k s
  | .mwr h col ad a trapEmpty k => Sys2Proof.Machine.execMwr h col ad a trapEmpty k s
  | .madd h rm ad as => Sys2Proof.Machine.execMadd h rm ad as s
  | .mscl h rm ad a => Sys2Proof.Machine.execMscl h rm ad a s
  | .mstat h d => Sys2Proof.Machine.execMstat h d s
  | .ld h t pol d a off => Sys2Proof.Machine.execLd h t pol d a off s
  | .st h t pol a b off => Sys2Proof.Machine.execSt h t pol a b off s
  | .ldx h t pol d a b => Sys2Proof.Machine.execLdx h t pol d a b s
  | .stx h t pol d a b => Sys2Proof.Machine.execStx h t pol d a b s
  | .ldc h pol d a off => Sys2Proof.Machine.execLdc h pol d a off s
  | .stc h pol a b off => Sys2Proof.Machine.execStc h pol a b off s
  | .lde h d a off => Sys2Proof.Machine.execLde h d a off s
  | .ldf h d a off => Sys2Proof.Machine.execLdf h d a off s
  | .stf h a b off => Sys2Proof.Machine.execStf h a b off s
  | .feset h full a off => Sys2Proof.Machine.execFeset h full a off s
  | .amo h t fn d a b off => Sys2Proof.Machine.execAmo h t fn d a b off s
  | .cas h t d a b off => Sys2Proof.Machine.execCas h t d a b off s
  | .pref h a off => Sys2Proof.Machine.execPref h a off s
  | .linewb h a off => Sys2Proof.Machine.execLinewb h a off s
  | .lineinv h a off => Sys2Proof.Machine.execLineinv h a off s
  | .fence h sc k => Sys2Proof.Machine.execFence h sc k s
  | .tmget h d => Sys2Proof.Machine.execTmget h d s
  | .tmclr h => Sys2Proof.Machine.execTmclr h s
  | .fenceh h sc k a => Sys2Proof.Machine.execFenceh h sc k a s
  | .strm h out d a b => Sys2Proof.Machine.execStrm h out d a b s
  | .strmend h d => Sys2Proof.Machine.execStrmend h d s
  | .strmq h d a => Sys2Proof.Machine.execStrmq h d a s
  | .copy h exp d a b => Sys2Proof.Machine.execCopy h exp d a b s
  | .copyc h rm sat exp src dst d a b => Sys2Proof.Machine.execCopyc h rm sat exp src dst d a b s
  | .gather h t exp d a b => Sys2Proof.Machine.execGather h t exp d a b s
  | .scatter h t exp d a b => Sys2Proof.Machine.execScatter h t exp d a b s
  | .txbinit h a n => Sys2Proof.Machine.execTxbinit h a n s
  | .txbarr h d a => Sys2Proof.Machine.execTxbarr h d a s
  | .txbexp h a n => Sys2Proof.Machine.execTxbexp h a n s
  | .txbwait h d a b => Sys2Proof.Machine.execTxbwait h d a b s
  | .txbtest h p a b => Sys2Proof.Machine.execTxbtest h p a b s
  | .send h route a b => Sys2Proof.Machine.execSend h route a b s
  | .sendi h route a imm => Sys2Proof.Machine.execSendi h route a imm s
  | .inpop h d => Sys2Proof.Machine.execInpop h d s
  | .inpeek h d => Sys2Proof.Machine.execInpeek h d s
  | .rtlat h d => Sys2Proof.Machine.execRtlat h d s
  | .rtload h a => Sys2Proof.Machine.execRtload h a s
  | .linkclr h d mask => Sys2Proof.Machine.execLinkclr h d mask s
  | .osend h unordered d a b => Sys2Proof.Machine.execOsend h unordered d a b s
  | .oslot h d => Sys2Proof.Machine.execOslot h d s
  | .ofence h => Sys2Proof.Machine.execOfence h s
  | .pause h => Sys2Proof.Machine.execPause h s
  | .emit h rel sig => Sys2Proof.Machine.execEmit h rel sig s
  | .present h p sig => Sys2Proof.Machine.execPresent h p sig s
  | .prev h p sig => Sys2Proof.Machine.execPrev h p sig s
  | .watch h k sig off => Sys2Proof.Machine.execWatch h k sig off s
  | .unwatch h => Sys2Proof.Machine.execUnwatch h s
  | .canemit h d a => Sys2Proof.Machine.execCanemit h d a s
  | .disclaim h a => Sys2Proof.Machine.execDisclaim h a s
  | .instant h d => Sys2Proof.Machine.execInstant h d s
  | .rbar h => Sys2Proof.Machine.execRbar h s
  | .rexcuseOn h d => Sys2Proof.Machine.execRexcuseOn h d s
  | .rexcuseOff h d => Sys2Proof.Machine.execRexcuseOff h d s
  | .await h sig => Sys2Proof.Machine.execAwait h sig s
  | .fork h p a b off => Sys2Proof.Machine.execFork h p a b off s
  | .join h => Sys2Proof.Machine.execJoin h s
  | .yield h => Sys2Proof.Machine.execYield h s
  | .halt h retain => Sys2Proof.Machine.execHalt h retain s
  | .launch h d a => Sys2Proof.Machine.execLaunch h d a s
  | .trigger h => Sys2Proof.Machine.execTrigger h s
  | .who h d field => Sys2Proof.Machine.execWho h d field s
  | .lwait h d a => Sys2Proof.Machine.execLwait h d a s
  | .gbar h => Sys2Proof.Machine.execGbar h s
  | .pinit h d a b => Sys2Proof.Machine.execPinit h d a b s
  | .pput h a b => Sys2Proof.Machine.execPput h a b s
  | .ptakeWait h p d a => Sys2Proof.Machine.execPtakeWait h p d a s
  | .ptakeTry h p d a => Sys2Proof.Machine.execPtakeTry h p d a s
  | .ptakeX h p d a => Sys2Proof.Machine.execPtakeX h p d a s
  | .pbound h d a => Sys2Proof.Machine.execPbound h d a s
  | .psize h d a => Sys2Proof.Machine.execPsize h d a s
  | .pfree h d a => Sys2Proof.Machine.execPfree h d a s
  | .psync h a => Sys2Proof.Machine.execPsync h a s
  | .trap h code a => Sys2Proof.Machine.execTrap h code a s
  | .eret h skip => Sys2Proof.Machine.execEret h skip s
  | .csrget h d csr => Sys2Proof.Machine.execCsrget h d csr s
  | .csrset h d a csr => Sys2Proof.Machine.execCsrset h d a csr s
  | .brk h code => Sys2Proof.Machine.execBrk h code s
  | .ckpt h d => Sys2Proof.Machine.execCkpt h d s
  | .tlbinvAll h => Sys2Proof.Machine.execTlbinvAll h s
  | .tlbinvPage h a => Sys2Proof.Machine.execTlbinvPage h a s
  | .ctxsave h d a => Sys2Proof.Machine.execCtxsave h d a s
  | .ctxload h d a => Sys2Proof.Machine.execCtxload h d a s
  | .notify h d a vec => Sys2Proof.Machine.execNotify h d a vec s
  | .mboxWrite h d a => Sys2Proof.Machine.execMboxWrite h d a s
  | .canrldWrite h d a => Sys2Proof.Machine.execCanrldWrite h d a s
  | .watchstWrite h d a => Sys2Proof.Machine.execWatchstWrite h d a s
  | .fcsrWrite h d a => Sys2Proof.Machine.execFcsrWrite h d a s
  | .cpauseResume h d a => Sys2Proof.Machine.execCpauseResume h d a s
  | .cpauseAbandon h d a => Sys2Proof.Machine.execCpauseAbandon h d a s
  | .gstatDiscClear h d a => Sys2Proof.Machine.execGstatDiscClear h d a s
  | .strandWake w => Sys2Proof.Machine.execStrandWake w s
  | .resultArrival g => Sys2Proof.Machine.execResultArrival g s
  | .longCommit w => Sys2Proof.Machine.execLongCommit w s
  | .perform ch => Sys2Proof.Machine.execPerform ch s
  | .returnValue k => Sys2Proof.Machine.execReturnValue k s
  | .echo ch => Sys2Proof.Machine.execEcho ch s
  | .evict die line => Sys2Proof.Machine.execEvict die line s
  | .syncResend w => Sys2Proof.Machine.execSyncResend w s
  | .tlbWalkDone w => Sys2Proof.Machine.execTlbWalkDone w s
  | .linkWordArrival k => Sys2Proof.Machine.execLinkWordArrival k s
  | .mdotCommit g => Sys2Proof.Machine.execMdotCommit g s
  | .accumulatorCommit g => Sys2Proof.Machine.execAccumulatorCommit g s
  | .copyUnitEnter g op => Sys2Proof.Machine.execCopyUnitEnter g op s
  | .streamDelivery k => Sys2Proof.Machine.execStreamDelivery k s
  | .copyUnitLanding k => Sys2Proof.Machine.execCopyUnitLanding k s
  | .messageArrival k => Sys2Proof.Machine.execMessageArrival k s
  | .messageAck k => Sys2Proof.Machine.execMessageAck k s
  | .msglost w seq => Sys2Proof.Machine.execMsglost w seq s
  | .headerResend k again => Sys2Proof.Machine.execHeaderResend k again s
  | .subnetworkOn die k => Sys2Proof.Machine.execSubnetworkOn die k s
  | .subnetworkOff die k => Sys2Proof.Machine.execSubnetworkOff die k s
  | .omcWindow die plane => Sys2Proof.Machine.execOmcWindow die plane s
  | .relayAck k => Sys2Proof.Machine.execRelayAck k s
  | .waveSample launch => Sys2Proof.Machine.execWaveSample launch s
  | .waveRelease g => Sys2Proof.Machine.execWaveRelease g s
  | .exactTakeService launch => Sys2Proof.Machine.execExactTakeService launch s
  | .groupSaveOut g => Sys2Proof.Machine.execGroupSaveOut g s
  | .launchQueue tenant desc codeBase codeLen dataRoot sdata => Sys2Proof.Machine.execLaunchQueue tenant desc codeBase codeLen dataRoot sdata s
  | .priorityAgeing launch => Sys2Proof.Machine.execPriorityAgeing launch s
  | .groupPlacement g tile => Sys2Proof.Machine.execGroupPlacement g tile s
  | .taskStart w => Sys2Proof.Machine.execTaskStart w s
  | .stealRequest g => Sys2Proof.Machine.execStealRequest g s
  | .stealReply g => Sys2Proof.Machine.execStealReply g s
  | .joinStoreReturn g => Sys2Proof.Machine.execJoinStoreReturn g s
  | .joinDeadlock g => Sys2Proof.Machine.execJoinDeadlock g s
  | .watchdog w => Sys2Proof.Machine.execWatchdog w s
  | .groupRetire g => Sys2Proof.Machine.execGroupRetire g s
  | .dependentLaunchRelease launch => Sys2Proof.Machine.execDependentLaunchRelease launch s
  | .launchCancel launch => Sys2Proof.Machine.execLaunchCancel launch s
  | .rotationInterval die => Sys2Proof.Machine.execRotationInterval die s
  | .swap die k => Sys2Proof.Machine.execSwap die k s
  | .done die k => Sys2Proof.Machine.execDone die k s
  | .skip die k => Sys2Proof.Machine.execSkip die k s
  | .poolExchangeRound pool => Sys2Proof.Machine.execPoolExchangeRound pool s
  | .poolSummaryArrival pool src dst => Sys2Proof.Machine.execPoolSummaryArrival pool src dst s
  | .forwardedTakeArrival k => Sys2Proof.Machine.execForwardedTakeArrival k s
  | .takeReplyArrival k => Sys2Proof.Machine.execTakeReplyArrival k s
  | .leaseAck k => Sys2Proof.Machine.execLeaseAck k s
  | .stopRequest g why => Sys2Proof.Machine.execStopRequest g why s
  | .stopDeadline g => Sys2Proof.Machine.execStopDeadline g s
  | .groupResume g tile => Sys2Proof.Machine.execGroupResume g tile s
  | .errorDetected e recurs => Sys2Proof.Machine.execErrorDetected e recurs s
  | .debugHalt g => Sys2Proof.Machine.execDebugHalt g s
  | .freeze g => Sys2Proof.Machine.execFreeze g s
  | .freezeRelease g => Sys2Proof.Machine.execFreezeRelease g s
  | .recoveryPoint launch => Sys2Proof.Machine.execRecoveryPoint launch s
  | .drainPoint launch => Sys2Proof.Machine.execDrainPoint launch s
  | .rollback launch => Sys2Proof.Machine.execRollback launch s
  | .regionDrain region retire => Sys2Proof.Machine.execRegionDrain region retire s
  | .governorStep region => Sys2Proof.Machine.execGovernorStep region s
  | .powerCheck => Sys2Proof.Machine.execPowerCheck s
  | .floorLower => Sys2Proof.Machine.execFloorLower s
  | .droopAlarm region => Sys2Proof.Machine.execDroopAlarm region s
  | .throttleEnd region => Sys2Proof.Machine.execThrottleEnd region s
  | .powerGood => Sys2Proof.Machine.execPowerGood s
  | .stage1 => Sys2Proof.Machine.execStage1 s
  | .regionJoin region passes => Sys2Proof.Machine.execRegionJoin region passes s
  | .stage3 => Sys2Proof.Machine.execStage3 s
  | .spdmMeasurement tenant index => Sys2Proof.Machine.execSpdmMeasurement tenant index s
  | .hostRead tenant space addr n => Sys2Proof.Machine.execHostRead tenant space addr n s
  | .hostWrite tenant space addr bytes => Sys2Proof.Machine.execHostWrite tenant space addr bytes s
  | .dmaAccess fn k space addr bytes => Sys2Proof.Machine.execDmaAccess fn k space addr bytes s
  | .notifyTake tenant => Sys2Proof.Machine.execNotifyTake tenant s
  | .ndbgLoad tenant object => Sys2Proof.Machine.execNdbgLoad tenant object s
  | .break_ addr => Sys2Proof.Machine.execBreak addr s
  | .istop n => Sys2Proof.Machine.execIstop n s
  | .run dataRoot => Sys2Proof.Machine.execRun dataRoot s
  | .cont => Sys2Proof.Machine.execCont s
  | .regs slot names preds => Sys2Proof.Machine.execRegs slot names preds s
  | .csr slot csrs => Sys2Proof.Machine.execCsr slot csrs s
  | .tree => Sys2Proof.Machine.execTree s
  | .group g => Sys2Proof.Machine.execGroup g s
  | .mem off n => Sys2Proof.Machine.execMem off n s
  | .memf off n => Sys2Proof.Machine.execMemf off n s
  | .ptrace => Sys2Proof.Machine.execPtrace s
  | .ptracePrint a b => Sys2Proof.Machine.execPtracePrint a b s
  | .rounds a b => Sys2Proof.Machine.execRounds a b s
  | .dmem label n => Sys2Proof.Machine.execDmem label n s
  | .wavetrace => Sys2Proof.Machine.execWavetrace s
  | .streams g => Sys2Proof.Machine.execStreams g s
  | .streamsPrint => Sys2Proof.Machine.execStreamsPrint s
  | .regions => Sys2Proof.Machine.execRegions s
  | .rbarPrint n => Sys2Proof.Machine.execRbarPrint n s
  | .where_ => Sys2Proof.Machine.execWhere s
  | .acc a => Sys2Proof.Machine.execAcc a s
  | .accmatch a x => Sys2Proof.Machine.execAccmatch a x s
  | .ndas options files => Sys2Proof.Machine.execNdas options files s
  | .ndld objects => Sys2Proof.Machine.execNdld objects s
  | .managementMessage t v => Sys2Proof.Machine.execManagementMessage t v s
  | .tenantRectangle tenant vx0 vy0 width height => Sys2Proof.Machine.execTenantRectangle tenant vx0 vy0 width height s
  | .hotPlug port present => Sys2Proof.Machine.execHotPlug port present s
  | .aerError fn code => Sys2Proof.Machine.execAerError fn code s
  | .descriptorCopied w => Sys2Proof.Machine.execDescriptorCopied w s
  | .portCopyDone w => Sys2Proof.Machine.execPortCopyDone w s

end Sys2Proof.Machine
end

