-- ==== Sys2Proof/Machine/Fetch.lean ====
section
/-! DEFINITION. Fetching an instruction (05 R129, R130), the turn of a strand (01 R23, 02 R45), the moves of the machine, and
the move that it makes when no agenda names one. -/

namespace Sys2Proof.Machine

/-! ### Fetch -/

/-- What a fetch answers. -/
inductive Fetched where
  | trap (t : Trap)
  | walk (r : WalkReq)
  | bytes (l : List Byte)

/-- The 12 bytes at an address are code of the issuing strand's launch. -/
def State.ownCode (s : State) (space pc : Nat) : Bool :=
  match s.myLaunch with
  | none => false
  | some l => l.code.isSome && space == Config.codeSpace && l.codeBase ≤ pc && pc + 12 ≤ l.codeBase + l.codeLen

/-- Bytes of the launch's code as it stood when the launch began: code written during a launch is fetched only by a later one
(R130). -/
def State.codeAt (s : State) (pc n : Nat) : List Byte :=
  match s.myLaunch with
  | none => []
  | some l => ((l.code.getD []).drop (pc - l.codeBase)).take n

/-- Fetch the 12 bytes at pc through FCAP (R129, R130). The tile's fetch is not ordered with any store. -/
def State.fetch (s : State) : Fetched :=
  let q := s.st.fcap.v
  let pc := capCursor q
  let sp := capSpace q
  let bad (c : Cause) (d : Nat) : Fetched := .trap ⟨c, 0, d, pointer sp pc⟩
  if !s.st.fcap.tag then bad .captag 0x01
  else if pc < capBase q || capBase q + capLen q < pc + 12 then bad .capbound 0x01
  else
    match s.translate sp pc false false true, s.translate sp (pc + 11) false false true with
    | .ok (_, a), .ok (_, b) =>
      match physKey s.dev sp a, physKey s.dev sp b with
      | some k, some j => .bytes (if s.ownCode sp pc then s.codeAt pc 12
          else if j = k + 11 then s.mem.reads k 12
          else (List.range 12).map (fun n => if (pc + n) / 256 = pc / 256 then s.mem.read (k + n) else s.mem.read (j - (11 - n))))
      | _, _ => bad .xlate 0x05
    | .error (some d), _ => bad .xlate d
    | .error none, _ => .walk { space := sp, va := pc, exec := true }
    | _, .error (some d) => bad .xlate d
    | _, .error none => .walk { space := sp, va := pc + 11, exec := true }

/-- Go on from an answer. -/
def andThen (o : Out) (f : State → State) : Out :=
  match o with
  | .next s => .next (f s)
  | .fault x => .fault x
  | .refused x => .refused x

/-- The instruction at pc is fetched, decoded and executed (R45). -/
def State.runInstr (s : State) : Out :=
  match s.fetch with
  | .trap t => .next (s.trap t)
  | .walk r => .next ((s.wantWalk r).modSt (fun t => t.park .walk s.now s.cyc))
  | .bytes l =>
    match decodeBytes l with
    | .error e => .next (s.trap ⟨.illegal, 0, e.detail, 0⟩)
    | .ok (i, _) => exec i s

/-! ### The turn of a strand -/

/-- A trap that waits for the strand's next instruction boundary: a lost message, taken at the fence or HALT that waits for
it (R295), a pool's at its PTAKE.X (R390), a dead join (R353), the watchdog's (R352). DEDUCED (log 22).
DEDUCED (log 40). -/
def State.boundaryTrap (s : State) : Option (Trap × State) :=
  let t := s.st
  match (if t.between || t.fencing then t.ackLost else []) with
  | x :: r => some (x, s.modSt (fun t => { t with ackLost := r }))
  | [] =>
    match (if t.between then t.poolFault else none) with
    | some x => some (x, s.modSt (fun t => { t.movePc (-12) with poolFault := none }))
    | none =>
      match t.cycleDue with
      | some x => some (x.1, s.modSt (fun t => { t with cycleDue := none, whNext := x.2 }))
      | none =>
      if t.joinDead then some (⟨.watchdog, 0, 0x02, 0⟩, s.modSt (fun t => { t with joinDead := false }))
      else if t.leaves && t.wdlim != 0 && t.wdlim.toNat ≤ t.count s.now s.cyc then some (⟨.watchdog, 0, 0x01, 0⟩, s.abandon s.me)
      else none

/-- The address of an enabled breakpoint of a debugged launch that matches the pc (R413, R416). -/
def State.breakHit (s : State) : Option Nat :=
  if ((s.myLaunch.map (·.debugged)).getD false) && !s.st.passBreak
      && s.g.dbgbp.toList.any (fun b => b.getLsbD 63 && (b.extractLsb' 2 42) == BitVec.ofNat 42 (s.st.pc / 4)) then some s.st.pc
  else none

/-- The words on their way to the issuing group that are due are in its FIFOs (R52, R195), but for those that a full pool of the mesh
holds back, with what follows them at their port (R279, R287). -/
def State.arriveLinks (s : State) : State :=
  let mine (w : LinkFly) : Bool := w.dst == s.g.gid && w.due ≤ s.now
  let s := (s.linkWords.filter mine).foldl (fun (s : State) w => s.vouch w) s
  ((s.linkWords.filter mine).foldl (fun (a : State × List Port) w =>
    if a.2.contains w.port then a
    else
      let x := a.1.goWord w
      if x.1 then (x.2.landWord w, a.2) else (x.2, w.port :: a.2)) (s, [])).1

/-- The watchdog count of a strand advances: it neither stands at a yield point nor is in a committed park (R352). -/
def Strand.counts (t : Strand) : Bool :=
  !t.held && !t.stopped && (match t.run with | .ready => true | .parked y => !y.yields && !y.committed | _ => false)

/-- A strand takes its place in the ring where it is ready (R23), and its watchdog count runs where it advances (R352). -/
def Strand.takePlace (t : Strand) (now : Nat) : Strand :=
  { t with
    ringFrom := if t.run == .ready && !t.held && !t.stopped then some (t.ringFrom.getD now) else none
    wdFrom := if t.counts then some (t.wdFrom.getD now) else t.wdFrom }

/-- Insert a long result by the time at which it is due, behind those of the same time. -/
def insertLate (l : Late) : List Late → List Late
  | [] => [l]
  | x :: r => if l.due < x.due then l :: x :: r else x :: insertLate l r

/-- The long results of the issuing group that are due have arrived, in the order of their times, each at its time; a strand
that its commit wakes takes its place in the ring then (R23, R50, R116, R144, R146). -/
def State.arriveDue (s : State) : State :=
  let due := (s.g.late.filter (fun l => l.due ≤ s.now)).foldl (fun (a : List Late) l => insertLate l a) []
  let s1 := due.foldl (fun (s : State) l =>
    let s := { s with now := l.due }
    if l.waits then
      match execLongCommit ⟨s.g.gid, l.slot⟩ s with
      | .next t => t.modG (fun g => g.modSt l.slot (fun x => x.takePlace l.due))
      | _ => s
    else ({ s with g := { s.g with late := s.g.late.erase l } }).arrive s.g.gid l) s
  { s1 with now := s.now }

/-- The LOCAL loads of a strand that met no bank conflict are back 4 c after their issue (R198): what its channels to its group's
banks hold is performed where no other agent's messages wait at the bank, and their values return. -/
def State.localBack (s : State) (k : Fin 8) : State :=
  let w : StrandId := ⟨s.g.gid, k⟩
  let own (h : Home) : Bool := match h with | .bank i _ => i == w.g | _ => false
  let me := s.agentOf w
  let free (c : ChanId) : Bool := c.src == me && own c.home && !s.chans.any (fun d => d.1.home == c.home && d.1.src != c.src)
  let fuel := s.chanFuel
  let s1 := ((s.chans.map (·.1)).filter free).foldl (fun (s : State) c => State.drainTo fuel c none s)
    { s with now := min s.now (s.g.st[k]).nextIssue }
  let back := (s1.rets.filter (fun r => r.who.g == w.g && r.owner == s.serialOf w && own r.home)).map (·.id)
  let s2 := back.foldl (fun (s : State) id => match s.rets.findIdx? (fun x => x.id == id) with
    | some n => s.returnOne n
    | none => s) s1
  { s2 with now := s.now }

/-- A watchdog count, and message timers, from a time on at which the tile's cycle changes from `old` to `new` ticks; the part of a
cycle that has passed is carried (R352, R450). DEDUCED (log 22). -/
def Strand.reclock (t : Strand) (at_ old new : Nat) : Strand :=
  let timer (o : Outstanding) : Outstanding := match o.since with
    | none => o
    | some f => { o with counted := o.counted + (at_ - f) / old, since := some (at_ - (at_ - f) % old * new / old) }
  let t := { t with outstanding := t.outstanding.map timer }
  match t.wdFrom with
  | none => t
  | some f => { t with wdcount := t.wdcount + (at_ - f) / old, wdFrom := some (at_ - (at_ - f) % old * new / old) }

/-- The groups take note of the clock steps of their tiles, so that every watchdog count advances by one in each cycle (R352),
and their strands of their places in the ring (R23); the bounds of the words on their way follow the slower of their tiles (R452).
DEDUCED (log 22). -/
def State.reclock (s : State) : State :=
  let place (g : Group) : Group :=
    if g.state == .resident && !g.dhalt then g.mapSt (fun t => t.takePlace s.now) else g.mapSt (fun t => { t with ringFrom := none })
  let note (g : Group) : Group :=
    let g := place g
    let new := s.cycOf g
    let old := g.clockNote.2
    let stop := ((g.place.map (fun p => (s.region (s.regionOf p.die)).throttleEnd)).getD 0)
    let at_ := if stop ≤ s.now && g.clockNote.1 < stop then stop else s.now
    if old = new then g
    else if old = 0 then { g with clockNote := (s.now, new) }
    else { g.mapSt (fun t => t.reclock at_ old new) with clockNote := (at_, new) }
  let slow (w : LinkFly) : LinkFly :=
    let c := max (s.cycAt w.src) (s.cycAt w.dst)
    if w.cyc = c then w else { w with due := s.now + (w.due - s.now) * c / w.cyc, cyc := c }
  { s.mapGroups note with linkWords := s.linkWords.map slow }

/-- What a turn finds: time has passed to its position, and what is due has taken effect; the tile's and the strand's next
positions are set (R23). -/
def State.reach (s : State) (k : Fin 8) : State :=
  let s := { s with slot := k }
  let t := max s.now (s.g.issueTime s.cyc k)
  let s := (((({ s with now := t }.exchangeBy t).reclock.watchMeshes).sampleBy s.g.gid.launch t).releaseBy s.g.gid t).skipBy s.g.die t
  let s := ((s.settleCsrs.localBack k).arriveDue).commitDue 16
  let s := ({ s with g := s.g.settle t }).arriveLinks
  let s := { s with g := { s.g with lastIssue := t + s.cyc, prevSlot := k.val, begun := true
                                    turnEnds := if s.g.passed k then t + 4 * s.cyc else s.g.turnEnds } }
  s.modSt (fun st => { st with nextIssue := t + 4 * s.cyc, wdFrom := some (st.wdFrom.getD t) })

/-- A stop request has reached its limit, and the strand stands before an instruction (R403). -/
def State.pastDeadline (s : State) : Bool :=
  match s.g.stop with
  | none => false
  | some r => r.by_ != some s.slot && r.since + stopTicks ≤ s.now && s.st.prog == .none && !s.st.consumed

/-- What follows an instruction: a breakpoint that it stood at is passed once it no longer stands there, a cancelled launch stops
the strand, a stop or a pair in HOLD does at a yield point, and messages enter what it has emptied (R291, R357, R403, R413,
R468). DEDUCED (log 40). -/
def State.afterInstr (s : State) : State :=
  let there (t : Strand) : Bool := t.awaitSig.isSome || (match t.run with | .parked _ => true | _ => false)
  let s := s.modSt (fun t => { t with passBreak := t.passBreak && there t })
  let s := if (s.myLaunch.map (·.cancelling)).getD false && !s.st.committed then s.modSt (fun t => { t with stopped := true }) else s
  (s.stopsHere).pump s.g.gid

/-- A turn at an instruction boundary: a trap that waits is taken, a stop or a breakpoint meets the strand, or its
instruction runs. -/
def State.boundary? (s : State) : Out :=
  match s.boundaryTrap with
  | some (x, s) => .next (s.trap x)
  | none =>
    if s.pastDeadline then .next (s.stopStrand s.me)
    else
      match s.breakHit with
      | some a =>
        .next (((s.modSt (fun t => { t with passBreak := true })).halt s.g.gid).modG (fun g => { g with hitBreak := some a }))
      | none => andThen s.runInstr State.afterInstr

/-- The turn of a strand of the group whose tile issues. -/
def State.turn (s : State) (k : Fin 8) : Out := (s.reach k).boundary?

/-- Every lower-numbered group of the launch on the die has issued its first instruction (R344). -/
def State.mayBegin (s : State) (g : Group) : Bool :=
  g.begun || !s.groups.any (fun h => h.gid.launch == g.gid.launch && h.homeDie == g.homeDie && h.gid.num < g.gid.num
    && !h.begun && h.state != .retired)

/-- The turn of a group's tile: the next strand of the ring that can issue; with none, nothing issues. -/
def State.issueGroup (s : State) (g : GroupId) : Out :=
  let s := s.focus g
  if s.g.gid != g then .next s
  else match (if s.mayBegin s.g then s.g.nextSlot s.cyc else none) with
    | none => .next { s with now := max s.now s.g.lastIssue + s.cyc }
    | some k => s.turn k

/-! ### Moves -/

/-- What follows every move: stops go as far as they can, the debugger's prompt returns, and what the tiles' clocks and the routers hold
is noted. -/
def State.afterMove (s : State) : State := s.finishStops.prompt.reclock.watchMeshes

/-- One move. A word of the program is no move of its own: it runs only from memory. DESIGN CHOICE (log 18). -/
def State.move (s : State) (a : MoveAct) : Out :=
  andThen (match a with
    | .issue g => s.issueGroup g
    | .event i => if (encode i).isSome then .next s else exec i (s.exchangeBy (s.now - 1)).settleAllCsrs) State.afterMove

/-- Two states that differ in more than the time and the counter of free values. -/
def State.differs (s t : State) : Bool := decide ({ t with now := s.now, fresh := s.fresh } ≠ s)

/-- An own move, made at a time, where it does anything. -/
def State.tried (s : State) (at_ : Nat) (o : Own) : Option State :=
  match o.run ({ s with now := max s.now at_ }.settleAllCsrs) with
  | .next t => if s.differs t then some t else none
  | _ => none

/-- The wake of a parked strand, where its instruction then does more than park again. -/
def State.triedWake (s : State) (at_ : Nat) (w : StrandId) : Option State :=
  match execStrandWake w { s with now := max s.now at_ }, s.strand? w with
  | .next t, some old =>
    let as (x : Option Strand) : Bool := match x with
      | some x => x.run == old.run && x.prog == old.prog && x.consumed == old.consumed && x.fcap == old.fcap
      | none => false
    match t.strand? w with
    | some x =>
      if x.run == old.run then none
      else if x.run != .ready then some t
      else match (t.focus w.g).turn w.slot with
        | .next u => if as (u.strand? w) then none else some t
        | _ => none
    | none => none
  | _, _ => none

/-- What the machine may do next. -/
inductive Choice where
  | own (o : Own)
  | wake (w : StrandId)
  | turn (g : GroupId)
  deriving DecidableEq, Repr

/-- The turns and wakes of a group's tile, with their times. -/
def State.tileMoves (s : State) (g : Group) : List (Nat × Choice) :=
  if g.state != .resident then []
  else
    g.strands.filterMap (fun x => match x.2.run with
        | .parked _ => if x.2.stopped || x.2.held || g.dhalt then none else some (max g.lastIssue x.2.nextIssue, .wake ⟨g.gid, x.1⟩)
        | _ => none)
      ++ (match (if s.mayBegin g then g.nextSlot (s.cycOf g) else none) with
          | some k => [(g.issueTime (s.cycOf g) k, .turn g.gid)]
          | none => [])

/-- Insert by time, behind those of the same time. -/
def insertMove (x : Nat × Choice) : List (Nat × Choice) → List (Nat × Choice)
  | [] => [x]
  | y :: r => if x.1 < y.1 then x :: y :: r else y :: insertMove x r

/-- The state after a choice, where it does anything. -/
def State.chosen (s : State) (x : Nat × Choice) : Option State :=
  match x.2 with
  | .own o => s.tried x.1 o
  | .wake w => s.triedWake x.1 w
  | .turn g => match s.issueGroup g with | .next t => some t | _ => none

/-- The move that the machine makes of itself: one that nothing delays, else the first in time; with none, time passes.
DESIGN CHOICE (log 2). -/
def State.autoMove (s : State) : Out :=
  match s.readyMoves.findSome? (s.tried s.now) with
  | some t => .next t.afterMove
  | none =>
    let all := s.timedMoves.map (fun x => (max s.now x.1, Choice.own x.2)) ++ (s.groups.flatMap s.tileMoves).map (fun x => (max s.now x.1, x.2))
    match (all.foldl (fun l x => insertMove x l) []).findSome? s.chosen with
    | some t => .next t.afterMove
    | none => .next { s with now := s.now + Config.cycleTicks }

/-! ### Placing an instruction for the next step -/

/-- Place 12 bytes at address 0 of the CTRL space page 0 and a ready strand before them: the group on a tile, FCAP over
the bytes, the tile's translation of the page, and the strand's turn in the agenda. DESIGN CHOICE (log 6). -/
def State.placeWord (s : State) (l : List Byte) : State :=
  let p := s.g.place.getD ⟨0, 0⟩
  let s := { s with
    g := { s.g with state := .resident, place := some p, dhalt := false, prevSlot := (s.slot.val + 7) % 8, turnEnds := 0, begun := true
                    stop := none, dbgbp := Vector.replicate 4 0 }
    mem := s.mem.writes ctrlBase l
    dies := if (s.die? p.die).isSome then s.dies else s.dies ++ [({ v := p.die, phys := p.die } : Die)]
    agenda := [⟨0, .issue s.g.gid⟩] }
  let e : TlbEntry := { tenant := s.myTenant, space := 5, page := 0, level := 3, pa := 0, chk := false, pol := 0
                        exec := true, wr := false, rd := true }
  let s := s.modDie p.die (fun d => { d with tlb := (p.tile, e) :: d.tlb })
  s.modSt (fun t => { t with
    run := .ready, prog := .none, consumed := false, again := none, kept := [], took := [], spared := none, stopped := false, held := false, joinDead := false, nextIssue := 0, ringFrom := none
    ackLost := [], poolFault := none, wdcount := 0, wdFrom := none, walkWant := none, walkFault := none
    fcap := ⟨mkCap 0b00000101 5 0 65536 0 0, true⟩ })

end Sys2Proof.Machine
end

