-- ==== Sys2Proof/Machine/Step.lean ====
section
/-! DEFINITION. One step of the machine, and how an instruction is placed where the next step fetches it. -/

namespace Sys2Proof.Machine

/-- One step: the first move of the agenda after its delay, or the machine's own next move. DESIGN CHOICE (log 2).
DESIGN CHOICE (log 6). DESIGN CHOICE (log 50). -/
def step (s : State) : Host.Outcome State Fault Refusal :=
  match s.agenda with
  | m :: r => ({ s with agenda := r, now := s.now + m.dt }).move m.act
  | [] => s.autoMove

/-- The state with an instruction's bits where the next step fetches (a code page, a strand that is ready to
fetch it, the tile's translation of the page, and its turn). DESIGN CHOICE (log 6). -/
def State.withFetchWord (s : State) (_nbits w : Nat) : State := s.placeWord (bytesOfNat 12 w)

end Sys2Proof.Machine
end

