-- ==== Sys2Proof/Machine/Needs.lean ====
section
/-! DEFINITION. What each instruction word needs before it executes: its guard, its level, what makes it ILLEGAL by state,
the sources that it reads in order, its destinations (02 R36, R37, R43 to R46, and the operand forms of each class). -/

namespace Sys2Proof.Machine

/-- Head, level and state checks, sources in the order in which they are read, destinations. -/
structure Needs where
  h : Head
  o : Issue := {}
  srcs : List Opnd := []
  dsts : List Reg := []

/-- The needs of a word of the program; a step that is no word has none. -/
def needs : Instr → Option Needs
  | .nop h | .br h _ | .pand h _ _ _ | .por h _ _ _ | .pxor h _ _ _ | .pandn h _ _ _ | .pset h _ _ | .fence h _ _
  | .tmclr h | .strmend h _ | .ofence h | .pause h | .emit h _ _ | .present h _ _ | .prev h _ _ | .rbar h
  | .await h _ | .join h | .yield h | .halt h _ | .trigger h | .gbar h | .brk h _ => some { h := h }
  | .bri h a | .ret h a | .psetm h a _ | .feset h _ a _ | .linewb h a _ | .lineinv h a _
  | .txbinit h a _ | .txbexp h a _ | .sendi h _ a _ | .psync h a | .trap h _ a => some { h := h, srcs := [pop1 a] }
  | .pref h a _ => some { h := h, srcs := [{ pop1 a with lax := true }] }
  | .call h _ => some { h := h, dsts := [.ra] }
  | .calli h a => some { h := h, srcs := [pop1 a], dsts := [.ra] }
  | .loop h d _ => some { h := h, o := { ill := illGroup [d] }, srcs := [dop d], dsts := [d] }
  | .pget h d | .movi h _ d _ | .fcsrget h d | .fflagclr h d _ | .rnd h d | .mstat h d | .tmget h d | .strmq h d _
  | .inpop h d | .inpeek h d | .rtlat h d | .linkclr h d _ | .oslot h d | .instant h d | .csrget h d _ =>
    some { h := h, dsts := [d] }
  | .add h _ d a b | .sub h _ d a b | .adds h _ d a b | .subs h _ d a b | .mul h _ d a b | .mulh h _ d a b
  | .div h _ d a b | .rem h _ d a b | .min h _ d a b | .max h _ d a b | .and h _ d a b | .or h _ d a b
  | .xor h _ d a b | .andn h _ d a b | .shl h _ d a b | .shr h _ d a b | .rot h _ d a b | .sel h d a b _
  | .shuf h _ d a b | .fmin h _ d a b | .fmax h _ d a b => some { h := h, srcs := [sop a, sop b], dsts := [d] }
  | .addi h _ d a _ | .muli h _ d a _ | .neg h _ d a | .abs h _ d a | .andi h _ d a _ | .ori h _ d a _
  | .xori h _ d a _ | .shli h _ d a _ | .shri h _ d a _ | .roti h _ d a _ | .clz h _ d a | .popc h _ d a
  | .brev h _ d a | .bfx h _ d a _ _ | .mov h _ d a | .laneget h _ d a _ | .bcast h _ d a _ | .fabs h _ d a
  | .fneg h _ d a | .fclass h _ d a | .fcsrset h d a _ | .canemit h d a =>
    some { h := h, srcs := [sop a], dsts := [d] }
  | .bfi h _ d a _ _ | .laneset h _ d a _ | .blkfit h _ _ d a =>
    some { h := h, o := { ill := illStream d }, srcs := [sop a, dop d], dsts := [d] }
  | .cmp h _ _ _ _ a b | .fcmp h _ _ _ _ a b => some { h := h, srcs := [sop a, sop b] }
  | .cmpi h _ _ _ _ a _ | .fenceh h _ _ a | .disclaim h a => some { h := h, srcs := [sop a] }
  | .movhi h d _ => some { h := h, o := { ill := illStream d }, srcs := [dop d], dsts := [d] }
  | .capsub h d a b | .capadd h d a b | .capset h d a b | .ldx h _ _ d a b | .txbwait h d a b =>
    some { h := h, srcs := [pop1 a, pop1 b], dsts := [d] }
  | .caplen h d a | .capperm h d a _ | .capaddi h d a _ | .capget h d a _ _ | .capclr h d a | .ld h _ _ d a _
  | .ldc h _ d a _ | .lde h d a _ | .ldf h d a _ | .txbarr h d a | .launch h d a | .lwait h d a | .pbound h d a
  | .psize h d a | .csrset h d a _ | .notify h d a _ | .mboxWrite h d a | .canrldWrite h d a | .watchstWrite h d a
  | .fcsrWrite h d a | .cpauseResume h d a | .cpauseAbandon h d a | .gstatDiscClear h d a =>
    some { h := h, srcs := [pop1 a], dsts := [d] }
  | .captst h _ a b _ | .txbtest h _ a b => some { h := h, srcs := [pop1 a, pop1 b] }
  | .cvt h rm _ _ src dst d a =>
    some { h := h, o := { ill := orIll (illMode rm) (fun s => if cvtReads src dst then illStream d s else none) }, srcs := if cvtReads src dst then [sop a, dop d] else [sop a], dsts := [d] }
  | .ftoi h _ rm _ _ d a | .itof h _ rm _ d a | .fsqrt h _ rm d a | .frint h _ rm _ d a | .freduce h _ rm d a
  | .fexp h _ rm d a | .fexp2 h _ rm d a | .fexpm1 h _ rm d a | .flog h _ rm d a | .flog2 h _ rm d a
  | .flog1p h _ rm d a | .ferf h _ rm d a | .ferfc h _ rm d a | .frcp h _ rm d a | .frsqrt h _ rm d a =>
    some { h := h, o := { ill := illMode rm }, srcs := [sop a], dsts := [d] }
  | .blkset h rm _ d a =>
    some { h := h, o := { ill := orIll (illMode rm) (illStream d) }, srcs := [sop a, dop d], dsts := [d] }
  | .blkput h _ rm _ q a _ =>
    some { h := h, o := { ill := orIll (illMode rm) (illGroup (quadRegs q)) }, srcs := sop a :: members (quadRegs q) false, dsts := quadRegs q }
  | .blkget h _ rm d q trapEmpty _ =>
    some { h := h, o := { ill := orIll (illMode rm) (illGroup (quadRegs q)) }, srcs := members (quadRegs q) trapEmpty, dsts := [d] }
  | .fadd h _ rm d a b | .fsub h _ rm d a b | .fmul h _ rm d a b | .fdiv h _ rm d a b | .fscale h _ rm d a b =>
    some { h := h, o := { ill := illMode rm }, srcs := [sop a, sop b], dsts := [d] }
  | .ffma h _ rm d a b | .ffms h _ rm d a b | .fnfma h _ rm d a b =>
    some { h := h, o := { ill := orIll (illMode rm) (illStream d) }, srcs := [sop a, sop b, dop d], dsts := [d] }
  | .rndstate h d | .rexcuseOn h d | .rexcuseOff h d | .ckpt h d =>
    some { h := h, o := { konly := true }, dsts := [d] }
  | .rndstateW h d a =>
    some { h := h, o := { konly := true }, srcs := [sop a], dsts := [d] }
  | .pfree h d a | .ctxsave h d a | .ctxload h d a =>
    some { h := h, o := { konly := true }, srcs := [pop1 a], dsts := [d] }
  | .mzero h ad => some { h := h, o := { busy := fun s => s.g.accBusy ad } }
  | .mdot h _ _ _ a b =>
    some { h := h, o := { ill := orIll (mxIll a) (mxIll b), busy := fun s => !s.mxFree }, srcs := mxOpnds a ++ mxOpnds b }
  | .mrd h _ d as _ =>
    some { h := h, o := { ill := illGroup (pairRegs d), busy := fun s => s.g.accBusy as }, dsts := pairRegs d }
  | .mwr h _ ad a trapEmpty _ =>
    some { h := h, o := { ill := illGroup (pairRegs a), busy := fun s => s.g.accBusy ad }, srcs := members (pairRegs a) trapEmpty }
  | .madd h rm _ as => some { h := h, o := { ill := illMode rm, busy := fun s => s.g.accBusy as } }
  | .mscl h rm _ a => some { h := h, o := { ill := illMode rm }, srcs := [sop a] }
  | .st h _ _ a b _ | .stc h _ a b _ | .stf h a b _ | .send h _ a b | .pput h a b =>
    some { h := h, srcs := [pop1 a, sop b] }
  | .stx h _ _ d a b | .copy h _ d a b | .osend h _ d a b =>
    some { h := h, o := { ill := illStream d }, srcs := [pop1 a, pop1 b, dop d] }
  | .amo h _ _ d a b _ => some { h := h, srcs := [pop1 a, sop b], dsts := [d] }
  | .cas h _ d a b _ => some { h := h, o := { ill := illStream d }, srcs := [pop1 a, sop b, dop d], dsts := [d] }
  | .strm h _ d a b => some { h := h, o := { ill := illGroup [d] }, srcs := [pop1 a, pop1 b], dsts := [d] }
  | .copyc h rm _ _ _ _ d a b =>
    some { h := h, o := { ill := orIll (illMode rm) (illStream d) }, srcs := [pop1 a, pop1 b, dop d] }
  | .gather h _ _ d a b | .scatter h _ _ d a b =>
    some { h := h, o := { ill := illGroup (pairRegs d) }, srcs := pop1 a :: pop1 b :: members (pairRegs d) false }
  | .rtload h a | .tlbinvPage h a => some { h := h, o := { konly := true }, srcs := [pop1 a] }
  | .watch h _ _ _ => some { h := h, o := { ill := fun s => if 4 ≤ s.st.wdepth then some 0x0D else none } }
  | .unwatch h => some { h := h, o := { ill := fun s => if s.st.wdepth = 0 then some 0x0E else none } }
  | .fork h _ a b _ =>
    some { h := h, o := { ill := fun s => if 64 ≤ s.st.nchild then some 0x10 else none }, srcs := [pop1 a, pop1 b] }
  | .who h d field =>
    some { h := h, o := { ill := fun _ => if 8 < field.toNat then some 0x08 else none }, dsts := [d] }
  | .pinit h d a b => some { h := h, o := { konly := true }, srcs := [pop1 a, pop1 b], dsts := [d] }
  | .ptakeWait h _ d a | .ptakeTry h _ d a | .ptakeX h _ d a =>
    some { h := h, o := { ill := illGroup (pairRegs d) }, srcs := [pop1 a], dsts := pairRegs d }
  | .eret h _ | .tlbinvAll h => some { h := h, o := { konly := true } }
  | .strandWake .. | .resultArrival .. | .longCommit .. | .perform .. | .returnValue .. | .echo .. | .evict ..
  | .syncResend .. | .tlbWalkDone .. | .linkWordArrival .. | .mdotCommit .. | .accumulatorCommit ..
  | .copyUnitEnter .. | .streamDelivery .. | .copyUnitLanding .. | .messageArrival .. | .messageAck ..
  | .msglost .. | .headerResend .. | .subnetworkOn .. | .subnetworkOff .. | .omcWindow .. | .relayAck ..
  | .waveSample .. | .waveRelease .. | .exactTakeService .. | .groupSaveOut .. | .launchQueue ..
  | .priorityAgeing .. | .groupPlacement .. | .taskStart .. | .stealRequest .. | .stealReply ..
  | .joinStoreReturn .. | .joinDeadlock .. | .watchdog .. | .groupRetire .. | .dependentLaunchRelease ..
  | .launchCancel .. | .rotationInterval .. | .swap .. | .done .. | .skip .. | .poolExchangeRound ..
  | .poolSummaryArrival .. | .forwardedTakeArrival .. | .takeReplyArrival .. | .leaseAck .. | .stopRequest ..
  | .stopDeadline .. | .groupResume .. | .errorDetected .. | .debugHalt .. | .freeze .. | .freezeRelease ..
  | .recoveryPoint .. | .drainPoint .. | .rollback .. | .regionDrain .. | .governorStep .. | .powerCheck
  | .floorLower | .droopAlarm .. | .throttleEnd .. | .powerGood | .stage1 | .regionJoin .. | .stage3
  | .spdmMeasurement .. | .hostRead .. | .hostWrite .. | .dmaAccess .. | .notifyTake .. | .ndbgLoad .. | .break_ ..
  | .istop .. | .run .. | .cont | .regs .. | .csr .. | .tree | .group .. | .mem .. | .memf .. | .ptrace
  | .ptracePrint .. | .rounds .. | .dmem .. | .wavetrace | .streams .. | .streamsPrint | .regions | .rbarPrint ..
  | .where_ | .acc .. | .accmatch .. | .ndas .. | .ndld .. | .managementMessage .. | .tenantRectangle ..
  | .hotPlug .. | .aerError .. | .descriptorCopied .. | .portCopyDone .. => none

/-- Nothing holds the instruction back: its level suffices, its guard is true, it has not begun, nothing makes it ILLEGAL,
every source is ready, and every destination and forward target has room (R36, R37, R45, R46). -/
structure Needs.Met (n : Needs) (s : State) : Prop where
  level : n.o.konly = true → s.st.kernel = true
  guard : s.st.guard n.h = true
  begins : s.st.consumed = false
  legal : n.o.ill s = none
  srcs : ∀ x ∈ s.readies [] n.srcs, x.2 = .yes
  dsts : ∀ r ∈ n.dsts, s.dstBusy r n.o.dwords = false ∧ s.dstBad r = none
  fwd : s.fwdBusy n.srcs n.dsts n.o.dwords = false ∧ s.fwdBad n.srcs = []
  unit : n.o.busy s = false

/-- The values that the instruction reads. -/
def Needs.values (n : Needs) (s : State) : List RegCell := (s.pops n.srcs).1
/-- The state in which it executes: what it has popped is gone (R45, R52, R53, R263). -/
def Needs.after (n : Needs) (s : State) : State := (s.pops n.srcs).2

/-- An instruction that is a word of the program and that nothing holds back. -/
def ReadyFor (i : Instr) (n : Needs) (s : State) : Prop := needs i = some n ∧ n.Met s

end Sys2Proof.Machine
end

