-- ==== Sys2Proof/Safety.lean ====
section
/-! DEFINITION. What counts as a safe run: a run of the machine that stops with no fault and no refusal. The manual stops
the machine nowhere, so every run of every length is safe. -/

namespace Sys2Proof

/-- A run of n steps from a state that ends in a state. -/
def SafeRun (n : Nat) (s : Machine.State) : Prop := ∃ t, core.run n s = .next t

/-- Memory in its canonical form, and every group's scratchpad with it. -/
def MemoryOk (s : Machine.State) : Prop :=
  s.mem.wf = true ∧ s.g.spad.wf = true ∧ ∀ g ∈ s.others, g.spad.wf = true

end Sys2Proof
end

