-- ==== Sys2Proof/Certificates/Slice0/Obligations.lean ====
section
/-! DEFINITION. The statements: what the manual's rules say of the instructions, the moves and the machine. -/

namespace Sys2Proof.Claims

open Machine

/-! ### The words of the statements -/

/-- Source k of an instruction as it reads it, 128 bits. -/
def src (n : Needs) (s : State) (k : Nat) : Quad := ((n.values s).getD k {}).v
/-- Source k with its tag. -/
def cell (n : Needs) (s : State) (k : Nat) : RegCell := (n.values s).getD k {}
/-- The instruction has executed and the strand stands 12 bytes on. -/
def done (s : State) : State := s.modSt Strand.step12
/-- The strand stands where a branch has set its pc. -/
def jumped (s : State) : State := s.modSt Strand.stepGo
/-- An instruction that writes one register has executed: what it popped is gone, D is written, pc is 12 on. -/
def wrote (n : Needs) (s : State) (d : Reg) (v : Quad) (tag : Bool := false) : State :=
  done ((n.after s).writeReg d v tag)
/-- An instruction that writes one predicate has executed. -/
def wroteP (n : Needs) (s : State) (p : Pred) (v : Bool) : State := done ((n.after s).writePred p v)

/-! ### Integer lanes (R119 to R128) -/

/-- A lane read by the type's sign (R39). -/
def laneInt (t : Ty) (x : BitVec t.width) : Int := if isI t then x.toInt else x.toNat
/-- The least and the greatest value of a type. -/
def tyMin (t : Ty) : Int := if isI t then -(2 ^ (t.width - 1) : Nat) else 0
def tyMax (t : Ty) : Int := if isI t then (2 ^ (t.width - 1) : Nat) - 1 else (2 ^ t.width : Nat) - 1
/-- Clamping a number to a type's range. -/
def clamped (t : Ty) (x : Int) : BitVec t.width :=
  BitVec.ofInt t.width (if x < tyMin t then tyMin t else if tyMax t < x then tyMax t else x)
/-- A shift to the right that fills with zeros or with the sign (R123). -/
def shiftR (t : Ty) (x : BitVec t.width) (n : Nat) : BitVec t.width := if isI t then x.sshiftRight n else x >>> n

/-- What an instruction makes of each lane: type, destination, and the relation between the sources as read, the lane's
number and the lane of the result. -/
structure LaneFn where
  t : Ty
  d : Reg
  is : (Nat → Quad) → Nat → BitVec t.width → Prop

/-- A lane of the result is a function of the lanes of A and B. -/
def onAB (t : Ty) (d : Reg) (f : BitVec t.width → BitVec t.width → BitVec t.width) : LaneFn :=
  ⟨t, d, fun q k r => r = f (laneAt t.width (q 0) k) (laneAt t.width (q 1) k)⟩
/-- A lane of the result is a function of the lane of A. -/
def onA (t : Ty) (d : Reg) (f : BitVec t.width → BitVec t.width) : LaneFn :=
  ⟨t, d, fun q k r => r = f (laneAt t.width (q 0) k)⟩

/-- The arithmetic of R121: sums, differences and products modulo 2^w, clamped sums, the upper half, minimum, maximum. -/
def arithLanes : Instr → Option LaneFn
  | .add _ t d _ _ => some (onAB t d (fun a b => a + b))
  | .addi _ t d _ i => some (onA t d (fun a => a + (i.signExtend 64).setWidth _))
  | .sub _ t d _ _ => some (onAB t d (fun a b => a - b))
  | .adds _ t d _ _ => some (onAB t d (fun a b => clamped t (laneInt t a + laneInt t b)))
  | .subs _ t d _ _ => some (onAB t d (fun a b => clamped t (laneInt t a - laneInt t b)))
  | .mul _ t d _ _ => some (onAB t d (fun a b => a * b))
  | .muli _ t d _ i => some (onA t d (fun a => a * (i.signExtend 64).setWidth _))
  | .mulh _ t d _ _ => some (onAB t d (fun a b => BitVec.ofInt _ (laneInt t a * laneInt t b / (2 ^ t.width : Nat))))
  | .neg _ t d _ => some (onA t d (fun a => -a))
  | .abs _ t d _ => some (onA t d (fun a => if isI t && a.msb then -a else a))
  | .min _ t d _ _ => some (onAB t d (fun a b => if laneInt t a ≤ laneInt t b then a else b))
  | .max _ t d _ _ => some (onAB t d (fun a b => if laneInt t a ≤ laneInt t b then b else a))
  | _ => none

/-- The bit instructions of R121, R123 and R124: logic, shifts, rotates, counts, and fields. -/
def bitLanes : Instr → Option LaneFn
  | .and _ t d _ _ => some (onAB t d (fun a b => a &&& b))
  | .andi _ t d _ i => some (onA t d (fun a => a &&& (i.signExtend 64).setWidth _))
  | .or _ t d _ _ => some (onAB t d (fun a b => a ||| b))
  | .ori _ t d _ i => some (onA t d (fun a => a ||| (i.signExtend 64).setWidth _))
  | .xor _ t d _ _ => some (onAB t d (fun a b => a ^^^ b))
  | .xori _ t d _ i => some (onA t d (fun a => a ^^^ (i.signExtend 64).setWidth _))
  | .andn _ t d _ _ => some (onAB t d (fun a b => a &&& ~~~b))
  | .shl _ t d _ _ => some (onAB t d (fun a b => a <<< b.toNat))
  | .shli _ t d _ n => some (onA t d (fun a => a <<< n.toNat))
  | .shr _ t d _ _ => some (onAB t d (fun a b => shiftR t a b.toNat))
  | .shri _ t d _ n => some (onA t d (fun a => shiftR t a n.toNat))
  | .rot _ t d _ _ => some (onAB t d (fun a b => a.rotateLeft b.toNat))
  | .roti _ t d _ n => some (onA t d (fun a => a.rotateLeft n.toNat))
  | .clz _ t d _ => some ⟨t, d, fun q k r =>
      r.toNat ≤ t.width
        ∧ (∀ j, t.width - r.toNat ≤ j → (laneAt t.width (q 0) k).getLsbD j = false)
        ∧ (r.toNat < t.width → (laneAt t.width (q 0) k).getLsbD (t.width - 1 - r.toNat) = true)⟩
  | .popc _ t d _ => some ⟨t, d, fun q k r =>
      r.toNat = ((List.range t.width).filter (fun j => (laneAt t.width (q 0) k).getLsbD j)).length⟩
  | .brev _ t d _ => some ⟨t, d, fun q k r =>
      ∀ j, j < t.width → r.getLsbD j = (laneAt t.width (q 0) k).getLsbD (t.width - 1 - j)⟩
  | .bfx _ t d _ pos len => some ⟨t, d, fun q k r =>
      let n := min len.toNat (t.width - pos.toNat)
      ∀ j, j < t.width → r.getLsbD j = if j < n then (laneAt t.width (q 0) k).getLsbD (pos.toNat + j)
        else isI t && (laneAt t.width (q 0) k).getLsbD (pos.toNat + n - 1)⟩
  | .bfi _ t d _ pos len => some ⟨t, d, fun q k r =>
      let n := min len.toNat (t.width - pos.toNat)
      ∀ j, j < t.width → r.getLsbD j = if pos.toNat ≤ j ∧ j < pos.toNat + n
        then (laneAt t.width (q 0) k).getLsbD (j - pos.toNat) else (laneAt t.width (q 1) k).getLsbD j⟩
  | _ => none

/-- The instructions that move lanes (R127, R128). -/
def moveLanes : Instr → Option LaneFn
  | .movi _ t d i => some ⟨t, d, fun _ _ r => r = (i.signExtend 64).setWidth _⟩
  | .movhi _ d i => some ⟨.b32, d, fun q k r => r = if k % 2 = 1 then i else laneAt 32 (q 0) k⟩
  | .shuf _ t d _ _ => some ⟨t, d, fun q k r =>
      r = if (laneAt t.width (q 1) k).msb then 0 else laneAt t.width (q 0) ((laneAt t.width (q 1) k).toNat % (128 / t.width))⟩
  | .laneset _ t d _ n => some ⟨t, d, fun q k r => r = if k = n.toNat then laneAt t.width (q 0) 0 else laneAt t.width (q 1) k⟩
  | .bcast _ t d _ n => some ⟨t, d, fun q _ r => r = laneAt t.width (q 0) n.toNat⟩
  | _ => none

end Sys2Proof.Claims

open Sys2Proof Sys2Proof.Machine Sys2Proof.Claims

/-- R121: an arithmetic instruction that nothing holds back writes D, tag clear, whose every lane is the rule's. -/
def Sys2Proof.Claims.ArithmeticWritesLanes : Prop :=
  ∀ (i : Instr) (n : Needs) (f : LaneFn) (s : State), arithLanes i = some f → ReadyFor i n s →
    ∃ v : Quad, exec i s = .next (wrote n s f.d v) ∧
      ∀ k, k < 128 / f.t.width → f.is (src n s) k (laneAt f.t.width v k)

/-- R121, R123, R124: a bit instruction of the manual that nothing holds back writes D, tag clear, whose every lane is
the rule's. -/
def Sys2Proof.Claims.BitInstructionWritesLanes : Prop :=
  ∀ (i : Instr) (n : Needs) (f : LaneFn) (s : State), bitLanes i = some f → i.wf = true → ReadyFor i n s →
    ∃ v : Quad, exec i s = .next (wrote n s f.d v) ∧
      ∀ k, k < 128 / f.t.width → f.is (src n s) k (laneAt f.t.width v k)

/-- R127, R128: MOVI, MOVHI, SHUF, LANESET and BCAST that nothing holds back write D, tag clear, whose every lane is the
rule's. -/
def Sys2Proof.Claims.LaneMoveWritesLanes : Prop :=
  ∀ (i : Instr) (n : Needs) (f : LaneFn) (s : State), moveLanes i = some f → i.wf = true → ReadyFor i n s →
    ∃ v : Quad, exec i s = .next (wrote n s f.d v) ∧
      ∀ k, k < 128 / f.t.width → f.is (src n s) k (laneAt f.t.width v k)

namespace Sys2Proof.Claims

/-! ### Whole registers, division, comparisons -/

/-- MOV and SEL move a whole register, LANEGET extends one lane (R126 to R128): destination, and value with tag. -/
def wholeMoves : Instr → Option (Reg × ((Nat → RegCell) → Strand → Quad × Bool))
  | .mov _ t d _ => some (d, fun x _ => ((x 0).v, decide (t = .w7) && (x 0).tag))
  | .sel _ d _ _ p => some (d, fun x st => (if st.pred p then (x 0).v else (x 1).v, false))
  | .laneget _ t d _ k => some (d, fun x _ => (BitVec.ofInt 128 (laneInt t (laneAt t.width (x 0).v k.toNat)), false))
  | _ => none

/-- DIV and REM (R122): type, destination, and the relation between the lanes of A and B and the lane of the result. The
quotient is cut off toward zero; a divisor of zero gives all ones, and the dividend as the remainder. -/
def divisions : Instr → Option LaneFn
  | .div _ t d _ _ => some ⟨t, d, fun q k r =>
      let a := laneAt t.width (q 0) k
      let b := laneAt t.width (q 1) k
      r = if b = 0 then BitVec.allOnes _ else BitVec.ofInt _ ((laneInt t a).tdiv (laneInt t b))⟩
  | .rem _ t d _ _ => some ⟨t, d, fun q k r =>
      let a := laneAt t.width (q 0) k
      let b := laneAt t.width (q 1) k
      r = if b = 0 then a else BitVec.ofInt _ (laneInt t a - laneInt t b * (laneInt t a).tdiv (laneInt t b))⟩
  | _ => none
/-- The latest arrival in cycles (R115). -/
def divLate : Ty → Nat
  | .b8 | .i8 | .b16 | .i16 => 8
  | .b32 | .i32 => 12
  | .b64 | .w7 => 20

/-- The register is the destination of a stream that goes out. -/
def isOutStream (s : State) : Reg → Prop
  | .c n => (s.cell (.c n)).stream = true ∧ ∃ d, s.stream? n = some d ∧ d.output = true
  | _ => False
/-- A long instruction has issued (R50): its result is on its way, D is empty and outstanding, pc is 12 on. -/
def underWay (s : State) (l : Late) (d : Reg) : State :=
  done ((s.modG (fun g => { g with late := g.late ++ [l] })).markOut d)

/-- A condition of CMP on two lanes (R125): signed, or unsigned for BL, BE, AB and AE. -/
def condHolds {w : Nat} : ICond → BitVec w → BitVec w → Prop
  | .eq, a, b => a = b
  | .ne, a, b => a ≠ b
  | .lt, a, b => a.toInt < b.toInt
  | .le, a, b => a.toInt ≤ b.toInt
  | .gt, a, b => b.toInt < a.toInt
  | .ge, a, b => b.toInt ≤ a.toInt
  | .bl, a, b => a.toNat < b.toNat
  | .be, a, b => a.toNat ≤ b.toNat
  | .ab, a, b => b.toNat < a.toNat
  | .ae, a, b => b.toNat ≤ a.toNat
/-- How the conditions of n lanes combine. -/
def combines (c : Comb) (n : Nat) (f : Nat → Prop) : Prop :=
  match c with
  | .lane0 => f 0
  | .all => ∀ k, k < n → f k
  | .any => ∃ k, k < n ∧ f k
/-- CMP and CMPI: predicate, and when it becomes 1. -/
def compares : Instr → Option (Pred × ((Nat → Quad) → Prop))
  | .cmp _ t cc c p _ _ => some (p, fun q => combines c (128 / t.width)
      (fun k => condHolds cc (laneAt t.width (q 0) k) (laneAt t.width (q 1) k)))
  | .cmpi _ t cc c p _ i => some (p, fun q => combines c (128 / t.width)
      (fun k => condHolds cc (laneAt t.width (q 0) k) ((i.signExtend 64).setWidth _)))
  | _ => none

/-! ### Control and predicates -/

/-- A register is a capability to which the strand may go (R132). -/
def goodTarget (x : RegCell) : Prop :=
  x.tag = true ∧ capEX x.v = true ∧ 2 ≤ capSpace x.v ∧ capSpace x.v ≤ 5 ∧ capCursor x.v % 4 = 0
/-- The strand at a target. -/
def goneTo (s : State) (x : RegCell) : State := jumped (s.modSt (fun t => { t with fcap := ⟨x.v, x.tag⟩ }))
/-- The strand off instructions on. -/
def goneBy (s : State) (off : BitVec 32) : State := jumped (s.modSt (fun t => t.movePc (12 * off.toInt)))
/-- ra holds the capability to the next instruction. -/
def linked (n : Needs) (s : State) : State := (n.after s).writeReg .ra s.st.returnCap true

/-- The predicate instructions that write one predicate (R134). -/
def predOps : Instr → Option (Pred × (Strand → Bool))
  | .pand _ p q r => some (p, fun t => t.pred q && t.pred r)
  | .por _ p q r => some (p, fun t => t.pred q || t.pred r)
  | .pxor _ p q r => some (p, fun t => xor (t.pred q) (t.pred r))
  | .pandn _ p q r => some (p, fun t => t.pred q && !t.pred r)
  | .pset _ p v => some (p, fun _ => v)
  | _ => none

/-! ### Capabilities -/

/-- Permissions and space stay. -/
def sameRights (a b : Quad) : Prop := capPerms b = capPerms a ∧ capSpace b = capSpace a
/-- A capability with another OFFSET, modulo 2^40, and nothing else changed. -/
def withOffset (a b : Quad) (off : Int) : Prop :=
  b.extractLsb' 44 40 = BitVec.ofInt 40 off ∧ b.extractLsb' 0 44 = a.extractLsb' 0 44
    ∧ b.extractLsb' 84 44 = a.extractLsb' 84 44
/-- The exact OFFSET at which CAPADD, CAPADDI and CAPSET put the cursor (R140). -/
def capMoves : Instr → Option (Reg × ((Nat → Quad) → Int))
  | .capadd _ d _ _ => some (d, fun q => capOffset (q 0) + ((q 1).setWidth 64).toInt)
  | .capaddi _ d _ i => some (d, fun q => capOffset (q 0) + i.toInt)
  | .capset _ d _ _ => some (d, fun q => ((q 1).setWidth 64).toNat - (capBase (q 0) : Int))
  | _ => none
/-- The new OFFSET fits 40 bits, and the cursor 44; in the spaces 0 and 1 OFFSET wraps (R140). -/
def inReach (q : Quad) (off : Int) : Prop :=
  capSpace q < 2
    ∨ (-(2 ^ 39) ≤ off ∧ off < 2 ^ 39 ∧ 0 ≤ capBase q + off ∧ (capBase q : Int) + off < 2 ^ 44)
/-- The length that CAPSUB asks for fits: exponent e and mantissa m of R136. -/
def fits (len e m : Nat) : Prop := e < 32 ∧ m < 2 ^ 24 ∧ m = (len + 2 ^ e - 1) / 2 ^ e
  ∧ ∀ j, j < e → 2 ^ 24 ≤ (len + 2 ^ j - 1) / 2 ^ j

end Sys2Proof.Claims

/-- R126, R127, R128: MOV, SEL and LANEGET. -/
def Sys2Proof.Claims.WholeRegisterMovesWriteD : Prop :=
  ∀ (i : Instr) (n : Needs) (s : State) (d : Reg) (f : (Nat → RegCell) → Strand → Quad × Bool),
    wholeMoves i = some (d, f) → ReadyFor i n s →
      exec i s = .next (wrote n s d (f (cell n s) s.st).1 (f (cell n s) s.st).2)

/-- R122, R50, R115: DIV and REM issue, and their result, right in every lane, arrives from one cycle on and at the latest
after the latency of their type. -/
def Sys2Proof.Claims.DivisionResultIsUnderWay : Prop :=
  ∀ (i : Instr) (n : Needs) (f : LaneFn) (s : State), divisions i = some f → ReadyFor i n s → ¬ isOutStream (n.after s) f.d →
    ∃ v : Quad,
      exec i s = .next (underWay (n.after s)
        { slot := s.slot, owner := s.st.serial, lo := s.now + s.cyc, due := s.now + divLate f.t * s.cyc, dst := .reg f.d, v := v,
          v2 := 0, flags := 0, trap := none, fp := false } f.d)
      ∧ ∀ k, k < 128 / f.t.width → f.is (src n s) k (laneAt f.t.width v k)

/-- R125: CMP and CMPI write P with the combined conditions of the lanes, and only P. -/
def Sys2Proof.Claims.CompareWritesPredicate : Prop :=
  ∀ (i : Instr) (n : Needs) (s : State) (p : Pred) (q : (Nat → Quad) → Prop), compares i = some (p, q) → ReadyFor i n s →
    ∃ b : Bool, exec i s = .next (wroteP n s p b) ∧ (b = true ↔ q (src n s))

/-- R42, R131, R132, R133: NOP, BR, CALL and LOOP. LOOP counts D down in lane 0, keeps lane 1, and branches unless it has
reached 0. -/
def Sys2Proof.Claims.DirectBranchesGo : Prop :=
  ∀ (n : Needs) (s : State) (h : Head) (d : Reg) (off : BitVec 32),
    (ReadyFor (.nop h) n s → exec (.nop h) s = .next (done s))
    ∧ (ReadyFor (.br h off) n s → exec (.br h off) s = .next (goneBy s off))
    ∧ (ReadyFor (.call h off) n s → exec (.call h off) s = .next (goneBy (linked n s) off))
    ∧ (ReadyFor (.loop h d off) n s →
        let c := lane0 (cell n s 0) - 1
        let t := (n.after s).writeReg d (quad2 c (lane1 (cell n s 0)))
        exec (.loop h d off) s = .next (if c = 0 then done t else goneBy t off))

/-- R129, R132: BRI, RET and CALLI go to A where A is a tagged capability with EX to a code space whose cursor is a
multiple of 4; CALLI leaves its return capability in ra. -/
def Sys2Proof.Claims.IndirectBranchesGoToTheirTarget : Prop :=
  ∀ (n : Needs) (s : State) (h : Head) (a : PSrc), goodTarget (cell n s 0) →
    (ReadyFor (.bri h a) n s → exec (.bri h a) s = .next (goneTo (n.after s) (cell n s 0)))
    ∧ (ReadyFor (.ret h a) n s → exec (.ret h a) s = .next (goneTo (n.after s) (cell n s 0)))
    ∧ (ReadyFor (.calli h a) n s → exec (.calli h a) s = .next (goneTo (linked n s) (cell n s 0)))

/-- R132, R46: a target without tag, without EX, outside the code spaces, or not a multiple of 4 traps, by the first of
these that applies, and TRAPVAL is its pointer form; nothing of the instruction remains. -/
def Sys2Proof.Claims.BadTargetTraps : Prop :=
  ∀ (n : Needs) (s : State) (h : Head) (a : PSrc) (i : Instr), i = .bri h a ∨ i = .ret h a ∨ i = .calli h a → ReadyFor i n s →
    let x := cell n s 0
    let t (c : Cause) (d : Nat) : State := s.trap ⟨c, 0, d, capPointer x.v⟩
    (x.tag = false → exec i s = .next (t .captag 0x01))
    ∧ (x.tag = true → 7 ≤ capSpace x.v → exec i s = .next (t .captag 0x02))
    ∧ (x.tag = true → capSpace x.v < 7 → capEX x.v = false → exec i s = .next (t .capperm 0x01))
    ∧ (x.tag = true → capEX x.v = true → capSpace x.v < 2 ∨ capSpace x.v = 6 → exec i s = .next (t .capperm 0x02))
    ∧ (x.tag = true → capEX x.v = true → 2 ≤ capSpace x.v → capSpace x.v ≤ 5 → capCursor x.v % 4 ≠ 0 →
        exec i s = .next (t .align 0))

/-- R134: the predicate instructions. PGET reads all eight, p0 as 1; PSETM writes those that its mask names, never p0. -/
def Sys2Proof.Claims.PredicateInstructions : Prop :=
  ∀ (n : Needs) (s : State),
    (∀ (i : Instr) (p : Pred) (f : Strand → Bool), predOps i = some (p, f) → ReadyFor i n s →
      exec i s = .next (wroteP n s p (f s.st)))
    ∧ (∀ (h : Head) (d : Reg), ReadyFor (.pget h d) n s → ∃ v : Quad, exec (.pget h d) s = .next (wrote n s d v)
        ∧ ∀ j, v.getLsbD j = true ↔ ∃ p : Pred, p.val = j ∧ s.st.pred p = true)
    ∧ (∀ (h : Head) (a : PSrc) (m : BitVec 8), ReadyFor (.psetm h a m) n s → ∃ t : State, exec (.psetm h a m) s = .next (done t)
        ∧ (∀ p : Pred, t.st.pred p = if p.val ≠ 0 ∧ m.getLsbD p.val = true then (src n s 0).getLsbD p.val else s.st.pred p)
        ∧ t = (n.after s).modSt (fun st => { st with p := t.st.p }))

/-- R140: CAPADD, CAPADDI and CAPSET give A with another OFFSET, tagged; out of reach they trap CAPBOUND 0x03, and TRAPVAL
is the address that was asked for. -/
def Sys2Proof.Claims.CapabilityMoves : Prop :=
  ∀ (i : Instr) (n : Needs) (s : State) (d : Reg) (f : (Nat → Quad) → Int), capMoves i = some (d, f) → ReadyFor i n s →
    (cell n s 0).tag = true →
      (inReach (src n s 0) (f (src n s)) →
        ∃ v : Quad, exec i s = .next (wrote n s d v true) ∧ withOffset (src n s 0) v (f (src n s)))
      ∧ (¬ inReach (src n s 0) (f (src n s)) →
        exec i s = .next (s.trap ⟨.capbound, 0, 0x03, BitVec.ofInt 64 (capBase (src n s 0) + f (src n s))⟩))

/-- R136, R137: CAPSUB gives a capability from A's cursor on, B bytes long rounded up to a representable length, where this
lies within A and the cursor is aligned for it; rights and space stay. -/
def Sys2Proof.Claims.CapsubNarrows : Prop :=
  ∀ (n : Needs) (s : State) (h : Head) (d : Reg) (a b : PSrc) (e m : Nat), ReadyFor (.capsub h d a b) n s →
    (cell n s 0).tag = true → fits ((src n s 1).setWidth 64).toNat e m →
    let q := src n s 0
    capCursor q % 2 ^ e = 0 → capCursor q + m * 2 ^ e ≤ 2 ^ 44 →
    (2 ≤ capSpace q → capBase q ≤ capCursor q ∧ capCursor q + m * 2 ^ e ≤ capBase q + capLen q) →
      ∃ v : Quad, exec (.capsub h d a b) s = .next (wrote n s d v true) ∧ capBase v = capCursor q ∧ capOffset v = 0
        ∧ capExp v = e ∧ capMant v = m ∧ sameRights q v

/-- R135, R137: an untagged A traps CAPTAG 0x01 in each instruction whose A must be a capability, and TRAPVAL is A[63:0];
CAPSUB traps CAPBOUND 0x01 where its range leaves the address space or A, and 0x02 where its base is not aligned for the
length, and TRAPVAL is the cursor. -/
def Sys2Proof.Claims.CapabilityFaults : Prop :=
  ∀ (n : Needs) (s : State) (h : Head) (d : Reg) (a b : PSrc),
    (∀ (i : Instr) (mask : BitVec 8) (delta : BitVec 32) (field : BitVec 4) (pol : BitVec 2),
      i = .capsub h d a b ∨ i = .capperm h d a mask ∨ i = .capadd h d a b ∨ i = .capaddi h d a delta
        ∨ i = .capset h d a b ∨ (i = .capget h d a field pol ∧ field ≠ 6) →
      ReadyFor i n s → (cell n s 0).tag = false →
        exec i s = .next (s.trap ⟨.captag, 0, 0x01, (src n s 0).setWidth 64⟩))
    ∧ (∀ e m, ReadyFor (.capsub h d a b) n s → (cell n s 0).tag = true → fits ((src n s 1).setWidth 64).toNat e m →
        let q := src n s 0
        let outside := 2 ^ 44 < capCursor q + m * 2 ^ e
          ∨ (2 ≤ capSpace q ∧ (capCursor q < capBase q ∨ capBase q + capLen q < capCursor q + m * 2 ^ e))
        (outside → exec (.capsub h d a b) s = .next (s.trap ⟨.capbound, 0, 0x01, BitVec.ofNat 64 (capCursor q)⟩))
        ∧ (¬ outside → capCursor q % 2 ^ e ≠ 0 →
            exec (.capsub h d a b) s = .next (s.trap ⟨.capbound, 0, 0x02, BitVec.ofNat 64 (capCursor q)⟩)))

/-- R138, R139, R141, R143: CAPLEN, CAPPERM, CAPGET and CAPCLR write D. -/
def Sys2Proof.Claims.CapabilityFields : Prop :=
  ∀ (n : Needs) (s : State) (h : Head) (d : Reg) (a : PSrc),
    (∀ e m, ReadyFor (.caplen h d a) n s → fits ((src n s 0).setWidth 64).toNat e m → ((src n s 0).setWidth 64).toNat ≤ 2 ^ 44 →
      exec (.caplen h d a) s = .next (wrote n s d (quad2 (BitVec.ofNat 64 (m * 2 ^ e)) (-(1#64 <<< e)))))
    ∧ (ReadyFor (.caplen h d a) n s → 2 ^ 44 < ((src n s 0).setWidth 64).toNat →
        exec (.caplen h d a) s = .next (wrote n s d 0))
    ∧ (∀ mask, ReadyFor (.capperm h d a mask) n s → (cell n s 0).tag = true →
        ∃ v : Quad, exec (.capperm h d a mask) s = .next (wrote n s d v true)
          ∧ capPerms v = capPerms (src n s 0) &&& (mask ||| 0x40#8)
          ∧ capSpace v = capSpace (src n s 0) ∧ v.extractLsb' 0 117 = (src n s 0).extractLsb' 0 117)
    ∧ (∀ field pol, ReadyFor (.capget h d a field pol) n s → field = 6 ∨ (cell n s 0).tag = true →
        exec (.capget h d a field pol) s = .next (wrote n s d (quad2 (capField (cell n s 0) field.toNat pol.toNat) 0)))
    ∧ (ReadyFor (.capclr h d a) n s → exec (.capclr h d a) s = .next (wrote n s d (src n s 0)))

/-- R142: CAPTST writes P, and traps nothing: 1 where A is tagged, its space is one of the memory spaces, it has the
permissions of the mask, and B bytes at its cursor lie within it. -/
def Sys2Proof.Claims.CaptstWritesPredicate : Prop :=
  ∀ (n : Needs) (s : State) (h : Head) (p : Pred) (a b : PSrc) (perm : BitVec 8), ReadyFor (.captst h p a b perm) n s →
    let q := src n s 0
    let len := ((src n s 1).setWidth 64).toNat
    ∃ v : Bool, exec (.captst h p a b perm) s = .next (wroteP n s p v)
      ∧ (v = true ↔ (cell n s 0).tag = true ∧ capSpace q ≤ 5 ∧ capPerms q &&& perm = perm
        ∧ (capSpace q < 2 ∨ len = 0 ∨ (capBase q ≤ capCursor q ∧ capCursor q + len ≤ capBase q + capLen q)))

namespace Sys2Proof.Claims

/-! ### Floating point -/

/-- A lane instruction of floating point: type, destination, rounding field, and the code and flags of lane k under a
rounding mode from the sources as read. -/
structure FpFn where
  t : FTy
  d : Reg
  rm : RMode
  lane : RMode → (Nat → Quad) → Nat → Nat × Flags

/-- Lane k of a source as a code. -/
def code (t : FTy) (q : Quad) (k : Nat) : Nat := (laneAt t.fmt.width q k).toNat

/-- The short floating-point instructions of R110 and R152 to R160: the format's operation on the lanes. -/
def fpShort : Instr → Option FpFn
  | .fadd _ t rm d _ _ => some ⟨t, d, rm, fun m q k => t.fmt.fadd m (code t (q 0) k) (code t (q 1) k)⟩
  | .fsub _ t rm d _ _ => some ⟨t, d, rm, fun m q k => t.fmt.fsub m (code t (q 0) k) (code t (q 1) k)⟩
  | .fmul _ t rm d _ _ => some ⟨t, d, rm, fun m q k => t.fmt.fmul m (code t (q 0) k) (code t (q 1) k)⟩
  | .ffma _ t rm d _ _ => some ⟨t, d, rm, fun m q k => t.fmt.fused .fma m (code t (q 0) k) (code t (q 1) k) (code t (q 2) k)⟩
  | .ffms _ t rm d _ _ => some ⟨t, d, rm, fun m q k => t.fmt.fused .fms m (code t (q 0) k) (code t (q 1) k) (code t (q 2) k)⟩
  | .fnfma _ t rm d _ _ => some ⟨t, d, rm, fun m q k => t.fmt.fused .nfma m (code t (q 0) k) (code t (q 1) k) (code t (q 2) k)⟩
  | .fmin _ t d _ _ => some ⟨t, d, .rne, fun _ q k => t.fmt.fminmax false (code t (q 0) k) (code t (q 1) k)⟩
  | .fmax _ t d _ _ => some ⟨t, d, .rne, fun _ q k => t.fmt.fminmax true (code t (q 0) k) (code t (q 1) k)⟩
  | .frint _ t rm exact d _ => some ⟨t, d, rm, fun m q k => t.fmt.frint m exact (code t (q 0) k)⟩
  | .fscale _ t rm d _ _ => some ⟨t, d, rm, fun m q k => t.fmt.fscale m (code t (q 0) k) (laneAt t.fmt.width (q 1) k).toInt⟩
  | .ftoi _ t rm signed sat d _ => some ⟨t, d, rm, fun m q k => convInt t.fmt.width signed m sat (t.fmt.decode (code t (q 0) k))⟩
  | .itof _ t rm signed d _ => some ⟨t, d, rm, fun m q k =>
      let x := laneAt t.fmt.width (q 0) k
      t.fmt.putQ m (Q.ofInt (if signed then x.toInt else x.toNat)) false⟩
  | _ => none

/-- The codes and flags of every lane. -/
def FpFn.all (f : FpFn) (n : Needs) (s : State) : List (Nat × Flags) :=
  (List.range f.t.lanes).map (f.lane (s.mode f.rm) (src n s))
/-- The flags of every lane. -/
def FpFn.flags (f : FpFn) (n : Needs) (s : State) : List Flags := (f.all n s).map (·.2)
/-- A register of codes, one for each lane. -/
def holdsCodes (t : FTy) (v : Quad) (l : List (Nat × Flags)) : Prop :=
  ∀ k, k < t.lanes → laneAt t.fmt.width v k = BitVec.ofNat _ (l.getD k (0, 0)).1
/-- FCSR has taken flags. -/
def flagged (s : State) (f : Flags) : State := s.modSt (fun t => { t with fcsr := t.fcsr ||| BitVec.ofNat 64 (f % 32) })
/-- No flag of the list is enabled as a trap. -/
def noTrap (s : State) (l : List Flags) : Prop := Nat.land (allFlags l) s.enables = 0

/-- FDIV, FSQRT, FREDUCE and the special functions (R144): what they compute, with the cycles to the result. -/
def fpLong : Instr → Option (Reg × FTy × Nat × RMode × (RMode → (Nat → Quad) → Quad × List Flags))
  | .fdiv _ t rm d _ _ => some (d, t, if t = .f64 then 20 else 12, rm, fun m q =>
      let l := (List.range t.lanes).map (fun k => t.fmt.fdiv m (code t (q 0) k) (code t (q 1) k))
      (packCodes t.fmt.width l, l.map (·.2)))
  | .fsqrt _ t rm d _ => some (d, t, if t = .f64 then 20 else 12, rm, each t (fun m c => t.fmt.fsqrt m c))
  | .freduce _ t rm d _ => some (d, t, 8, rm, fun m q =>
      let r := reduceTree t m 3 ((fpLanes t (q 0)).map (fun c => (c, [0])))
      (BitVec.ofNat 128 r.1, r.2))
  | .fexp _ t rm d _ => some (d, t, if t = .f64 then 24 else 16, rm, each t (SFn.exp.lane t.fmt))
  | .fexp2 _ t rm d _ => some (d, t, if t = .f64 then 24 else 16, rm, each t (SFn.exp2.lane t.fmt))
  | .fexpm1 _ t rm d _ => some (d, t, if t = .f64 then 24 else 16, rm, each t (SFn.expm1.lane t.fmt))
  | .flog _ t rm d _ => some (d, t, if t = .f64 then 24 else 16, rm, each t (SFn.log.lane t.fmt))
  | .flog2 _ t rm d _ => some (d, t, if t = .f64 then 24 else 16, rm, each t (SFn.log2.lane t.fmt))
  | .flog1p _ t rm d _ => some (d, t, if t = .f64 then 24 else 16, rm, each t (SFn.log1p.lane t.fmt))
  | .ferf _ t rm d _ => some (d, t, if t = .f64 then 24 else 16, rm, each t (SFn.erf.lane t.fmt))
  | .ferfc _ t rm d _ => some (d, t, if t = .f64 then 24 else 16, rm, each t (SFn.erfc.lane t.fmt))
  | .frcp _ t rm d _ => some (d, t, if t = .f64 then 16 else 12, rm, each t (SFn.rcp.lane t.fmt))
  | .frsqrt _ t rm d _ => some (d, t, if t = .f64 then 16 else 12, rm, each t (SFn.rsqrt.lane t.fmt))
  | _ => none
where
  each (t : FTy) (f : RMode → Nat → Nat × Flags) (m : RMode) (q : Nat → Quad) : Quad × List Flags :=
    let l := (List.range t.lanes).map (fun k => f m (code t (q 0) k))
    (packCodes t.fmt.width l, l.map (·.2))

/-- FABS, FNEG and FCLASS (R156, R158), which raise no flag: type, destination, and the bits of a lane of the result. -/
def fpBits : Instr → Option (FTy × Reg × (Nat → Nat → Bool))
  | .fabs _ t d _ => some (t, d, fun c j => decide (j ≠ t.fmt.width - 1) && c.testBit j)
  | .fneg _ t d _ => some (t, d, fun c j => xor (decide (j = t.fmt.width - 1)) (c.testBit j))
  | .fclass _ t d _ => some (t, d, fun c j => (t.fmt.fclass c).testBit j)
  | _ => none

/-- The instructions that read and write FCSR (R165, R147, R427): D, and FCSR's new value from the old and A. -/
def fcsrOps : Instr → Option (Reg × (Lane → Lane → Lane))
  | .fcsrget _ d => some (d, fun o _ => o)
  | .fcsrset _ d _ m => some (d, fun o a => (o &&& ~~~(m.setWidth 64)) ||| (a &&& m.setWidth 64))
  | .fflagclr _ d m => some (d, fun o _ => o &&& ~~~(m.setWidth 64))
  | .fcsrWrite _ d _ => some (d, fun o a => (o &&& ~~~0x71F1F) ||| (a &&& 0x71F1F))
  | _ => none

/-! ### Conversion and blocks -/

/-- The header of a quad's block. -/
def blockHeader (n : Needs) (s : State) (from_ : Nat) : Nat := ((src n s from_).setWidth 32).toNat

end Sys2Proof.Claims

/-- R103, R110, R152 to R160: a short floating-point instruction none of whose flags is enabled as a trap ORs its flags
into FCSR and writes D, tag clear, with the code of every lane. -/
def Sys2Proof.Claims.FloatingPointWritesLanes : Prop :=
  ∀ (i : Instr) (n : Needs) (f : FpFn) (s : State), fpShort i = some f → ReadyFor i n s → noTrap s (f.flags n s) →
    ∃ v : Quad, exec i s = .next (done ((flagged (n.after s) (allFlags (f.flags n s))).writeReg f.d v))
      ∧ holdsCodes f.t v (f.all n s)

/-- R103: where a flag is enabled, the instruction takes FPE: FCSR has the flags, D is not written, and the trap names the
flags that met an enable, with a mask of the lanes that raised one in TRAPVAL. -/
def Sys2Proof.Claims.FloatingPointTraps : Prop :=
  ∀ (i : Instr) (n : Needs) (f : FpFn) (s : State), fpShort i = some f → ReadyFor i n s → ¬ noTrap s (f.flags n s) →
    ∃ t : Trap, exec i s
        = .next ((s.modSt (fun st => { st with fcsr := st.fcsr ||| BitVec.ofNat 64 (allFlags (f.flags n s)) })).trap t)
      ∧ t.cause = .fpe ∧ t.detail = Nat.land (allFlags (f.flags n s)) s.enables
      ∧ ∀ k, t.val.getLsbD k = true ↔ k < f.t.lanes ∧ Nat.land ((f.flags n s).getD k 0) s.enables ≠ 0

/-- R144, R146, R50: with no trap enabled, FDIV, FSQRT, FREDUCE and the special functions issue and their result, with its
flags, arrives after the latency of their row. -/
def Sys2Proof.Claims.LongFloatingPointIsUnderWay : Prop :=
  ∀ (i : Instr) (n : Needs) (s : State) (d : Reg) (t : FTy) (c : Nat) (rm : RMode) (f : RMode → (Nat → Quad) → Quad × List Flags),
    fpLong i = some (d, t, c, rm, f) → ReadyFor i n s → s.enables = 0 → ¬ isOutStream (n.after s) d →
      let r := f (s.mode rm) (src n s)
      exec i s = .next (underWay (n.after s)
        { slot := s.slot, owner := s.st.serial, lo := s.now + c * s.cyc, due := s.now + c * s.cyc, dst := .reg d, v := r.1,
          v2 := 0, flags := allFlags r.2, trap := none, fp := true } d)

/-- R146, R263: with a trap enabled, or an output stream as D, a long instruction does not mark D: its strand parks and
waits for the commit. -/
def Sys2Proof.Claims.LongInstructionWaitsForItsCommit : Prop :=
  ∀ (i : Instr) (n : Needs) (s : State) (d : Reg),
    ((∃ f : LaneFn, divisions i = some f ∧ f.d = d ∧ isOutStream (n.after s) d)
      ∨ (∃ t c rm f, fpLong i = some (d, t, c, rm, f) ∧ (s.enables ≠ 0 ∨ isOutStream (n.after s) d))) →
    ReadyFor i n s → ∃ l : Late, l.dst = .reg d ∧ l.slot = s.slot ∧ ∃ t : State, exec i s = .next t
      ∧ t.st.run = .parked .commit ∧ t.st.consumed = true ∧ t.st.prog = .committing ∧ t.st.fcap = s.st.fcap
      ∧ t.g.late = s.g.late ++ [l] ∧ t.cell d = (n.after s).cell d

/-- R156, R158: FABS clears the sign of every lane, FNEG inverts it, FCLASS gives the class of every lane; none raises a
flag. -/
def Sys2Proof.Claims.SignsAndClasses : Prop :=
  ∀ (i : Instr) (n : Needs) (s : State) (t : FTy) (d : Reg) (f : Nat → Nat → Bool), fpBits i = some (t, d, f) → ReadyFor i n s →
    ∃ v : Quad, exec i s = .next (wrote n s d v)
      ∧ ∀ k j, k < t.lanes → j < t.fmt.width → (laneAt t.fmt.width v k).getLsbD j = f (code t (src n s 0) k) j

/-- R157, R103: FCMP writes P with the combined conditions; it raises the flags of the lanes that it compares, which is
lane 0 alone where the word does not combine. -/
def Sys2Proof.Claims.FcmpWritesPredicate : Prop :=
  ∀ (n : Needs) (s : State) (h : Head) (t : FTy) (cc : FCond) (c : Comb) (p : Pred) (a b : Src),
    ReadyFor (.fcmp h t cc c p a b) n s →
    let r (k : Nat) := t.fmt.fcmp cc (code t (src n s 0) k) (code t (src n s 1) k)
    let fl := (List.range t.lanes).map (fun k => if c = .lane0 ∧ k ≠ 0 then 0 else (r k).2)
    noTrap s fl →
      ∃ v : Bool, exec (.fcmp h t cc c p a b) s = .next (done ((flagged (n.after s) (allFlags fl)).writePred p v))
        ∧ (v = true ↔ combines c t.lanes (fun k => (r k).1 = true))

/-- R147, R165, R166, R427: an instruction that reads or writes FCSR parks, with FCSR as it was, while a result of the strand of the
floating-point classes is outstanding; with none outstanding it gives D the old FCSR and FCSR its new value. -/
def Sys2Proof.Claims.FcsrInstructions : Prop :=
  ∀ (i : Instr) (n : Needs) (s : State) (d : Reg) (f : Lane → Lane → Lane), fcsrOps i = some (d, f) → ReadyFor i n s →
    (s.fpOut = false →
      exec i s = .next (done (((n.after s).modSt (fun t => { t with fcsr := f s.st.fcsr ((src n s 0).setWidth 64) })).writeReg d
        (quad2 s.st.fcsr 0))))
    ∧ (s.fpOut = true → ∃ t : State, exec i s = .next t ∧ t.st.run = .parked .value ∧ t.st.again = some .value
        ∧ t.st.fcap = s.st.fcap ∧ t.st.fcsr = s.st.fcsr)

/-- R167, R171, R172: RND writes two successive outputs of the generator and moves it on by two; RNDSTATE reads the
generator; RNDSTATE.W replaces it and reads what it was, and a state of all zeros becomes that of seed 0. -/
def Sys2Proof.Claims.RandomInstructions : Prop :=
  ∀ (n : Needs) (s : State) (h : Head) (d : Reg) (a : Src),
    let x := s.st.gen0
    let y := s.st.gen1
    let next (x y : Lane) : Lane := let z := x ^^^ (x <<< 23); z ^^^ y ^^^ (z >>> 17) ^^^ (y >>> 26)
    (ReadyFor (.rnd h d) n s → exec (.rnd h d) s = .next (done (((n.after s).modSt (fun t =>
        { t with gen0 := next x y, gen1 := next y (next x y) })).writeReg d (quad2 (x + y) (y + next x y)))))
    ∧ (ReadyFor (.rndstate h d) n s → exec (.rndstate h d) s = .next (wrote n s d (quad2 x y)))
    ∧ (ReadyFor (.rndstateW h d a) n s →
        let u := (src n s 0).setWidth 64
        let v := (src n s 0).extractLsb' 64 64
        exec (.rndstateW h d a) s = .next (done (((n.after s).modSt (fun t =>
          { t with gen0 := u, gen1 := if u = 0 ∧ v = 0 then 0x9E3779B97F4A7C15 else v })).writeReg d (quad2 x y))))

/-- R109: CVT converts the group of lanes that PART names; where the destination's lanes are more, D keeps its others, and
where they are fewer, the rest of D is zero. -/
def Sys2Proof.Claims.CvtConvertsLanes : Prop :=
  ∀ (n : Needs) (s : State) (h : Head) (rm : RMode) (sat : Bool) (part : BitVec 4) (x y : Fmt) (d : Reg) (a : Src),
    (Instr.cvt h rm sat part x y d a).wf = true → ReadyFor (.cvt h rm sat part x y d a) n s →
    let m := min x.lanes y.lanes
    let from_ := if y.lanes < x.lanes then part.toNat * m else 0
    let upto := if x.lanes < y.lanes then part.toNat * m else 0
    let r (k : Nat) := y.conv (s.mode rm) sat (x.decode (laneAt x.lane (src n s 0) (from_ + k)).toNat)
    let fl := (List.range m).map (fun k => (r k).2)
    noTrap s fl →
      ∃ v : Quad, exec (.cvt h rm sat part x y d a) s = .next (done ((flagged (n.after s) (allFlags fl)).writeReg d v))
        ∧ (∀ k, k < m → laneAt y.lane v (upto + k) = BitVec.ofNat _ (r k).1)
        ∧ (∀ j, j < 128 / y.lane → (j < upto ∨ upto + m ≤ j) →
            laneAt y.lane v j = if x.lanes < y.lanes then laneAt y.lane (src n s 1) j else 0)

/-- R111, R112: BLKSET and BLKFIT put a header into lane 0 of D and keep the rest: BLKSET with the scale that A's lane 0
rounds to, or an MFORMAT trap where this is no positive finite number, and BLKFIT with the scale that fits A's lanes. -/
def Sys2Proof.Claims.BlockHeaders : Prop :=
  ∀ (n : Needs) (s : State) (h : Head) (f : BFmt) (d : Reg) (a : Src),
    (∀ rm, ReadyFor (.blkset h rm f d a) n s →
      let r := convBin bf16 (s.mode rm) false (f32.decode (laneAt 32 (src n s 0) 0).toNat)
      noTrap s [r.2] →
        (scaleOk r.1 = true →
          ∃ v : Quad, exec (.blkset h rm f d a) s = .next (done ((flagged (n.after s) r.2).writeReg d v))
            ∧ v.setWidth 32 = BitVec.ofNat 32 (mkHeader f r.1) ∧ v.extractLsb' 32 96 = (src n s 1).extractLsb' 32 96)
        ∧ (scaleOk r.1 = false → ∃ v, exec (.blkset h rm f d a) s
            = .next ((s.modSt (fun st => { st with fcsr := st.fcsr ||| BitVec.ofNat 64 r.2 })).trap ⟨.mformat, 0, 0x04, v⟩)))
    ∧ (∀ t : FTy, ReadyFor (.blkfit h t f d a) n s →
        let r := blkFit t f (src n s 0)
        noTrap s [r.2] →
          ∃ v : Quad, exec (.blkfit h t f d a) s = .next (done ((flagged (n.after s) r.2).writeReg d v))
            ∧ v.setWidth 32 = BitVec.ofNat 32 (mkHeader f r.1) ∧ v.extractLsb' 32 96 = (src n s 1).extractLsb' 32 96)

/-- R100, R113, R114: BLKPUT and BLKGET by the block's header. With a valid one, BLKGET writes the elements of the part,
each times the scale, zero past the last, and BLKPUT replaces those of the part by A's lanes over the scale; an empty block
reads as zero and takes no elements; a bad header traps MFORMAT. -/
def Sys2Proof.Claims.BlockElements : Prop :=
  ∀ (n : Needs) (s : State) (h : Head) (t : FTy) (rm : RMode) (q : Fin 12) (part : BitVec 6),
    (∀ d te, ReadyFor (.blkget h t rm d q te part) n s →
      let i : Instr := .blkget h t rm d q te part
      let b := quadBits (n.values s)
      (header (blockHeader n s 0) = .empty → exec i s = .next (wrote n s d 0))
      ∧ (∀ e, header (blockHeader n s 0) = .bad e → ∃ v, exec i s = .next (s.trap ⟨.mformat, 0, e, v⟩))
      ∧ (∀ f scale, header (blockHeader n s 0) = .ok f scale →
          let r (k : Nat) := if part.toNat * t.lanes + k < f.count
            then convBin t.fmt (s.mode rm) false ((f.value b (part.toNat * t.lanes + k)).scale scale) else (0, 0)
          let l := (List.range t.lanes).map r
          noTrap s (l.map (·.2)) →
            ∃ v : Quad, exec i s = .next (done ((flagged (n.after s) (allFlags (l.map (·.2)))).writeReg d v)) ∧ holdsCodes t v l))
    ∧ (∀ sat a, ReadyFor (.blkput h t rm sat q a part) n s →
      let i : Instr := .blkput h t rm sat q a part
      let b := quadBits ((n.values s).drop 1)
      (header (blockHeader n s 1) = .empty → ∃ v, exec i s = .next (s.trap ⟨.mformat, 0, 0x03, v⟩))
      ∧ (∀ e, header (blockHeader n s 1) = .bad e → ∃ v, exec i s = .next (s.trap ⟨.mformat, 0, e, v⟩))
      ∧ (∀ f scale, header (blockHeader n s 1) = .ok f scale →
          let r (k : Nat) := f.fmt.conv (s.mode rm) sat
            ((t.fmt.decode (code t (src n s 0) k)).scale ((Q.ofInt 1).div scale))
          let inside (k : Nat) : Bool := decide (part.toNat * t.lanes + k < f.count)
          let fl := (List.range t.lanes).map (fun k => if inside k then (r k).2 else 0)
          let v := (List.range t.lanes).foldl
            (fun (b : Nat) k => if inside k then f.setElement b (part.toNat * t.lanes + k) (r k).1 else b) b
          noTrap s fl → exec i s = .next (done ((flagged (n.after s) (allFlags fl)).writeQuad q v))))
namespace Sys2Proof.Claims

/-! ### Words and steps -/

/-- The two rows of the table that share the words of CSRSET 0x107: their operand tells them apart (R274). -/
def byOperand : Instr → Option (Head × Reg × PSrc)
  | .cpauseResume h d a | .cpauseAbandon h d a => some (h, d, a)
  | _ => none

/-- Words that the manual writes out, word2, word1 and word0 in one number, and what each stands for: 17 (lines 11, 12 of the
listing), 13 (FORK, ADD), 18 (CAPADD, STX, FADD), 04 (CVT), 06 and 20 (FEXP), 07 (MDOT), 19 (AMO), 09 (FENCE), 10 (GATHER),
11 (SEND), 12 (WATCH), 14 (PTAKE.WAIT), 15 (CSRGET, ERET). -/
def words : List (Nat × Instr) :=
  let z : Head := ⟨false, 0, 0⟩
  let r (n : Fin 48) : Src := ⟨.c n, false, false⟩
  let p (n : Fin 48) : PSrc := ⟨.c n, false⟩
  [ (0x00440000000000000000000B, .br ⟨false, 1, 0⟩ 11)
  , (0x0180100000000000FFFFFFFF, .loop z (.c 1) 0xFFFFFFFF)
  , (0x10006C310700000000000000, .add z .w7 (.c 6) ⟨.s 0, false, false⟩ ⟨.s 1, false, false⟩)
  , (0x184012400300000000000001, .cmpi z .b64 .eq .lane0 1 (r 9) 1)
  , (0x20C06E470000000000000000, .capadd z (.c 6) ⟨.ra, false⟩ (p 7))
  , (0x300041400000031300000000, .cvt z .rne true 1 .f32 .e4m3 (.c 4) (r 5))
  , (0x40094F940100000000000000, .fadd ⟨false, 2, 0⟩ .f32 .rne (.c 20) ⟨.link .south, false, false⟩ (r 20))
  , (0x500259400000000000000000, .fexp z .f64 .rne (.c 37) (r 37))
  , (0x6040013F0000400100000000, .mdot z true false 0 (.pair 2 false) (.port .west false true))
  , (0x70C283490300000000000000, .stx z .b64 ⟨false, 0⟩ (.c 40) (p 13) (p 9))
  , (0x728136520300000400000000, .amo z .b64 .min (.c 19) (p 25) (r 18) 0)
  , (0x800000000000000600000000, .fence z .die .rel)
  , (0x914042090200000000000000, .gather z .b32 false 2 (p 8) (p 9))
  , (0xA01001940000004700000000, .send ⟨false, 4, 0⟩ (some 7) (p 6) (r 20))
  , (0xB10000000000005200000004, .watch z .weak 5 4)
  , (0xC00010C00000000000000005, .fork z 1 (p 3) (p 0) 5)
  , (0xD080A1400000000800000000, .ptakeWait z 1 5 (p 5))
  , (0xE08040000000000000000006, .csrget z (.c 4) 6)
  , (0xE04000000000000100000000, .eret z true) ]

/-- DECODING IS RIGHT on words of the manual: one for each class of instructions. -/
def WordsOfTheManual : Prop := ∀ x ∈ words, decodeTableWord 96 x.1 = some x.2

/-- R33 to R43: the word of every instruction that obeys the limits of its entry decodes to that instruction, with every
operand. The two rows that share the words of CSRSET 0x107 decode to that CSRSET. -/
def EncodedWordsDecode : Prop :=
  ∀ (i : Instr) (w : Word96) (rest : List Byte), i.wf = true → encode i = some w →
    (byOperand i = none → decodeBytes (w.bytes ++ rest) = .ok (i, rest))
    ∧ ∀ h d a, byOperand i = some (h, d, a) → decodeBytes (w.bytes ++ rest) = .ok (.csrset h d a 0x107, rest)

/-- R33, R34, R43: a word that decodes stands for one instruction, which obeys the limits of its entry and whose word it is:
no bit of it goes unread. -/
def DecodedWordsEncode : Prop :=
  ∀ (w : Word96) (i : Instr), decode w = .ok i → i.wf = true ∧ encode i = some w

/-- The group and strand whose turn a move of the agenda gives, as they stand once time has come to it. -/
def turnOf (s : State) (m : Move) (r : List Move) (g : GroupId) (k : Fin 8) (q : State) : Prop :=
  let p := ({ s with agenda := r, now := s.now + m.dt } : State).focus g
  s.agenda = m :: r ∧ m.act = .issue g ∧ p.g.gid = g ∧ p.mayBegin p.g = true ∧ p.g.nextSlot p.cyc = some k ∧ q = p.reach k

/-- A STEP RUNS THE DECODED INSTRUCTION (R45): in the turn of a strand for which no trap and no stop waits and that stands at
no breakpoint, when the bytes at its pc decode to an instruction, the step is that instruction, then what follows it: a
yield point meets a stop or a rotation, and messages enter what it has emptied. -/
def StepsRunDecodedInstructions : Prop :=
  ∀ (s q t : State) (m : Move) (r : List Move) (g : GroupId) (k : Fin 8) (l rest : List Byte) (i : Instr),
    turnOf s m r g k q → q.boundaryTrap = none → q.pastDeadline = false → q.breakHit = none →
    q.fetch = .bytes l → decodeBytes l = .ok (i, rest) → exec i q = .next t →
      step s = .next t.afterInstr.afterMove

/-- R43, R129, R130: in such a turn, bytes that decode to nothing raise ILLEGAL with the detail of the check that they fail,
a fetch that traps takes its trap, and one that misses its translation parks the strand for the walk. -/
def BadFetchesTrap : Prop :=
  ∀ (s q : State) (m : Move) (r : List Move) (g : GroupId) (k : Fin 8),
    turnOf s m r g k q → q.boundaryTrap = none → q.pastDeadline = false → q.breakHit = none →
    (∀ l e, q.fetch = .bytes l → decodeBytes l = .error e →
      step s = .next (q.trap ⟨.illegal, 0, e.detail, 0⟩).afterInstr.afterMove)
    ∧ (∀ t, q.fetch = .trap t → step s = .next (q.trap t).afterInstr.afterMove)
    ∧ (∀ w, q.fetch = .walk w → ∃ (t : State) (k : Nat), step s = .next t.afterInstr.afterMove ∧ t.st.run = .parked .walk
        ∧ t.st.walkWant = some { w with num := k } ∧ t.st.fcap = q.st.fcap)

/-- No instruction, no move and no run of any length stops the machine. That the manual stops it nowhere, and that a move whose
condition is not met changes nothing, are the model's reading (log entries 52 and 18). -/
def NothingStopsTheMachine : Prop :=
  (∀ (i : Instr) (s : State), ∃ t, exec i s = .next t) ∧ ∀ (n : Nat) (s : State), SafeRun n s

/-! ### The issue of an instruction (R36, R37, R44 to R46) -/

/-- A word with its needs, before anything of it is done. -/
def stands (i : Instr) (n : Needs) (s : State) : Prop := needs i = some n ∧ (n.o.konly = true → s.st.kernel = true)
/-- A word whose guard is true, and nothing of it is done. -/
def begins (i : Instr) (n : Needs) (s : State) : Prop :=
  stands i n s ∧ s.st.guard n.h = true ∧ s.st.consumed = false ∧ s.st.prog.came = false

/-- R44, R400: a privileged word at level U raises PRIV, whatever its guard. R36: a false guard annuls a word: nothing of it
happens but the advance of pc. R43, R46: what is ILLEGAL by state traps before any operand counts. R37: a source that is not
ready under the policy that traps raises EMPTY, with its field's register. R45: a source that is not ready, a destination
that is outstanding or without room, parks the strand where it stands, with nothing read. -/
def WordsIssueInOrder : Prop :=
  ∀ (i : Instr) (n : Needs) (s : State),
    (needs i = some n → n.o.konly = true → s.st.kernel = false → exec i s = .next (s.trap ⟨.priv, 0, 0, 0⟩))
    ∧ (stands i n s → s.st.guard n.h = false → exec i s = .next (done s))
    ∧ (∀ d, begins i n s → n.o.ill s = some d →
        exec i s = .next (s.trap ⟨.illegal, 0, d, 0⟩))
    ∧ (∀ t, begins i n s → n.o.ill s = none →
        firstEmpty (s.readies [] n.srcs) = some t → exec i s = .next (s.trap t))
    ∧ (begins i n s → n.o.ill s = none → firstEmpty (s.readies [] n.srcs) = none →
        (anyNo (s.readies [] n.srcs) = true ∨ (∃ r ∈ n.dsts, s.dstBusy r n.o.dwords = true)) →
        ∃ t : State, exec i s = .next t ∧ t.st.run = .parked .operands ∧ t.st.fcap = s.st.fcap ∧ t.st.c = s.st.c
          ∧ t.st.p = s.st.p ∧ t.g.links = s.g.links ∧ t.g.sr = s.g.sr ∧ t.mem = s.mem ∧ t.chans = s.chans)

/-! ### Traps (R396 to R400) -/

/-- R61, R396, R399: a trap that is not fatal enters the handler: the record keeps what a first trap saved, TRAPPC and RCAP
have the pc and the code capability at the instruction, TRAPINFO and TRAPVAL tell of the trap, PL keeps the level, and the
strand runs at level K, one deeper, from TVEC through the launch's code capability. Nothing of the registers changes. Where the manual
states no TRAPVAL, that one register is a free value. -/
def TrapsEnterTheHandler : Prop :=
  ∀ (s : State) (t : Trap) (l : Launch), s.g.fatal s.st = false → s.launch? s.g.gid.launch = some l →
    let u := (s.trap t).st
    let o := s.st
    u.trappc = BitVec.ofNat 64 o.pc ∧ u.rcap = o.fcap ∧ u.pl = o.kernel ∧ u.kernel = true ∧ u.depth = o.depth + 1
      ∧ (t.unstated = false → u.trapval = t.val) ∧ (u.trapinfo.extractLsb' 0 8).toNat = t.cause.code
      ∧ (u.trapinfo.extractLsb' 8 8).toNat = t.lanes % 256 ∧ (u.trapinfo.extractLsb' 16 8).toNat = t.detail % 256
      ∧ u.trapinfo.getLsbD 24 = o.whNext
      ∧ u.fcap = ⟨l.codeCap (s.g.tvec.extractLsb' 0 44).toNat, true⟩ ∧ u.run = .ready
      ∧ (o.depth = 0 → u.save = o.save)
      ∧ (o.depth = 1 → u.save = some ⟨o.trappc, o.trapinfo, o.trapval, o.rcap, o.pl⟩)
      ∧ u.c = o.c ∧ u.sp = o.sp ∧ u.ra = o.ra ∧ u.p = o.p ∧ u.fcsr = o.fcsr ∧ u.tmask = o.tmask
      ∧ (s.trap t).mem = s.mem ∧ (s.trap t).chans = s.chans

/-- R399, R468: a trap at depth 2, or with no handler in TVEC, is fatal: it is logged for the tenant with its cause, its
pc and its group, its launch is cancelled, and the strand does not go on. -/
def FatalTrapsCancelTheLaunch : Prop :=
  ∀ (s : State) (t : Trap) (l : Launch) (x : Tenant), s.g.fatal s.st = true → s.launch? s.g.gid.launch = some l →
    l.num = s.g.gid.launch → s.tenant? l.tenant = some x → x.num = l.tenant →
      (s.trap t).st.stopped = true ∧ (s.trap t).st.fcap = s.st.fcap
        ∧ ((s.trap t).launch? l.num).map (·.cancelling) = some true
        ∧ ((s.trap t).tenant? l.tenant).map (·.log)
            = some (x.log ++ [.fatal t.cause.code (BitVec.ofNat 64 s.st.pc) s.g.gid.num])

/-- R399, R400, R426: ERET at level K goes back to TRAPPC, or 12 bytes past it, at the level of PL, one less deep; it leaves
a second handler with the first trap's registers again. -/
def EretReturns : Prop :=
  ∀ (n : Needs) (s : State) (h : Head) (skip : Bool), ReadyFor (.eret h skip) n s →
    ∃ t : State, exec (.eret h skip) s = .next (jumped t)
      ∧ t.st.kernel = s.st.pl ∧ t.st.depth = s.st.depth - 1
      ∧ t.st.fcap = ⟨capAt s.st.rcap.v (s.st.trappc.toNat + if skip then 12 else 0), s.st.rcap.tag⟩
      ∧ (∀ r, s.st.depth = 2 → s.st.save = some r → t.st.trappc = r.pc ∧ t.st.trapinfo = r.info ∧ t.st.trapval = r.val
          ∧ t.st.rcap = r.rcap ∧ t.st.pl = r.pl ∧ t.st.save = none)
      ∧ (s.st.depth ≠ 2 → t.st.trappc = s.st.trappc ∧ t.st.rcap = s.st.rcap ∧ t.st.save = s.st.save)
      ∧ t.st.c = s.st.c ∧ t.st.p = s.st.p ∧ t.st.fcsr = s.st.fcsr

/-- R425, R413, R62: TRAP raises SOFTWARE with its code and A's lane 0; BRK raises BREAK with its code, and in a launch that
is debugged it halts its group, every strand of which stands where it is. -/
def TrapAndBrk : Prop :=
  ∀ (n : Needs) (s : State) (h : Head) (a : PSrc) (code : BitVec 8) (k : BitVec 16),
    (ReadyFor (.trap h code a) n s → exec (.trap h code a) s = .next (s.trap ⟨.software, 0, code.toNat, lane0 (cell n s 0)⟩))
    ∧ (ReadyFor (.brk h k) n s → (s.myLaunch.map (·.debugged)).getD false = false →
        exec (.brk h k) s = .next (s.trap ⟨.break_, 0, 0x01, k.setWidth 64⟩))
    ∧ (ReadyFor (.brk h k) n s → (s.myLaunch.map (·.debugged)).getD false = true →
        ∃ t : State, exec (.brk h k) s = .next t ∧ t.g.dhalt = true ∧ (∀ j : Fin 8, (t.g.st[j]).fcap = (s.g.st[j]).fcap
          ∧ (t.g.st[j]).c = (s.g.st[j]).c ∧ (j ≠ s.slot → (t.g.st[j]).run = (s.g.st[j]).run)) ∧ t.st.brk = true)

/-! ### Registers -/

/-- R47 to R53, R263: where a written value goes. c0 keeps zero; another register of its strand takes value and tag and is
full and no longer outstanding; s0 to s7 take it 4 cycles later for every strand; a port sends the word to the group across;
a register in an output stream pushes it; every other register stays. -/
def WrittenValuesGoToTheirPlace : Prop :=
  ∀ (s : State) (v : Quad) (tag : Bool),
    s.writeReg (.c 0) v tag = s
    ∧ (∀ r : Reg, (∃ k : Fin 48, r = .c k ∧ k.val ≠ 0 ∧ (s.st.c[k]).stream = false) ∨ r = .sp ∨ r = .ra →
        ((s.writeReg r v tag).cell r).v = v ∧ ((s.writeReg r v tag).cell r).tag = tag
        ∧ ((s.writeReg r v tag).cell r).full = true ∧ ((s.writeReg r v tag).cell r).out = false
        ∧ (∀ q, q ≠ r → (s.writeReg r v tag).cell q = s.cell q)
        ∧ (s.writeReg r v tag).st.p = s.st.p ∧ (s.writeReg r v tag).st.fcap = s.st.fcap ∧ (s.writeReg r v tag).mem = s.mem)
    ∧ (∀ k : Fin 8, (s.writeReg (.s k) v tag).g.swrites = s.g.swrites ++ [⟨s.now + 4 * s.cyc, k, { v := v, tag := tag }⟩]
        ∧ ∀ q, ((s.writeReg (.s k) v tag).cell q).v = (s.cell q).v)
    ∧ (∀ p h, s.neighbour s.g p = some h →
        (∃ w : LinkFly, (s.writeReg (.link p) v tag).linkWords = s.linkWords ++ [w] ∧ w.dst = h.gid ∧ w.port = oppPort p ∧ w.v = v
          ∧ w.src = s.g.gid ∧ s.now ≤ w.due)
        ∧ ∀ q, (s.writeReg (.link p) v tag).cell q = s.cell q)
    ∧ (∀ (k : Fin 48) d, k.val ≠ 0 → (s.st.c[k]).stream = true → s.stream? k = some d → d.output = true →
        (s.writeReg (.c k) v tag).stream? k = some { d with moved := d.moved + 1, buffer := d.buffer ++ [v] })

/-- R51: at its time a write of s0 to s7 that stands alone becomes what every strand of the group reads there. -/
def SharedWritesBecomeVisible : Prop :=
  ∀ (g : Group) (t : Nat) (w : SWrite), g.swrites = [w] →
    (w.due ≤ t → ((g.settle t).sr[w.idx]).v = w.cell.v ∧ ((g.settle t).sr[w.idx]).full = w.cell.full
      ∧ (g.settle t).swrites = [] ∧ ∀ j : Fin 8, j ≠ w.idx → (g.settle t).sr[j] = g.sr[j])
    ∧ (t < w.due → (g.settle t).sr = g.sr ∧ (g.settle t).swrites = [w])

/-- R129: the strand that has executed an instruction stands 12 bytes on, through the same capability, wherever the cursor
can go there. -/
def ProgramCounterAdvances : Prop :=
  ∀ t : Strand, 0 ≤ capBase t.fcap.v + capOffset t.fcap.v → capOffset t.fcap.v + 12 < 2 ^ 39 →
    capBase t.fcap.v + capOffset t.fcap.v + 12 < 2 ^ 44 →
    t.step12.pc = t.pc + 12 ∧ capBase t.step12.fcap.v = capBase t.fcap.v ∧ capLen t.step12.fcap.v = capLen t.fcap.v
      ∧ capPerms t.step12.fcap.v = capPerms t.fcap.v ∧ t.step12.fcap.tag = t.fcap.tag ∧ t.step12.c = t.c ∧ t.step12.p = t.p

/-- The destinations of the instructions that write one register and nothing else, with whether they may set flags. -/
def writesOne (i : Instr) : Option Reg :=
  match arithLanes i, bitLanes i, moveLanes i, wholeMoves i, fpBits i with
  | some f, _, _, _, _ | _, some f, _, _, _ | _, _, some f, _, _ => some f.d
  | _, _, _, some x, _ => some x.1
  | _, _, _, _, some x => some x.2.1
  | _, _, _, _, _ => none

/-- R45, R48, R51, R53: the frame of the instructions that write one register, whichever that is: every other register, every
predicate, FCSR, PATH, WDLIM, CANRLD and every other register of the strand, the accumulators, memory, the scratchpad and its marks, and
every channel are as before. The shared registers stay, but for s0 to s7 as D, whose write waits 4 cycles; a word goes to a link only
where D or a forward names it. What the operands popped is gone: a mailbox that was read is empty. -/
def OneRegisterFrame : Prop :=
  ∀ (i : Instr) (n : Needs) (s t : State) (d : Reg), writesOne i = some d → i.wf = true → ReadyFor i n s →
    exec i s = .next t →
      (∀ r, r ≠ d → (t.cell r).v = (s.cell r).v ∧ (t.cell r).tag = (s.cell r).tag
        ∧ ((∀ x ∈ n.srcs, x.r ≠ r) → t.cell r = s.cell r))
      ∧ t.st.p = s.st.p ∧ t.st.fcsr = s.st.fcsr ∧ t.st.tmask = s.st.tmask ∧ t.st.kernel = s.st.kernel ∧ t.st.depth = s.st.depth
      ∧ t.st.trappc = s.st.trappc ∧ t.st.trapinfo = s.st.trapinfo ∧ t.st.trapval = s.st.trapval ∧ t.st.rcap = s.st.rcap
      ∧ t.st.pl = s.st.pl ∧ t.st.save = s.st.save ∧ t.st.mbox = s.st.mbox ∧ t.st.watch = s.st.watch ∧ t.st.canemit = s.st.canemit
      ∧ t.st.gen0 = s.st.gen0 ∧ t.st.gen1 = s.st.gen1 ∧ t.st.lease = s.st.lease
      ∧ t.st.path = s.st.path ∧ t.st.wdlim = s.st.wdlim ∧ t.st.canrld = s.st.canrld
      ∧ (∀ x ∈ n.srcs, ∀ k : Fin 48, x.r = .c k → k.val ≠ 0 → d ≠ .c k → (s.st.c[k]).stream = false → s.st.isMbox k = true →
          (t.cell (.c k)).full = false)
      ∧ ((∀ k, d ≠ .s k) → t.g.sr = s.g.sr ∧ t.g.swrites = s.g.swrites)
      ∧ (∀ k, d = .s k → ∃ w : SWrite, t.g.swrites = s.g.swrites ++ [w] ∧ w.idx = k ∧ w.due = s.now + 4 * s.cyc)
      ∧ ((∀ p, d ≠ .link p) → (∀ x ∈ n.srcs, x.fwd = false) → t.linkWords = s.linkWords)
      ∧ t.g.acc = s.g.acc ∧ t.g.mx = s.g.mx
      ∧ (∀ a, t.mem.read a = s.mem.read a) ∧ (∀ a, t.g.spad.read a = s.g.spad.read a) ∧ t.g.spEmpty = s.g.spEmpty
      ∧ t.others = s.others ∧ t.chans = s.chans ∧ t.memTags = s.memTags

/-! ### Reset and what every step keeps -/

/-- R30, R437: before power-good nothing is brought up: no stage, no live region, no die, no group, no launch, no tenant, no
message; and memory is in its canonical form. That a byte which nothing has written reads as zero is the model's choice
(log entry 5). -/
def NothingRunsAtReset : Prop :=
  State.reset.dev.powered = false ∧ State.reset.dev.stage = 0 ∧ State.reset.dev.live = 0 ∧ State.reset.dies = []
    ∧ State.reset.others = [] ∧ State.reset.g.state = .retired ∧ State.reset.launches = [] ∧ State.reset.tenants = []
    ∧ State.reset.chans = [] ∧ State.reset.rets = [] ∧ State.reset.now = 0 ∧ (∀ a, State.reset.mem.read a = unlisted)

/-- Memory, the scratchpad of every group, and that of every group held in an image or a recovery point, are in canonical
form. -/
def MemoryInv (s : State) : Prop :=
  MemoryOk s ∧ (∀ im ∈ s.images, im.group.spad.wf = true) ∧ ∀ p ∈ s.points, ∀ g ∈ p.groups, g.spad.wf = true

/-- The invariant holds at reset. -/
def MemoryInvAtReset : Prop := MemoryInv State.reset
/-- Every step of the machine, whatever it is, keeps the canonical form of memory and of every scratchpad, in images and points too.
The form, and the byte that an unlisted address reads as, are the model's choice (log entry 5). -/
def StepsKeepMemoryInv : Prop := ∀ s t : State, MemoryInv s → step s = .next t → MemoryInv t

end Sys2Proof.Claims

namespace Sys2Proof.Claims

/-! ### The accumulators and the block-dot unit -/

/-- Of the state that stands after an instruction's reads, only accumulators, and the record of who wrote them, have
changed, and the strand is 12 bytes on. -/
def accChange (s t : State) : Prop := t = done (s.modG (fun g => { g with acc := t.g.acc, accW := t.g.accW }))
/-- Element m of row k of an accumulator, or of column k. -/
def lineAt (col : Bool) (k : BitVec 3) (m : Nat) : Nat := if col then 8 * m + k.toNat else 8 * k.toNat + m
/-- When a MADD or MSCL that issues now commits (R193). -/
def unitDue (s : State) (d : Nat) : Prop :=
  d = max (s.now + 8 * s.cyc) (((s.g.mx.getLast?).map (fun f => f.due + s.cyc)).getD 0)
/-- The words of an instruction in the unit are all there, and no channel holds a read of it. -/
def readsDone (s : State) (f : MxFlight) : Prop :=
  (∀ w ∈ f.wa ++ f.wb, w.isSome = true)
    ∧ ∀ c ∈ s.chans, ∀ m ∈ c.2, ∀ b k, m.act ≠ .mxLoad f.num b k
/-- The operand words of an instruction in the unit. -/
def unitWords (l : List (Option Lane)) : List Lane := l.map (fun x => x.getD 0)
/-- The oldest instruction of the unit of the group in front commits: its accumulator takes the results, no other does,
the flags reach the issuer, and the issuer goes on. -/
def committed (s t : State) (f : MxFlight) (r : List (Nat × Flags)) : Prop :=
  (∀ e, e < 64 → t.g.accAt f.op.acc e = BitVec.ofNat 32 (r.getD e (0, 0)).1)
    ∧ (∀ b : Fin 4, b ≠ f.op.acc → t.g.acc[b] = s.g.acc[b])
    ∧ (∀ x ∈ t.g.mx, x.num ≠ f.num)
    ∧ (t.g.st[f.slot]).fcsr = (s.g.st[f.slot]).fcsr ||| BitVec.ofNat 64 (allFlags (r.map (·.2)))
    ∧ (t.g.st[f.slot]).run = .ready ∧ (t.g.st[f.slot]).consumed = false
    ∧ (t.g.st[f.slot]).fcap = ((s.g.st[f.slot]).movePc 12).fcap

end Sys2Proof.Claims

/-- R191, R192: MZERO clears an accumulator; MWR writes one row or column of it from a pair, and no other element. -/
def Sys2Proof.Claims.AccumulatorWrites : Prop :=
  ∀ (n : Needs) (s : State) (h : Head) (ad : Fin 4), s.accConflict ad = none →
    (ReadyFor (.mzero h ad) n s → ∃ t : State, exec (.mzero h ad) s = .next t ∧ accChange s t
      ∧ (∀ e, e < 64 → t.g.accAt ad e = 0) ∧ ∀ b : Fin 4, b ≠ ad → t.g.acc[b] = s.g.acc[b])
    ∧ (∀ col a te k, ReadyFor (.mwr h col ad a te k) n s → ∃ t : State, exec (.mwr h col ad a te k) s = .next t
      ∧ accChange (n.after s) t
      ∧ (∀ m, m < 8 → t.g.accAt ad (lineAt col k m) = laneAt 32 (src n s (m / 4)) (m % 4))
      ∧ (∀ e, e < 64 → (∀ m, m < 8 → e ≠ lineAt col k m) → t.g.accAt ad e = s.g.accAt ad e)
      ∧ ∀ b : Fin 4, b ≠ ad → t.g.acc[b] = s.g.acc[b])

/-- R192, R144: MRD reads a row or column as it stands at issue; both registers of the pair are marked, and the values
arrive 8 cycles later. -/
def Sys2Proof.Claims.MrdResultIsUnderWay : Prop :=
  ∀ (n : Needs) (s : State) (h : Head) (col : Bool) (d : Fin 24) (as : Fin 4) (k : BitVec 3),
    s.accConflict as = none → ReadyFor (.mrd h col d as k) n s →
      ∃ l : Late, exec (.mrd h col d as k) s
          = .next (done ((pairRegs d).foldl State.markOut (s.modG (fun g => { g with late := g.late ++ [l] }))))
        ∧ l.slot = s.slot ∧ l.dst = .pair d ∧ l.lo = s.now + 8 * s.cyc ∧ l.due = l.lo ∧ l.trap = none ∧ l.flags = 0
        ∧ ∀ m, m < 4 → laneAt 32 l.v m = s.g.accAt as (lineAt col k m) ∧ laneAt 32 l.v2 m = s.g.accAt as (lineAt col k (m + 4))

/-- R174, R184 to R187, R193: MDOT, MADD and MSCL enter the unit behind what it holds, mark their accumulator busy, and
their strand parks to the commit. MADD and MSCL commit 8 cycles later, or a cycle after the instruction before them. -/
def Sys2Proof.Claims.UnitInstructionsEnter : Prop :=
  ∀ (n : Needs) (s : State) (h : Head) (rm : RMode) (ad : Fin 4), s.accConflict ad = none →
    let entered (i : Instr) (op : MxOp) (due : Nat → Prop) : Prop :=
      ReadyFor i n s → ∃ (t : State) (f : MxFlight), exec i s = .next t ∧ t.g.mx = s.g.mx ++ [f] ∧ f.op = op ∧ f.slot = s.slot
        ∧ f.trap = none ∧ due f.due ∧ t.g.accBusy ad = true ∧ t.st.run = .parked .commit ∧ t.st.consumed = true
        ∧ t.st.fcap = s.st.fcap ∧ t.g.acc = s.g.acc
    (∀ as, s.accConflict as = none →
      entered (.madd h rm ad as) (.madd ad as s.g.acc[as] (s.mode rm)) (unitDue s))
    ∧ (∀ a, entered (.mscl h rm ad a) (.mscl ad (laneAt 32 (src n s 0) 0) (s.mode rm)) (unitDue s))
    ∧ (∀ inca incb a b x y, mxSource a s.g.size ((n.values s).take (mxCount a)) = .ok x →
        mxSource b s.g.size ((n.values s).drop (mxCount a)) = .ok y → s.g.badBlock (x.offs ++ y.offs) = none →
        entered (.mdot h inca incb ad a b) (.mdot ad (x.inc inca ++ y.inc incb).eraseDups)
          (fun d => d = s.now + (28 + fetchCount (x.offs ++ y.offs)) * s.cyc))

/-- R180, R184, R187, R193: the oldest instruction of a unit, with all its operands read and no enabled flag, commits:
every element of its accumulator by the rule, and its strand goes on. -/
def Sys2Proof.Claims.UnitInstructionsCommit : Prop :=
  ∀ (s : State) (f : MxFlight) (rest : List MxFlight) (r : List (Nat × Flags)), s.g.mx = f :: rest → f.trap = none →
    readsDone s f → s.g.mxResult f (unitWords f.wa) (unitWords f.wb) = .ok r →
    (∀ x ∈ r, x.2 < 32) → Nat.land (allFlags (r.map (·.2))) ((s.g.st[f.slot]).fcsr.extractLsb' 8 5).toNat = 0 →
      ((∃ a inc, f.op = .mdot a inc) →
        ∃ t : State, exec (.mdotCommit s.g.gid) s = .next t ∧ committed s t f r ∧ t.g.mxDone = (s.g.mxDone + 1) % 2 ^ 32)
      ∧ ((∀ a inc, f.op ≠ .mdot a inc) →
        ∃ t : State, exec (.accumulatorCommit s.g.gid) s = .next t ∧ committed s t f r ∧ t.g.mxDone = s.g.mxDone)

/-- R194: MSTAT shows the instructions in flight, the busy marks, the formats and the count of commits; in a deterministic
launch it parks, with nothing written, until the unit is empty. -/
def Sys2Proof.Claims.MstatShowsTheUnit : Prop :=
  ∀ (n : Needs) (s : State) (h : Head) (d : Reg), ReadyFor (.mstat h d) n s →
    ((s.det = false ∨ s.g.mx = []) → s.g.fmtA < 256 → s.g.fmtB < 256 →
      ∃ v : Quad, exec (.mstat h d) s = .next (wrote n s d v) ∧ v.extractLsb' 64 64 = 0
        ∧ (∀ a : Fin 4, v.getLsbD a.val = s.g.accBusy a) ∧ (v.extractLsb' 4 4).toNat = s.g.mx.length % 16
        ∧ (v.extractLsb' 8 8).toNat = s.g.fmtA ∧ (v.extractLsb' 16 8).toNat = s.g.fmtB
        ∧ (v.extractLsb' 32 32).toNat = s.g.mxDone % 2 ^ 32)
    ∧ (s.det = true → s.g.mx ≠ [] → ∃ t : State, exec (.mstat h d) s = .next t ∧ t.st.run = .parked .value
        ∧ t.st.fcap = s.st.fcap ∧ t.st.c = s.st.c ∧ t.g.mx = s.g.mx)

namespace Sys2Proof.Claims

/-! ### Memory -/

/-- An access of a memory instruction: the register with the capability, the displacement, what it asks of its address, the
destination of a load, and the messages that it sends to the homes: address, policy, whether it is one granule, the act. -/
structure Access where
  delta : (Nat → RegCell) → Int
  ask : (Nat → RegCell) → Ask
  dst : Option Reg
  acts : (Nat → RegCell) → Resolved → List (Resolved × Nat × Bool × Act)

/-- One message. -/
def one (pol : Resolved → Nat) (granule : Bool) (act : (Nat → RegCell) → Resolved → Act) (x : Nat → RegCell) (r : Resolved) :
    List (Resolved × Nat × Bool × Act) := [(r, pol r, granule, act x r)]
/-- The messages of a load and of a store: .Q128 is two words (R233). -/
def loadActs (t : Ty) (d : Reg) (_ : Nat → RegCell) (r : Resolved) : List (Resolved × Nat × Bool × Act) :=
  if t = .w7 then [(r, r.pol, false, .loadQ d false), (r.hi, r.pol, false, .loadQ d true)]
  else [(r, r.pol, false, .load t d)]
def storeActs (t : Ty) (v : Quad) (r : Resolved) : List (Resolved × Nat × Bool × Act) :=
  if t = .w7 then [(r, r.pol, false, .store 8 ((v.setWidth 64).setWidth 128)), (r.hi, r.pol, false, .store 8 (v >>> 64))]
  else [(r, r.pol, false, .store (memSize t) v)]

/-- The memory instructions that enter the Easel and go on (R216 to R224). -/
def accesses : Instr → Option Access
  | .ld _ t pol d _ off => some ⟨fun _ => off.toInt, fun _ => { size := memSize t, rd := true, pol := some pol }, some d, loadActs t d⟩
  | .ldx _ t pol d _ _ => some ⟨fun x => (lane0 (x 1)).toInt * memSize t,
      fun _ => { size := memSize t, rd := true, pol := some pol }, some d, loadActs t d⟩
  | .ldc _ pol d _ off => some ⟨fun _ => off.toInt, fun _ => { size := 16, rd := true, pol := some pol }, some d,
      one (·.pol) true (fun x r => .loadCap d (capCLD (x 0).v && r.space != 5))⟩
  | .st _ t pol _ _ off => some ⟨fun _ => off.toInt, fun _ => { size := memSize t, wr := true, pol := some pol }, none,
      fun x => storeActs t (x 1).v⟩
  | .stx _ t pol _ _ _ => some ⟨fun x => (lane0 (x 1)).toInt * memSize t,
      fun _ => { size := memSize t, wr := true, pol := some pol }, none, fun x => storeActs t (x 2).v⟩
  | .stc _ pol _ _ off => some ⟨fun _ => off.toInt,
      fun x => { size := 16, wr := true, pol := some pol, noCtrl := (x 1).tag, extra := stcChecks (x 1) }, none,
      one (·.pol) true (fun x _ => .storeCap (x 1).v (x 1).tag)⟩
  | .feset _ full _ off => some ⟨fun _ => off.toInt, fun _ => { size := 8, wr := true, localOnly := true }, none,
      one (fun _ => 0) false (fun _ _ => .feset full)⟩
  | .amo _ t fn d _ _ off => some ⟨fun _ => off.toInt,
      fun _ => { size := min 8 (memSize t), rd := true, wr := true, noCtrl := true, atHome := true }, some d,
      one (fun _ => 2) false (fun x _ => .amo t fn (x 1).v d)⟩
  | .cas _ t d _ _ off => some ⟨fun _ => off.toInt,
      fun _ => { size := memSize t, rd := true, wr := true, noCtrl := true, atHome := true }, some d,
      one (fun _ => 2) (decide (t = .w7)) (fun x _ => .cas t (x 2).v (x 1).v d)⟩
  | _ => none

/-- The messages enter, one after another. -/
def sent (s : State) : List (Resolved × Nat × Bool × Act) → State
  | [] => s
  | a :: r => sent (s.send a.1 a.2.1 a.2.2.1 false a.2.2.2).2 r
/-- The load is waited for: it is checked (R228), or its destination is an output stream (R263). -/
def heldFor (p : State) (r : Resolved) (dst : Option Reg) : Prop := p.checked r = true ∨ ∃ d, dst = some d ∧ p.outStream d = true
/-- A word whose guard is true, and that has begun. -/
def underway (i : Instr) (n : Needs) (s : State) : Prop :=
  needs i = some n ∧ (n.o.konly = true → s.st.kernel = true) ∧ s.st.guard n.h = true ∧ s.st.consumed = false
/-- A load marks its register. -/
def marked (s : State) : Option Reg → State
  | none => s
  | some d => s.markOut d
/-- The address is good and nothing holds the access back: it resolves, no word of a read is uncorrectable, and a write
waits for no recovery point. -/
def reaches (s : State) (x : RegCell) (delta : Int) (a : Ask) (r : Resolved) : Prop :=
  s.resolve x delta a = .ok r ∧ (a.rd = true → s.badAt r a.size = false) ∧ (a.wr = true → s.heldBack r = none)

/-- The checks of an address in the order of R218 and R46, each with its trap: the tag; the space; the permissions; the checks of STC;
POLO; the bounds of spaces 2 to 5; the alignment of the address as it has wrapped (R57, R218). -/
def addressChecks (s : State) (x : RegCell) (delta : Int) (a : Ask) : List (Bool × Trap) :=
  let q := x.v
  let sp := capSpace q
  let v0 := ((capBase q + capOffset q + delta) % 2 ^ 44).toNat
  let gn := v0 / 2 ^ 28
  let size := ((s.group? ⟨s.g.gid.launch, gn⟩).map Group.size).getD (2 ^ ((s.myLaunch.map (·.log2)).getD 12))
  let v := if sp = 0 then v0 % s.g.size else if sp = 1 then gn * 2 ^ 28 + v0 % 2 ^ 28 % size else v0
  let trap (c : Cause) (d : Nat) (v : Nat) : Trap := ⟨c, 0, d, pointer sp v⟩
  [ (!x.tag, ⟨.captag, 0, 0x01, q.setWidth 64⟩)
  , (decide (7 ≤ sp), trap .captag 0x02 v0)
  , (decide (sp = 6) || (a.noCtrl && decide (sp = 5)) || (a.localOnly && decide (1 < sp)), trap .capperm 0x04 v0)
  , (a.rd && !capLD q, trap .capperm 0x01 v0)
  , (a.wr && !capST q, trap .capperm 0x02 v0)
  , ((a.extra q).isSome, trap .capperm ((a.extra q).getD 0) v0)
  , ((a.pol.map (fun p => p.polo && p.pol == 3)).getD false, trap .capperm 0x05 v0)
  , (decide (2 ≤ sp ∧ (v0 < capBase q ∨ capBase q + capLen q < v0 + a.size)), trap .capbound 0x04 v0)
  , (decide (v % a.size ≠ 0), trap .align 0 v) ]

/-- The synchronising accesses (R203): displacement, whether it writes, and the act. -/
def syncs : Instr → Option (Int × Bool × ((Nat → RegCell) → Act))
  | .lde _ _ _ off => some (off.toInt, false, fun _ => .lde true)
  | .ldf _ _ _ off => some (off.toInt, false, fun _ => .lde false)
  | .stf _ _ _ off => some (off.toInt, true, fun x => .stf (lane0 (x 1)))
  | _ => none
/-- Retries that the strand's access has behind it. -/
def retries (s : State) : Nat := match s.st.prog with | .refused n _ _ _ => n | _ => 0

/-- A message heads its channel, has come to its home, and its home can perform it: it is no half of a granule access, and no
retired bank is its target. -/
def heads (s : State) (ch : ChanId) (m : Msg) (rest : List Msg) : Prop :=
  s.chan ch = m :: rest ∧ m.also = none ∧ s.canPerform ch.home = true ∧ s.deadAt m = none ∧ (s.headArrives ch).1 = true
/-- The home without its channel's first message, its line at hand where it is a slice. -/
def taken (s : State) (ch : ChanId) (m : Msg) (rest : List Msg) : State :=
  ((s.headArrives ch).2.setChan ch rest).prepare ch.home m
/-- The bytes that a home reads for a message, and the tag of their granule; the control die shows a launch its escrow. -/
def found (p : State) (h : Home) (m : Msg) (n : Nat) : List Byte × Bool :=
  match h, m.target with
  | .control, .mem k => (p.ctrlSeen (m.who.map (·.g.launch)) k n, false)
  | _, _ => p.homeRead h m.target n
/-- A value is on its way back. -/
def returning (p : State) (m : Msg) (h : Home) (w : StrandId) (d : Reg) (v : Quad) (tag : Bool) (half : Option Bool) : State :=
  p.sendBack { id := m.id, who := w, owner := m.owner, dst := d, v := v, tag := tag, bad := none, half := half, home := h }
/-- Byte k from a target on. -/
def byteAt (s : State) (t : Target) (k : Nat) : Byte :=
  match t with
  | .sp g off => ((s.group? g).map (fun x => x.spad.read ((off + k) % x.size))).getD unlisted
  | .mem a => s.mem.read (a + k)
/-- Every byte of memory and of every group's scratchpad is as before, but n from a target on. -/
def otherBytes (s t : State) (x : Target) (n : Nat) : Prop :=
  match x with
  | .mem b => (∀ a, a < b ∨ b + n ≤ a → t.mem.read a = s.mem.read a)
      ∧ ∀ i, (t.group? i).map (·.spad) = (s.group? i).map (·.spad)
  | .sp g off => (∀ a, t.mem.read a = s.mem.read a) ∧ (∀ i, i ≠ g → (t.group? i).map (·.spad) = (s.group? i).map (·.spad))
      ∧ ∀ y, s.group? g = some y → ∀ o, (∀ k, k < n → o ≠ (off + k) % y.size) →
          (t.group? g).map (fun z => z.spad.read o) = some (y.spad.read o)
/-- The home is a bank or a module port, where data lies itself, and n bytes fit the target. -/
def fitsHome (s : State) (h : Home) (t : Target) (n : Nat) : Prop :=
  (match h with | .bank _ _ | .mem _ _ | .modPort _ => True | _ => False)
    ∧ match t with
      | .sp g _ => ∃ y, s.group? g = some y ∧ n ≤ y.size
      | .mem _ => True
/-- The home lies on the tile of the strand's group, or neither lies on a tile. -/
def near (s : State) (h : Home) (w : StrandId) : Prop := s.homeLoc h = (s.group? w.g).bind Group.loc
/-- A home has answered a strand that waits: at once where it lies on its tile, else the answer has it or is on its way back (R284). -/
def answeredBy (s t : State) (m : Msg) (h : Home) (w : StrandId) (x : Prog) : Prop :=
  (near s h w → (t.strand? w).map (·.prog) = some x)
    ∧ ((t.strand? w).map (·.prog) = some x ∨ ∃ r ∈ t.rets, r.id = m.id ∧ r.who = w ∧ r.owner = m.owner ∧ r.back = .answer x)
/-- The strand waits for the message. -/
def awaits (s : State) (w : StrandId) (m : Msg) (k : Nat) : Prop := ∃ st, s.strand? w = some st ∧ st.prog = .waiting m.id k
/-- What a strand's instruction has come to. -/
def progOf (s : State) (w : StrandId) : Option Prog := (s.strand? w).map (·.prog)
/-- The mark of a word (R202). -/
def isEmpty (s : State) (g : GroupId) (off : Nat) : Option Bool := (s.group? g).map (fun y => y.spEmpty.contains (off / 8))
/-- Nothing that a fence waits for is under way: no message, no value, from REGION on no dirty line, from DEVICE on no
unacknowledged message or probe in the optical core (R248, R312). -/
def quietFor (s : State) (sc : Scope) : Prop :=
  s.chans = [] ∧ s.rets = [] ∧ (2 ≤ scopeWide sc → ∀ d, s.die? s.g.die = some d → ∀ l ∈ d.lines, l.dirty = 0)
    ∧ (3 ≤ scopeWide sc → s.omcWaits = [] ∧ ∀ p ∈ s.oprobes, s.myProbe p = false)

end Sys2Proof.Claims

/-- R216 to R224, R230, R232, R233: LD, LDX, LDC, ST, STX, STC, FESET, AMO and CAS, in a launch that does not check them, enter
their messages into the channels of their homes, the two words of .Q128 in either order, and go on; a load marks D empty and
outstanding. -/
def Sys2Proof.Claims.MemoryInstructionsEnter : Prop :=
  ∀ (i : Instr) (n : Needs) (s : State) (a : Access) (r : Resolved), accesses i = some a → ReadyFor i n s → s.st.prog = .none →
    let x := cell n s
    reaches (n.after s) (x 0) (a.delta x) (a.ask x) r → ¬ heldFor (n.after s) r a.dst →
      ∃ (l : List (Resolved × Nat × Bool × Act)) (k : Nat), (l = a.acts x r ∨ l = (a.acts x r).reverse)
        ∧ exec i s = .next (done (marked (sent { n.after s with fresh := k } l) a.dst))

/-- R228, R263: in a deterministic launch a checked access parks for its home's answer, and so does a load into an output stream;
with the answer a load's D takes the value, and a conflict traps at the instruction, D as it was. -/
def Sys2Proof.Claims.CheckedAccessWaits : Prop :=
  ∀ (i : Instr) (n : Needs) (s : State) (a : Access), accesses i = some a → needs i = some n →
    (∀ r, n.Met s → s.st.prog = .none → reaches (n.after s) (cell n s 0) (a.delta (cell n s)) (a.ask (cell n s)) r →
      heldFor (n.after s) r a.dst → ∃ t : State, exec i s = .next t ∧ t.st.run = .parked .check ∧ t.st.consumed = true
        ∧ t.st.prog = .waiting (n.after s).nextId 0 ∧ t.st.fcap = s.st.fcap)
    ∧ (∀ v w tag ok, s.st.guard n.h = true → s.st.consumed = true → s.st.prog = .answered v w tag ok →
      (∀ d, a.dst = some d → ∃ tg : Bool, exec i s = .next (done (s.writeReg d v tg)))
        ∧ (a.dst = none → exec i s = .next (done s)))
    ∧ (∀ c d v, s.st.guard n.h = true → s.st.consumed = true → s.st.prog = .failed c d v →
      exec i s = .next (s.unspare.trap ⟨c, d / 256, d % 256, v⟩))

/-- R215, R218: an access whose address does not resolve traps with what the resolution found, and has no effect; a miss
of the translation parks the strand for its walk. -/
def Sys2Proof.Claims.BadAddressTraps : Prop :=
  ∀ (i : Instr) (n : Needs) (s : State) (a : Access), accesses i = some a → ReadyFor i n s → s.st.prog = .none →
    let x := (n.after s).resolve (cell n s 0) (a.delta (cell n s)) (a.ask (cell n s))
    (∀ t, x = .trap t → exec i s = .next (s.trap t))
    ∧ (∀ w, x = .walk w → ∃ (t : State) (k : Nat), exec i s = .next t ∧ t.st.run = .parked .walk
        ∧ t.st.walkWant = some { w with num := k } ∧ t.st.fcap = s.st.fcap ∧ t.st.c = s.st.c ∧ t.chans = s.chans)

/-- R46, R211, R218, R221: the first check of its address that an access fails is its trap: an untagged register, a space of its own
that it may not reach, a permission that is missing, STC's own checks, a reserved policy, the bounds, the alignment; and GROUP
addresses of a group that the launch has not trap OUTSIDE. -/
def Sys2Proof.Claims.AddressChecksInOrder : Prop :=
  ∀ (i : Instr) (n : Needs) (s : State) (delta : Int) (a : Ask),
    ((∃ x, accesses i = some x ∧ delta = x.delta (cell n s) ∧ a = x.ask (cell n s))
      ∨ (∃ wr act, syncs i = some (delta, wr, act) ∧ a = { size := 8, rd := !wr, wr := wr, localOnly := true })) →
    ReadyFor i n s → s.st.prog = .none →
    let x := cell n s 0
    let l := addressChecks (n.after s) x delta a
    (∀ y, l.find? (·.1) = some y → exec i s = .next (s.trap y.2))
    ∧ (∀ d, l.find? (·.1) = none → capSpace x.v = 1 →
        s.groupAt (((capBase x.v + capOffset x.v + delta) % 2 ^ 44).toNat / 2 ^ 28) = .bad d →
        ∃ v : Lane, exec i s = .next (s.trap ⟨.outside, 0, d, v⟩))

/-- R203, R204: LDE, LDF and STF enter their access and park; refused, they enter it again with the operands that they have
read; past SYNCLIM retries they trap SYNCRETRY; answered, LDE and LDF write D and STF is done; a conflict traps. -/
def Sys2Proof.Claims.SynchronisingAccesses : Prop :=
  ∀ (i : Instr) (n : Needs) (s : State) (off : Int) (wr : Bool) (act : (Nat → RegCell) → Act),
    syncs i = some (off, wr, act) →
    let p := n.after s
    (∀ r x, (ReadyFor i n s ∧ s.st.prog = .none ∧ x = cell n s)
        ∨ (underway i n s ∧ (∃ k at_ w c, s.st.prog = .refused k at_ w c) ∧ x = fun k => s.st.kept.getD k {}) →
      reaches p (x 0) off { size := 8, rd := !wr, wr := wr, localOnly := true } r →
        (s.g.synclim < retries s → exec i s = .next (s.trap ⟨.syncretry, 0, 0, pointer r.space r.v⟩))
        ∧ (retries s ≤ s.g.synclim → ∃ t : State, exec i s = .next t ∧ t.st.run = .parked .sync ∧ t.st.consumed = false
            ∧ t.st.prog = .waiting s.nextId (retries s) ∧ t.st.fcap = s.st.fcap ∧ t.st.c = s.st.c
            ∧ t.chans = (p.send r 0 false (p.checked r) (act x)).2.chans))
    ∧ (∀ v w tag ok, underway i n s → s.st.prog = .answered v w tag ok → (∀ d ∈ n.dsts, s.dstBusy d n.o.dwords = false) →
        exec i s = .next (match n.dsts with | d :: _ => wrote n s d v | [] => done p))
    ∧ (∀ c d v, underway i n s → s.st.prog = .failed c d v → (∀ d ∈ n.dsts, s.dstBusy d n.o.dwords = false) →
        exec i s = .next (p.trap ⟨c, d / 256, d % 256, v⟩))

/-- R196, R197, R230, R232, R234, R237: an access joins the end of its home's channel with a new number, a granule of scratchpad that
of both its banks: the bank of a scratchpad word, the control die in CTRL, the slice under policy 0, the memory home under policy 2,
where a line of the die is written back first. The homes' bits of TMASK are set, the memory home's with the slice's, and nothing else
of the machine changes but what the network notes of what it carries. -/
def Sys2Proof.Claims.AccessJoinsItsChannel : Prop :=
  ∀ (s : State) (r : Resolved) (pol : Nat) (granule chk : Bool) (act : Act),
    let h := (s.route r pol).1
    let p := (s.route r pol).2
    let two : List Home := match r.target with
      | .sp g off => if granule then [.bank g (bankOf (off + 8))] else []
      | .mem _ => []
    let marks : List Home := h :: match h, r.target with | .slice _ _, .mem key => [keyHome key] | _, _ => two
    let t := (s.send r pol granule chk act).2
    let rest (x : State) : State := { x with chans := [], dies := x.dies.map (fun d => { d with sendq := [], idleSince := [] }) }
    (∀ g off, r.target = .sp g off → h = .bank g (bankOf off) ∧ p = s)
      ∧ (∀ key, r.target = .mem key →
          (r.space = 5 → h = .control ∧ p = s)
          ∧ (r.space ≠ 5 → key < ctrlBase → pol = 0 → (∃ k, h = .slice s.g.die k) ∧ p = s)
          ∧ (r.space ≠ 5 → key < ctrlBase → pol = 2 → h = keyHome key ∧ p = s.flushLine s.g.die key false
              ∧ (s.line? s.g.die key = none → p = s)))
      ∧ (s.send r pol granule chk act).1 = s.nextId
      ∧ (∀ x ∈ h :: two, ∃ m : Msg, t.chan ⟨s.agent, x⟩ = p.chan ⟨s.agent, x⟩ ++ [m] ∧ m.id = s.nextId ∧ m.act = act
          ∧ m.target = r.target ∧ m.who = some s.me ∧ m.owner = s.st.serial ∧ m.chk = chk)
      ∧ (∀ c : ChanId, c.src ≠ s.agent ∨ c.home ∉ h :: two → t.chan c = p.chan c)
      ∧ rest t = rest { p.modSt (fun st => { st with tmask := marks.foldl (fun k x => k ||| (1#64 <<< homeHash x)) st.tmask })
                        with nextId := s.nextId + 1 }

/-- R219, R221, R223, R224, R232, R233: a home performs the load at the head of a channel, and the value is on its way back, where its
strand is not parked for it; of a load of 16 bytes that is waited for it reads one word, and the message asks for the other. An
AMO stores what its function makes of the old value and B, a CAS stores B where the old value is the one expected. -/
def Sys2Proof.Claims.HomesPerformLoads : Prop :=
  ∀ (s : State) (ch : ChanId) (m : Msg) (rest : List Msg) (w : StrandId) (d : Reg), heads s ch m rest → m.chk = false →
    m.who = some w → s.waitsFor w m.id = false →
    let p := taken s ch m rest
    let back (p : State) (v : Quad) (tag : Bool) (half : Option Bool) := exec (.perform ch) s = .next (returning p m ch.home w d v tag half)
    let read (k : Nat) : Quad := quadOfBytes (found p ch.home m k).1
    let write (n : Nat) (v : Quad) : State := p.homeWrite ch.home m.target (quadBytes n v) false (some w.g.launch)
    (∀ t, m.act = .load t d → t ≠ .w7 → back p (extend t (read (memSize t))) false none)
    ∧ (m.act = .load .w7 d → ∃ (hi : Bool) (v : Lane) (x : Trail), v = (read 16).extractLsb' (if hi then 0 else 64) 64
        ∧ exec (.perform ch) s = .next ({ p with fresh := p.fresh + 1 }.wordLeft ch.home { m with trail := x } hi (.loadRest d hi v)))
    ∧ (∀ hi got, m.act = .loadRest d hi got → ∃ v : Quad, back p v false none
        ∧ v.extractLsb' (if hi then 0 else 64) 64 = got ∧ v.extractLsb' (if hi then 64 else 0) 64 = (read 8).setWidth 64)
    ∧ (∀ hi, m.act = .loadQ d hi → back p (read 8) false (some hi))
    ∧ (∀ cld, m.act = .loadCap d cld → back p (read 16) (cld && (found p ch.home m 16).2) none)
    ∧ (∀ t fn b, m.act = .amo t fn b d →
        let k := if memSize t < 8 then memSize t else 8
        ∃ v : Quad, back (write k (amoValue t fn (read k) b)) v false none
          ∧ ∀ j, j < 8 * k → v.getLsbD j = (read k).getLsbD j)
    ∧ (∀ t e b, m.act = .cas t e b d →
        let k := memSize t
        back (if read k = quadOfBytes (quadBytes k e) then write k b else p) (read k) false none)

/-- R220, R221, R232, R233: a home performs the store at the head of a channel: its bytes are stored, no other byte of memory or
of a scratchpad changes, and the message has left its channel. Of a store of 16 bytes that is waited for it stores one of the words,
and the message brings the other. -/
def Sys2Proof.Claims.HomesPerformStores : Prop :=
  ∀ (s : State) (ch : ChanId) (m : Msg) (rest : List Msg) (n : Nat) (v : Quad), heads s ch m rest → m.chk = false → n ≤ 16 →
    fitsHome s ch.home m.target n →
    ((m.act = .store n v ∧ n ≠ 16) ∨ (∃ tag, m.act = .storeCap v tag ∧ n = 16) →
      ∃ t : State, exec (.perform ch) s = .next t
        ∧ (∀ k, k < n → byteAt t m.target k = v.extractLsb' (8 * k) 8)
        ∧ otherBytes s t m.target n
        ∧ t.chan ch = rest ∧ t.rets = s.rets ∧ t.g.st = s.g.st)
    ∧ (m.act = .store n v → n = 16 → ∃ (t : State) (hi : Bool) (x : Trail) (y : State),
        let word (b : Bool) : Target := if b then m.target.up else m.target
        exec (.perform ch) s = .next t ∧ (∀ k, k < 8 → byteAt t (word (!hi)) k = v.extractLsb' (8 * (k + if hi then 0 else 8)) 8)
        ∧ otherBytes s t (word (!hi)) 8
        ∧ t = y.wordLeft ch.home { m with trail := x } hi (.store 8 ((v.extractLsb' (if hi then 64 else 0) 64).setWidth 128)) ∧ y.chan ch = rest)

/-- R202, R203, R204, R284: at its bank, LDE and LDF take the bytes of a full word, and LDE leaves it empty; STF fills an empty
word; the answer is there at once on the strand's own tile, else on its way; on the wrong mark the access is refused and counts one
more retry. -/
def Sys2Proof.Claims.WordsAreTakenAndFilled : Prop :=
  ∀ (s : State) (ch : ChanId) (m : Msg) (rest : List Msg) (w : StrandId) (g : GroupId) (off k : Nat) (y : Group),
    heads s ch m rest → m.chk = false → m.who = some w → m.target = .sp g off → awaits s w m k → s.group? g = some y →
    8 ≤ y.size → (match ch.home with | .bank _ _ => True | _ => False) →
    ∃ t : State, exec (.perform ch) s = .next t
      ∧ (∀ take, m.act = .lde take → isEmpty s g off = some false →
          answeredBy s t m ch.home w (.answered (quadOfBytes ((List.range 8).map (byteAt s m.target))) 0 false true)
          ∧ isEmpty t g off = some take ∧ ∀ i, (t.group? i).map (·.spad) = (s.group? i).map (·.spad))
      ∧ (∀ v, m.act = .stf v → isEmpty s g off = some true →
          answeredBy s t m ch.home w (.answered 0 0 false true) ∧ isEmpty t g off = some false
          ∧ (∀ j, j < 8 → byteAt t m.target j = v.extractLsb' (8 * j) 8) ∧ otherBytes s t m.target 8)
      ∧ (((∃ take, m.act = .lde take) ∧ isEmpty s g off = some true) ∨ ((∃ v, m.act = .stf v) ∧ isEmpty s g off = some false) →
          progOf t w = some (.refused (k + 1) s.now (off / 8) false) ∧ isEmpty t g off = isEmpty s g off
          ∧ ∀ i, (t.group? i).map (·.spad) = (s.group? i).map (·.spad))

/-- R225, R226: PREF fetches a line and does nothing where its address is bad, or its register empty or poisoned; LINEWB sends a dirty line home and leaves it
clean; LINEINV drops a line with its dirty bytes. -/
def Sys2Proof.Claims.LineInstructions : Prop :=
  ∀ (n : Needs) (s : State) (h : Head) (a : PSrc) (off : BitVec 32) (r : Resolved) (key : Nat) (d : Die), r.lineKey = some key →
    s.die? s.g.die = some d → 2 ≤ r.space → r.space ≤ 4 →
    let p := n.after s
    let sound := (cell n s 0).full = true ∧ (cell n s 0).poison = none
    (ReadyFor (.pref h a off) n s → sound → p.resolve (cell n s 0) off.toInt { size := 1, rd := true } = .ok r →
      ∃ t : State, exec (.pref h a off) s = .next (done t) ∧ (t.line? s.g.die key).isSome = true
        ∧ (∀ l, s.line? s.g.die key = some l → t = p))
    ∧ (ReadyFor (.pref h a off) n s → ¬ sound ∨ (∃ u, p.resolve (cell n s 0) off.toInt { size := 1, rd := true } = .trap u) →
        exec (.pref h a off) s = .next (done p))
    ∧ (ReadyFor (.linewb h a off) n s → p.resolve (cell n s 0) off.toInt { size := 1, rd := true } = .ok r →
        (∀ l, s.line? s.g.die key = some l → l.dirty ≠ 0 → ∃ t : State, exec (.linewb h a off) s = .next (done t)
          ∧ (t.line? s.g.die key).map (·.dirty) = some 0
          ∧ ∃ m : Msg, t.chan ⟨s.agent, keyHome key⟩ = s.chan ⟨s.agent, keyHome key⟩ ++ [m]
            ∧ m.act = .writeBack l.bytes l.dirty l.tags ∧ m.target = .mem (l.key * 64))
        ∧ (s.line? s.g.die key = none ∨ (s.line? s.g.die key).map (·.dirty) = some 0 → exec (.linewb h a off) s = .next (done p)))
    ∧ (ReadyFor (.lineinv h a off) n s → p.resolve (cell n s 0) off.toInt { size := 1, wr := true } = .ok r →
        ∃ t : State, exec (.lineinv h a off) s = .next (done t) ∧ t.line? s.g.die key = none ∧ t.mem = s.mem)

/-- R247 to R251: a fence for which nothing is under way completes at once: one that releases, at DIE scope or wider, clears
the TMASK bits of its mask, and one that acquires, at REGION scope or wider, begins a new fill epoch. An acquiring fence
with a load outstanding waits. TMGET reads TMASK, and TMCLR clears it. -/
def Sys2Proof.Claims.FencesComplete : Prop :=
  ∀ (n : Needs) (s : State) (h : Head) (sc : Scope) (k : FKind) (a : Src) (d : Reg),
    (∀ (i : Instr) (m : Lane), (i = .fence h sc k ∧ m = s.st.tmask) ∨ (i = .fenceh h sc k a ∧ m = s.st.tmask &&& lane0 (cell n s 0)) →
      ReadyFor i n s → s.st.prog = .none →
      (quietFor s sc → ∃ t : State, exec i s = .next t
        ∧ t.st.fcap = (s.st.movePc 12).fcap ∧ t.st.run = .ready ∧ t.st.prog = .none
        ∧ t.st.tmask = (if k = .acq ∨ sc = .tile then s.st.tmask else s.st.tmask &&& ~~~m)
        ∧ (k = .rel ∨ scopeWide sc < 2 → t.st.ae = s.st.ae)
        ∧ (k ≠ .rel → 2 ≤ scopeWide sc → t.st.ae = (((s.die? s.g.die).map (·.de)).getD 0 + 1) % 2 ^ 32)
        ∧ ∀ x, t.mem.read x = s.mem.read x)
      ∧ (k ≠ .rel → s.loadsOut s.me sc m = true → ∃ t : State, exec i s = .next t ∧ t.st.run = .parked .fence
          ∧ t.st.fcap = s.st.fcap ∧ t.st.tmask = s.st.tmask))
    ∧ (ReadyFor (.tmget h d) n s → exec (.tmget h d) s = .next (wrote n s d (quad2 s.st.tmask 0)))
    ∧ (ReadyFor (.tmclr h) n s → exec (.tmclr h) s = .next (done (s.modSt (fun t => { t with tmask := 0 }))))

namespace Sys2Proof.Claims

/-! ### Streams, copies and barriers -/

/-- An instruction that nothing holds back, whose fence inside has completed and left a state. -/
def fenceDone (n : Needs) (s : State) (sc : Scope) (k : FKind) (p : State) : Prop :=
  (n.after s).fenceRun sc k s.st.tmask 0 = (true, p)
/-- A pattern register that STRM accepts (R261). -/
def goodPattern (q : Quad) : Prop :=
  let ew := (q.extractLsb' 0 3).toNat
  q.extractLsb' 4 4 = 0 ∧ ew ≤ 4 ∧ (q.extractLsb' 8 24).toNat ≠ 0
    ∧ (q.getLsbD 3 = true → 2 ^ ew ≤ 2 ∧ (q.extractLsb' 8 24).toNat % 8 = 0)
/-- A descriptor has the fields of a pattern register (R261). -/
def hasPattern (d : StreamD) (q : Quad) : Prop :=
  d.size = 2 ^ (q.extractLsb' 0 3).toNat ∧ d.strip = q.getLsbD 3 ∧ d.count0 = (q.extractLsb' 8 24).toNat
    ∧ d.stride0 = (q.extractLsb' 32 32).toInt ∧ d.count1 = (q.extractLsb' 64 32).toNat
    ∧ d.stride1 = (q.extractLsb' 96 32).toInt
/-- A descriptor at the start of its stream: nothing moved, nothing entered. -/
def isNew (d : StreamD) : Prop :=
  d.moved = 0 ∧ d.next = 0 ∧ d.buffer = [] ∧ d.pieces = [] ∧ d.exhausted = false ∧ d.pause = none

/-- The bulk instructions (R267 to R269): from the cells read, the destination, the source, the index, the barrier, the
checks, what is copied, the bytes of an element, the bytes in all and the pieces. -/
structure Bulk where
  exp : Bool
  kind : BulkKind
  dst : Nat
  src : Nat
  idx : Option Nat
  checks : List (Nat × CapAsk)
  size : Nat
  bytes : (Nat → Quad) → Nat
  pieces : (Nat → Quad) → Nat
/-- Indices and elements of GATHER and SCATTER. -/
def elements (t : Ty) (q : Nat → Quad) (k : Nat) : Nat := min (capRest (q 0) / 4) (capRest (q k) / memSize t)
/-- The instructions; `mode` is the rounding mode in force. -/
def bulks (mode : RMode → RMode) : Instr → Option Bulk
  | .copy _ exp _ _ _ =>
    let n (q : Nat → Quad) := min (capRest (q 2)) (capRest (q 0))
    some ⟨exp, .copy, 2, 0, none, [(2, { st := true, spaces := (· ≤ 5) }), (0, { ld := true, spaces := (· ≤ 5) }), (1, barAsk)], 1,
      n, fun q => (capCursor (q 2) % 64 + n q + 63) / 64⟩
  | .copyc _ rm sat exp src dst _ _ _ =>
    let n (q : Nat → Quad) := min (capRest (q 2) / 64) (capRest (q 0) / 64 * src.count / dst.count)
    some ⟨exp, .copyc src dst (mode rm) sat, 2, 0, none,
      [(2, { st := true, spaces := (· ≤ 5), align := 64 }), (0, { ld := true, spaces := (· ≤ 5), align := 64 }), (1, barAsk)], 64,
      fun q => 64 * n q, n⟩
  | .gather _ t exp _ _ _ =>
    some ⟨exp, .gather, 2, 3, some 0, [(2, { st := true, spaces := (· ≤ 4), align := memSize t }),
      (3, { ld := true, spaces := (· ≤ 4), align := memSize t }), (0, { ld := true, spaces := (· ≤ 4), align := 4 }), (1, barAsk)],
      memSize t, fun q => elements t q 2 * memSize t, fun q => elements t q 2⟩
  | .scatter _ t exp _ _ _ =>
    some ⟨exp, .scatter, 2, 3, some 0, [(2, { st := true, spaces := (· ≤ 4), align := memSize t }),
      (3, { ld := true, spaces := (· ≤ 4), align := memSize t }), (0, { ld := true, spaces := (· ≤ 4), align := 4 }), (1, barAsk)],
      memSize t, fun q => elements t q 3 * memSize t, fun q => elements t q 3⟩
  | _ => none
/-- An operation of the group at its start. -/
def startsAs (o : BulkOp) (b : Bulk) (q : Nat → Quad) (s : State) : Prop :=
  o.kind = b.kind ∧ o.dst = q b.dst ∧ o.src = q b.src ∧ o.idx = (b.idx.map q).getD 0 ∧ o.size = b.size ∧ o.n = b.bytes q
    ∧ o.total = b.pieces q ∧ o.next = 0 ∧ o.pieces = [] ∧ o.pause = none ∧ o.slot = s.slot ∧ o.bar = s.barPlace (q 1)

/-- A barrier can be reached and nothing waits before it: its capability passes the checks, its group is there, its words are sound,
no message is under way, and the launch is not deterministic. -/
def atBar (s : State) (x : RegCell) : Prop :=
  s.checkCap x barAsk = none ∧ s.chans = [] ∧ s.det = false ∧ s.badIn (s.barPlace x.v).1 (s.barPlace x.v).2 16 = none
    ∧ ∃ g, s.groupAt (s.barPlace x.v).1.num = .at_ g ∧ s.apart s.g g = false ∧ g.state ≠ .swapping ∧ s.group? (s.barPlace x.v).1 = some g
      ∧ 4096 ≤ g.size
/-- The phase rule on the fields of a barrier (R256). -/
def phased (b : Bar) : Bar :=
  if b.arrive = 0 ∧ b.sect = 0 then { b with phase := (b.phase + 1) % 16, arrive := b.reload } else b
/-- The mark of a barrier's upper word. -/
def barFull (s : State) (b : GroupId × Nat) : Option Bool :=
  (s.group? b.1).map (fun g => !g.spEmpty.contains (g.barTop b.2))

end Sys2Proof.Claims

/-- R254, R261, R262, R264: STRM, checked and its release complete, opens a stream on D; STRMEND ends an input stream, and an
output stream that has drained, and does nothing to a register in no stream. -/
def Sys2Proof.Claims.StreamsOpenAndEnd : Prop :=
  ∀ (n : Needs) (s : State) (h : Head) (c : Fin 48),
    (∀ out a b p, ReadyFor (.strm h out (.c c) a b) n s → c.val ≠ 0 →
      let x := cell n s 0
      let q := src n s 1
      (n.after s).checkCap x { ld := !out, st := out, spaces := (· ≤ 4), align := 2 ^ (q.extractLsb' 0 3).toNat } = none →
      goodPattern q → ((q.extractLsb' 32 32).toInt % (2 ^ (q.extractLsb' 0 3).toNat : Nat) = 0) →
      ((q.extractLsb' 96 32).toInt % (2 ^ (q.extractLsb' 0 3).toNat : Nat) = 0) → (∀ d : StreamD, hasPattern d q → d.cap = x.v → capSpace x.v < 2 ∨ d.outside = none) →
      (s.g.streams.filter (fun y => !y.exhausted)).length < 32 → fenceDone n s .die .rel p →
        ∃ (t : State) (d : StreamD), exec (.strm h out (.c c) a b) s = .next (done t) ∧ t.g.streams = p.g.streams ++ [d]
          ∧ d.reg = c ∧ d.slot = s.slot ∧ d.output = out ∧ d.cap = x.v ∧ hasPattern d q ∧ isNew d
          ∧ (t.st.c[c]).stream = true ∧ (t.st.c[c]).full = out)
    ∧ (ReadyFor (.strmend h (.c c)) n s → (s.cell (.c c)).stream = false → exec (.strmend h (.c c)) s = .next (done s))
    ∧ (∀ x, ReadyFor (.strmend h (.c c)) n s → c.val ≠ 0 → (s.cell (.c c)).stream = true → s.stream? c = some x → x.output = false →
        ∃ t : State, exec (.strmend h (.c c)) s = .next (done t) ∧ (∀ y ∈ t.g.streams, y.uid ≠ x.uid) ∧ t.st.c[c] = {})
    ∧ (∀ x p, ReadyFor (.strmend h (.c c)) n s → c.val ≠ 0 → (s.cell (.c c)).stream = true → s.stream? c = some x → x.output = true →
        x.pause = none → x.buffer = [] → x.pieces = [] → fenceDone n s .device .acq p →
        ∃ t : State, exec (.strmend h (.c c)) s = .next (done t) ∧ (∀ y ∈ t.g.streams, y.uid ≠ x.uid) ∧ t.st.c[c] = {})

/-- R265: STRMQ shows what remains of a stream, and its state; a register in no stream reads as zero. -/
def Sys2Proof.Claims.StrmqShowsTheStream : Prop :=
  ∀ (n : Needs) (s : State) (h : Head) (d : Reg) (c : Fin 48), ReadyFor (.strmq h d (.c c)) n s →
    ((s.cell (.c c)).stream = false → exec (.strmq h d (.c c)) s = .next (wrote n s d 0))
    ∧ (∀ x, (s.cell (.c c)).stream = true → s.stream? c = some x → x.num < 32 → x.buffer.length < 256 →
        ∃ v : Quad, exec (.strmq h d (.c c)) s = .next (wrote n s d v)
          ∧ v.setWidth 64 = (if x.exhausted then 0 else BitVec.ofNat 64 (x.units - x.moved))
          ∧ (v.extractLsb' 64 5).toNat = x.num ∧ v.getLsbD 69 = x.output ∧ v.getLsbD 70 = x.pause.isSome ∧ v.getLsbD 71 = true
          ∧ (v.extractLsb' 72 8).toNat = if s.det then 0 else x.buffer.length)

/-- R252, R254, R260, R267 to R269: a bulk instruction whose operands pass their checks and whose release is complete adds
its operation to the group, under a free number; without .EXP it first adds its units to SECT of its barrier. A length of
zero does nothing. -/
def Sys2Proof.Claims.BulkOperationsStart : Prop :=
  ∀ (i : Instr) (n : Needs) (s p : State) (b : Bulk), bulks s.mode i = some b → ReadyFor i n s →
    (∀ c ∈ b.checks, (n.after s).checkCap (cell n s c.1) c.2 = none) →
    (b.bytes (src n s) = 0 → exec i s = .next (done (n.after s)))
    ∧ (b.bytes (src n s) ≠ 0 → fenceDone n s .die .rel p → (p.g.ops.filter (fun o => !o.abandoned)).length < 16 →
        (b.exp = true → ∃ (t : State) (o : BulkOp), exec i s = .next (done t) ∧ t.g.ops = p.g.ops ++ [o]
          ∧ startsAs o b (src n s) (n.after s) ∧ o.num < 16 ∧ ∀ y ∈ p.g.ops, y.abandoned = false → y.num ≠ o.num)
        ∧ (∀ o, b.exp = false → atBar p (cell n s 1) → startsAs o b (src n s) (n.after s) →
            let m := (p.bar (p.barPlace (src n s 1))).sect + p.sectors o
            m < 2 ^ 39 → ∃ (t : State) (o : BulkOp), exec i s = .next (done t) ∧ t.g.ops = p.g.ops ++ [o]
              ∧ startsAs o b (src n s) (n.after s)
              ∧ t.bar (p.barPlace (src n s 1)) = phased { p.bar (p.barPlace (src n s 1)) with sect := m }))

/-- R255, R256, R270 to R272: the barrier instructions, once the barrier can be reached. TXBINIT sets it up; TXBARR takes 1
from ARRIVE and gives the phase; TXBEXP adds to SECT; TXBWAIT and TXBTEST find a phase changed, or wait, or answer 0. Each
update of the fields obeys the phase rule. -/
def Sys2Proof.Claims.BarrierInstructions : Prop :=
  ∀ (n : Needs) (s : State) (h : Head) (a : PSrc), atBar (n.after s) (cell n s 0) →
    let b := (n.after s).barPlace (src n s 0)
    let x := s.bar b
    let m := ((n.after s).mark (.bank b.1 (bankOf b.2))).mark (.bank b.1 (bankOf (b.2 + 8)))
    (∀ k, ReadyFor (.txbinit h a k) n s → x.sect = 0 → s.pausedOn b = [] → ∃ t : State, exec (.txbinit h a k) s = .next (done t)
      ∧ t.bar b = ⟨0, k.toNat, 0, k.setWidth 64⟩ ∧ barFull t b = some false)
    ∧ (∀ d, ReadyFor (.txbarr h d a) n s → x.arrive ≠ 0 → ∃ t : State,
        exec (.txbarr h d a) s = .next (done (t.writeReg d (BitVec.ofNat 128 x.phase)))
        ∧ t.bar b = phased { x with arrive := x.arrive - 1 } ∧ barFull t b = some (decide (x.arrive = 1 ∧ x.sect = 0)))
    ∧ (∀ k, ReadyFor (.txbexp h a k) n s → x.sect + k.toNat < 2 ^ 39 → ∃ t : State, exec (.txbexp h a k) s = .next (done t)
        ∧ t.bar b = phased { x with sect := x.sect + k.toNat })
    ∧ (∀ d y p, ReadyFor (.txbwait h d a y) n s → s.st.prog = .none → x.phase ≠ ((src n s 1).extractLsb' 0 4).toNat →
        m.fenceRun .device .acq m.st.tmask 0 = (true, p) → p.det = false →
        exec (.txbwait h d a y) s = .next (done (p.writeReg d (quad2 (p.bar b).hi 0))))
    ∧ (∀ q y p, ReadyFor (.txbtest h q a y) n s → s.st.prog = .none → x.phase ≠ ((src n s 1).extractLsb' 0 4).toNat →
        m.fenceRun .device .acq m.st.tmask 0 = (true, p) → p.det = false →
        exec (.txbtest h q a y) s = .next (done (p.writePred q true)))
    ∧ (∀ d y, ReadyFor (.txbwait h d a y) n s → s.st.prog = .none → x.phase = ((src n s 1).extractLsb' 0 4).toNat → s.pausedOn b = [] →
        ∃ t : State, exec (.txbwait h d a y) s = .next t ∧ t.st.run = .parked .barrier ∧ t.st.fcap = s.st.fcap)
    ∧ (∀ p y, ReadyFor (.txbtest h p a y) n s → s.st.prog = .none → x.phase = ((src n s 1).extractLsb' 0 4).toNat → s.pausedOn b = [] →
        ∃ t : State, exec (.txbtest h p a y) s = .next (done (t.writePred p false)) ∧ t.st.p = s.st.p)

/-- R256, R262, R263, R273: the steps of the copy unit. The next unit of an input stream enters its reads; a unit that has
been read joins the stream's buffer behind those before it; a unit that has landed takes 1 from SECT of its barrier. -/
def Sys2Proof.Claims.CopyUnitSteps : Prop :=
  ∀ (s : State),
    (∀ (d : StreamD) (op : Fin 48) (ws : List EngWord) (p : State), s.g.copying = true → op.val < 32 →
      s.g.streams.find? (fun d => d.num == op.val && !d.exhausted) = some d → s.g.stream? d.uid = some d → d.output = false →
      d.pause = none → d.next < d.units → d.next < d.moved + StreamD.depth → s.streamWords d d.next = (.ok ws, p) →
      p.g.streams = s.g.streams → p.g.gid = s.g.gid →
        ∃ t : State, exec (.copyUnitEnter s.g.gid op) s = .next t
          ∧ t.g.stream? d.uid = some { d with next := d.next + 1
                                              pieces := d.pieces ++ [{ num := d.next, at_ := .reading, need := ws.length }] })
    ∧ (∀ (k : Nat) (g : GroupId) (d : StreamD) (x : Piece) (r : List Piece), s.deliverable[k]? = some (g, d) → d.pieces = x :: r →
        (s.group? g).bind (fun y => y.stream? d.uid) = some d →
          ∃ t : State, exec (.streamDelivery k) s = .next t
            ∧ (t.group? g).bind (fun y => y.stream? d.uid)
              = some { d with pieces := r, buffer := d.buffer ++ [quadOfBytes (x.bytes d.width)] })
    ∧ (∀ (k : Nat) (l : Landed) (g : Group), s.landed[k]? = some l → s.group? l.bar.1 = some g → g.state = .resident →
        4096 ≤ g.size → s.detOf ⟨l.g, l.slot⟩ = false →
        l.stuck = false → ((s.group? l.g).map (·.frozen)).getD false = false →
        -(2 ^ 39) < (s.bar l.bar).sect →
          ∃ t : State, exec (.copyUnitLanding k) s = .next t ∧ t.landed = s.landed.eraseIdx k
            ∧ t.bar l.bar = phased { s.bar l.bar with sect := (s.bar l.bar).sect - 1, hi := l.stat.onto (s.bar l.bar).hi })

namespace Sys2Proof.Claims

/-! ### Messages -/

/-- The group that a message's capability names (R305). -/
def mailGroup (s : State) (c : Quad) : GroupId :=
  ⟨s.g.gid.launch, if capSpace c = 0 then s.g.gid.num else capCursor c / 2 ^ 28⟩
/-- SEND and SENDI (R304): route and payload. -/
def sends : Instr → Option (Option Nat × ((Nat → Quad) → Quad))
  | .send _ route _ _ => some (route.map BitVec.toNat, fun q => q 1)
  | .sendi _ route _ imm => some (route.map BitVec.toNat, fun _ => imm.setWidth 128)
  | _ => none
/-- A message of a SEND at the end of its channel (R289, R305). -/
def isMail (m : Msg) (s : State) (c payload : Quad) (seq : Nat) : Prop :=
  ∃ x : Mail, m.act = .mail x ∧ x.payload = payload ∧ x.inbox = (capCursor c).testBit 11 ∧ x.slot.val = capCursor c / 2 ^ 8 % 8
    ∧ x.reg = capCursor c % 64 ∧ x.sender = s.me ∧ x.owner = s.st.serial ∧ x.fences = s.st.ofences ∧ x.seq = seq
/-- A message at the head of the k-th channel to an inbox, come to its tile, whose group is there and takes messages, and before which
no block of its sender has to land (R246). -/
def meets (s : State) (k : Nat) (ch : ChanId) (m : Mail) (g : Group) : Prop :=
  s.mailChans[k]? = some (ch, g.gid, m) ∧ s.group? g.gid = some g ∧ g.state = .resident ∧ g.frozen = false ∧ g.out = false
    ∧ g.refusals = [] ∧ g.arrivals = [] ∧ s.fencedOff m = false ∧ s.detOf m.sender = false
    ∧ (s.headArrives ch).1 = true
/-- The strand has no probe of an OFENCE on its way. -/
def noProbe (s : State) : Prop := ∀ p ∈ s.oprobes, s.myProbe p = false
/-- The messages of a strand that are not yet acknowledged. -/
def outstandingOf (s : State) (w : StrandId) : Option (List Nat) := (s.strand? w).map (fun t => t.outstanding.map (·.seq))
/-- A message's strand stands where it issued it, and has messages outstanding. -/
def isFrom (s : State) (k : MsgKey) (l : List Nat) : Prop :=
  (s.strand? k.who).map (·.serial) = some k.owner ∧ outstandingOf s k.who = some l

end Sys2Proof.Claims

/-- R289, R292, R295, R304, R305: a SEND or SENDI whose capability passes its checks, whose group exists and can be reached or is
away, and whose strand has fewer than 16 messages outstanding, puts one message into the channel to the group's inbox and goes on. -/
def Sys2Proof.Claims.SendsEnterTheirChannel : Prop :=
  ∀ (i : Instr) (n : Needs) (s : State) (route : Option Nat) (f : (Nat → Quad) → Quad) (g : Group)
    (way : List Leg), sends i = some (route, f) → ReadyFor i n s →
    let p := n.after s
    let c := src n s 0
    p.checkCap (cell n s 0) { snd := true, spaces := (· ≤ 1) } = none → p.group? (mailGroup s c) = some g →
    p.inRectangle g.die = true → p.sendOver g route = .ok way → s.st.outstanding.length < 16 →
      ∃ t : State, exec i s = .next (done t)
        ∧ (∃ m : Msg, t.chan ⟨s.agent, .inbox (mailGroup s c)⟩ = s.chan ⟨s.agent, .inbox (mailGroup s c)⟩ ++ [m]
            ∧ isMail m s c (f (src n s)) (s.st.msgSeq + 1))
        ∧ t.st.outstanding.map (·.seq) = s.st.outstanding.map (·.seq) ++ [s.st.msgSeq + 1]
        ∧ t.st.tmask = s.st.tmask ||| (1#64 <<< homeHash (.inbox (mailGroup s c)))
        ∧ t.st.c = p.st.c ∧ t.g.inbox = s.g.inbox ∧ t.mem = s.mem

/-- R295: with 16 messages outstanding a SEND parks. R312: an OFENCE parks while a relay acknowledgement of its strand's messages
is out, then puts a probe behind its messages to each die, and completes once every probe has gone and all that was sent before
it is accepted. -/
def Sys2Proof.Claims.MessagesOutstandingPark : Prop :=
  ∀ (n : Needs) (s : State),
    (∀ (i : Instr) (route : Option Nat) (f : (Nat → Quad) → Quad) (g : Group) (way : List Leg), sends i = some (route, f) →
      ReadyFor i n s → (n.after s).checkCap (cell n s 0) { snd := true, spaces := (· ≤ 1) } = none →
      (n.after s).group? (mailGroup s (src n s 0)) = some g → (n.after s).inRectangle g.die = true →
      (n.after s).sendOver g route = .ok way → 16 ≤ s.st.outstanding.length →
        ∃ t : State, exec i s = .next t ∧ t.st.run = .parked .messages ∧ t.st.fcap = s.st.fcap ∧ t.st.c = s.st.c
          ∧ t.chans = s.chans ∧ t.st.outstanding = s.st.outstanding)
    ∧ (∀ h, ReadyFor (.ofence h) n s →
        let out (o : Outstanding) : Bool := s.relayedOut (s.myKey o.seq)
        ((∃ o ∈ s.omcWaits, out o = true) → exec (.ofence h) s = .next (s.modSt (fun t => t.park .ofence s.now s.cyc)))
        ∧ ((∀ o ∈ s.omcWaits, out o = false) →
            (noProbe s → s.omcWaits = [] → ∃ t : State, exec (.ofence h) s = .next (done t)
              ∧ t = s.modSt (fun x => { x with ofences := x.ofences + 1 }))
            ∧ (noProbe s → s.omcWaits ≠ [] → ∃ t : State, exec (.ofence h) s = .next t ∧ t.st.run = .parked .ofence
                ∧ t.st.fcap = s.st.fcap ∧ (∀ v, (∃ p ∈ t.oprobes, s.myProbe p = true ∧ p.dst = v) ↔ ∃ o ∈ s.omcWaits, o.die = v))
            ∧ (¬ noProbe s → (∀ p ∈ s.oprobes, s.myProbe p = true → p.sent = true
                  ∧ ∀ o ∈ s.omcWaits, o.die = p.dst → o.seq ≤ p.seq → s.acceptedKey (s.myKey o.seq) = true) →
                ∃ t : State, exec (.ofence h) s = .next (done t) ∧ noProbe t ∧ t.st.ofences = s.st.ofences + 1)))

/-- R290, R291, R295: a message that meets its resident group goes into the mailbox that it names, if that is empty, else,
where it names none, to the end of the inbox; its acknowledgement then starts on its way to the source tile. A full mailbox keeps it in the arrival buffer, with no
acknowledgement. -/
def Sys2Proof.Claims.MessagesArrive : Prop :=
  ∀ (s : State) (k : Nat) (ch : ChanId) (m : Mail) (g : Group), meets s k ch m g → m.done = false →
    ∃ t : State, exec (.messageArrival k) s = .next t
      ∧ (∀ c, g.mailboxOf m = some c → ((g.st[m.slot]).c[c]).full = false →
          (t.group? g.gid).map (fun y => (y.st[m.slot]).c[c]) 
            = some { v := m.payload, out := ((g.st[m.slot]).c[c]).out }
          ∧ ∃ a : Ack, t.msgAcks = s.msgAcks ++ [a] ∧ a.key = m.key ∧ a.hold = false)
      ∧ (g.mailboxOf m = none → g.inbox.length < 32 →
          (t.group? g.gid).map (·.inbox) = some (g.inbox ++ [⟨m.payload, m.description (!m.inbox)⟩])
          ∧ ∃ a : Ack, t.msgAcks = s.msgAcks ++ [a] ∧ a.key = m.key ∧ a.hold = false)
      ∧ (∀ c, g.mailboxOf m = some c → ((g.st[m.slot]).c[c]).full = true →
          (∃ h c : Nat, (t.group? g.gid).map (·.arrivals) = some [{ m with hops := h, cost := c }]) ∧ (t.group? g.gid).map (·.inbox) = some g.inbox ∧ t.msgAcks = s.msgAcks)
      ∧ t.chan ch = (s.chan ch).drop 1

/-- R291, R294, R295, R301: an acknowledgement that has come to the source tile takes its message from the outstanding ones of its
strand, and a HOLD notice stops the message's timer; a message that is not acknowledged within MSGTIM cycles of its strand's tile is
lost: its strand is told and no longer has it outstanding. A header error that any packet meets is counted for its link: where the
resend succeeds the packet stays on its way, else it is dropped: a message leaves its channel, a link word is gone, a response never
comes. Which link it is the model leaves free (log entry 46). -/
def Sys2Proof.Claims.MessagesAreAcknowledgedOrLost : Prop :=
  ∀ (s : State),
    (∀ k a l, s.msgAcks[k]? = some a → (∀ b ∈ s.msgAcks.take k, a.key.is b.key = false) → (s.goAck a).1.legs = [] →
      a.trail.lost = false → isFrom s a.key l → ∃ t : State, exec (.messageAck k) s = .next t ∧ t.msgAcks = s.msgAcks.eraseIdx k
        ∧ (a.hold = false → outstandingOf t a.key.who = some (l.filter (· != a.key.seq)))
        ∧ (a.hold = true → outstandingOf t a.key.who = some l ∧ ∀ y o, t.strand? a.key.who = some y →
            y.outstanding.find? (fun o => o.seq == a.key.seq) = some o → o.since = none))
    ∧ (∀ k a l, s.relayAcks[k]? = some a → isFrom s a.key l → ∃ t : State, exec (.relayAck k) s = .next t
      ∧ t.relayAcks = s.relayAcks.eraseIdx k ∧ outstandingOf t a.key.who = some (l.filter (· != a.key.seq)))
    ∧ (∀ w q t0 g o, s.strand? w = some t0 → s.group? w.g = some g → t0.outstanding.find? (fun o => o.seq == q) = some o →
        g.msgtim ≤ o.counted + ((o.since.map (fun f => (s.now - f) / s.cycOf g)).getD 0) →
        ∃ t : State, exec (.msglost w q) s = .next t ∧ outstandingOf t w = some ((t0.outstanding.map (·.seq)).filter (· != q))
          ∧ (t.strand? w).map (·.ackLost)
            = some (t0.ackLost ++ [⟨.msglost, 0, if o.osend then 2 else 1, BitVec.ofNat 64 q⟩]))
    ∧ (∀ k p, s.packets[k]? = some p → ∃ (t : State) (l : Nat), exec (.headerResend k true) s = .next t
        ∧ t.chans = s.chans ∧ t.groups = s.groups ∧ t.rets = s.rets ∧ t.linkWords = s.linkWords ∧ t.msgAcks = s.msgAcks
        ∧ t.dev.linkErrors = insertKey s.dev.linkErrors l (lookD s.dev.linkErrors l 0 + 1))
    ∧ (∀ k p, s.packets[k]? = some p → ∃ (t : State) (l : Nat), exec (.headerResend k false) s = .next t
        ∧ t.dev.partFaults = insertKey s.dev.partFaults l (lookD s.dev.partFaults l 0 + 1)
        ∧ (∀ m, p = .mail m → ∀ x ∈ t.chans, ∀ y ∈ x.2, ∀ z, y.act = .mail z → z.key.is m.key = false)
        ∧ (∀ w, p = .word w → t.linkWords = s.linkWords.erase w)
        ∧ (∀ r, p = .response r → ∃ x ∈ t.rets, x.id = r.id ∧ x.trail.lost = true))

/-- R306, R307, R309: INPOP takes the oldest entry of the inbox when no other strand waits before it; INPEEK shows it and how
many there are, and zero where there is none; LINKCLR empties the FIFOs of its mask and counts what they held. -/
def Sys2Proof.Claims.InboxAndLinkInstructions : Prop :=
  ∀ (n : Needs) (s : State) (h : Head) (d : Reg), s.det = false →
    (∀ e r, ReadyFor (.inpop h d) n s → s.g.inbox = e :: r → s.g.inboxAhead s.slot = [] → s.g.arrivals = [] → s.g.refusals = [] →
      ∃ t : State, exec (.inpop h d) s = .next (done (t.writeReg d e.payload)) ∧ t.g.inbox = r ∧ t.st.c = s.st.c)
    ∧ (ReadyFor (.inpop h d) n s → s.g.inbox = [] → ∃ t : State, exec (.inpop h d) s = .next t ∧ t.st.run = .parked .inbox
        ∧ t.st.fcap = s.st.fcap ∧ (s.slot ∈ t.g.inboxQ ∨ s.st.again = some .inbox))
    ∧ (ReadyFor (.inpeek h d) n s → s.g.inbox = [] → exec (.inpeek h d) s = .next (wrote n s d 0))
    ∧ (∀ e r, ReadyFor (.inpeek h d) n s → s.g.inbox = e :: r →
        exec (.inpeek h d) s = .next (wrote n s d (quad2 e.desc (BitVec.ofNat 64 s.g.inbox.length))))
    ∧ (ReadyFor (.rtlat h d) n s → s.st.lastMsg = none → exec (.rtlat h d) s = .next (wrote n s d 0))
    ∧ (∀ m, ReadyFor (.rtlat h d) n s → s.st.lastMsg = some m → m.settled = true → m.hops < 2 ^ 16 → ∃ v : Quad,
        exec (.rtlat h d) s = .next (wrote n s d v) ∧ (v.extractLsb' 0 16).toNat = m.hops ∧ v.getLsbD 16 = m.omc
          ∧ v.getLsbD 17 = m.lost ∧ (v.extractLsb' 32 32).toNat = m.latency % 2 ^ 32
          ∧ (v.extractLsb' 64 64).toNat = m.seq % 2 ^ 32)
    ∧ (∀ m, ReadyFor (.rtlat h d) n s → s.st.lastMsg = some m → m.settled = false →
        exec (.rtlat h d) s = .next (s.modSt (fun t => t.park .rtlat s.now s.cyc)))
    ∧ (∀ mask, ReadyFor (.linkclr h d mask) n s → (∀ k : Fin 4, (s.g.links[k]).length ≤ 64) →
        ∃ (t : State) (v : Quad), exec (.linkclr h d mask) s = .next (done (t.writeReg d v))
          ∧ (∀ k : Fin 4, t.g.links[k] = if mask.getLsbD k.val then [] else s.g.links[k])
          ∧ ∀ k : Fin 4, (v.extractLsb' (16 * k.val) 16).toNat = if mask.getLsbD k.val then (s.g.links[k]).length else 0)

/-- R52, R287: the oldest word of a port on its way, once it has come over the mesh where its way goes over it, reaches the far FIFO,
at its end; a word that an MDOT forwards counts once that is known not to trap. -/
def Sys2Proof.Claims.LinkWordsArriveInOrder : Prop :=
  ∀ (s : State) (k : Nat) (w : LinkFly) (g : Group), s.linkWords[k]? = some w →
    (∀ x ∈ s.linkWords.take k, x.dst = w.dst → x.port ≠ w.port) → s.group? w.dst = some g → g.state = .resident →
    s.vouch w = s → (s.goWord w).1 = true →
      ∃ t : State, exec (.linkWordArrival k) s = .next t ∧ t.linkWords = s.linkWords.eraseIdx k
        ∧ (t.group? w.dst).map (fun y => y.links[portIdx w.port]) = some (g.links[portIdx w.port] ++ [w.v])
        ∧ ∀ p : Fin 4, p ≠ portIdx w.port → (t.group? w.dst).map (fun y => y.links[p]) = some g.links[p]

/-- R308, R310, R311, R402, R466: RTLOAD reads its record and sets the route; OSEND, checked, parks while its source goes to the port,
and with the copy made sends its block: over the mesh to a group of its own die, where it is acknowledged once it has come, or into
the send queue; an uncorrectable word of the source traps MACHINE instead. PORT_COPY_DONE ends the park once the bytes have come to
the port. That a block to a frozen group, or beyond what its absent mailbox takes, is refused is the model's reading (log entry 25).
OSLOT shows the step, and zero before stage 3. -/
def Sys2Proof.Claims.RoutesAndBlocks : Prop :=
  ∀ (n : Needs) (s : State) (h : Head),
    (∀ a r, ReadyFor (.rtload h a) n s → s.st.prog = .none →
      (n.after s).checkCap (cell n s 0) { ld := true, spaces := (· ≤ 4), align := 16 } = none →
      reaches (n.after s) (cell n s 0) 0 { size := 16, rd := true, noCtrl := true } r →
        ∃ t : State, exec (.rtload h a) s = .next t ∧ t.st.run = .parked .value ∧ t.st.prog = .waiting s.nextId 0)
    ∧ (∀ a v w tag ok k r, needs (.rtload h a) = some n → s.st.kernel = true → s.st.guard n.h = true → s.st.consumed = true →
        s.st.prog = .answered v w tag ok → routeRecord v = some (k, r) →
        ∃ t : State, exec (.rtload h a) s = .next (done t) ∧ t.g.routes.lookup k = some r
          ∧ ∀ j, j ≠ k → t.g.routes.lookup j = s.g.routes.lookup j)
    ∧ (∀ u d a b l g, ReadyFor (.osend h u d a b) n s →
        let p := n.after s
        let dst := src n s 2
        let from_ := src n s 0
        l = min (capRest dst) (capRest from_) →
        p.checkCap (cell n s 2) { st := true, spaces := (· ≤ 1), align := 64 } = none →
        p.checkCap (cell n s 0) { ld := true, spaces := (· == 0), align := 64 } = none → p.checkCap (cell n s 1) barAsk = none →
        (p.barPlace (src n s 1)).1 = (p.barPlace dst).1 →
        (l = 0 → exec (.osend h u d a b) s = .next (done p))
        ∧ (l ≠ 0 → l ≤ 11504 → p.group? (p.barPlace dst).1 = some g →
          p.inRectangle g.die = true → p.apart p.g g = false → s.st.outstanding.length < 16 →
          (∀ q, s.st.prog = .none → fenceDone n s .die .rel q → ∃ t : State, exec (.osend h u d a b) s = .next t
            ∧ t.st.run = .parked .portCopy ∧ t.st.fcap = q.st.fcap)
          ∧ (∀ bs w, s.st.prog = .copied bs → p.g.badFrom (p.barPlace from_).2 l = some w →
              exec (.osend h u d a b) s = .next (s.trap ⟨.machine, 0, 0x02, pointer 0 (8 * w)⟩))
          ∧ (∀ bs, s.st.prog = .copied bs → p.g.badFrom (p.barPlace from_).2 l = none → ∃ t : State,
              exec (.osend h u d a b) s = .next (done t)
            ∧ t.st.outstanding.map (·.seq) = s.st.outstanding.map (·.seq) ++ [s.st.msgSeq + 1]
            ∧ (g.die = s.g.die → ∃ k : Block, t.blocks = s.blocks ++ [k] ∧ k.dst = g.gid ∧ k.bytes = p.g.readSp (p.barPlace from_).2 l
                ∧ k.ordered = !u ∧ k.off = (p.barPlace dst).2 ∧ k.bar = (p.barPlace (src n s 1)).2 ∧ k.landed = 0
                ∧ (k.coming = true ∨ (g.state = .resident → g.frozen = false → k.refused = false ∧ ∃ x : Ack,
                    t.msgAcks = s.msgAcks ++ [x] ∧ x.key = ⟨s.me, s.st.serial, s.st.msgSeq + 1⟩ ∧ x.hold = false)))
            ∧ (g.die ≠ s.g.die → s.dev.stage = 3 → (s.die? s.g.die).isSome = true → ∃ (e : Die) (m : OmcMsg) (k : Block),
                t.die? s.g.die = some e ∧ m ∈ e.sendq ∧ m.dst = g.die ∧ m.ordered = !u ∧ m.joined = s.now ∧ m.body = .block k
                ∧ k.dst = g.gid ∧ k.bytes = p.g.readSp (p.barPlace from_).2 l))))
    ∧ (∀ d, ReadyFor (.oslot h d) n s → s.det = true ∨ s.dev.stage < 3 → exec (.oslot h d) s = .next (wrote n s d 0))
    ∧ (∀ d x, ReadyFor (.oslot h d) n s → s.det = false → 3 ≤ s.dev.stage → s.die? s.g.die = some x → ∃ v : Quad,
        exec (.oslot h d) s = .next (wrote n s d v) ∧ (v.extractLsb' 0 5).toNat = s.now / Config.omcStepTicks % 32
          ∧ (v.extractLsb' 12 4).toNat = x.plup % 16 ∧ (v.extractLsb' 64 64).toNat = x.relayFree % 2 ^ 64)
    ∧ (∀ (w : StrandId) (g : Group) (st : Strand), s.group? w.g = some g → g.gid = w.g → g.st[w.slot] = st →
        st.run = .parked .portCopy →
        let there := (s.goOn .bulk unitFlits (s.portWay g w.slot)).legs = []
        ∃ t : State, exec (.portCopyDone w) s = .next t
          ∧ (there → t.strand? w = some { st with prog := .copied [], run := .ready })
          ∧ (¬ there → t.strand? w = some st))

namespace Sys2Proof.Claims

/-! ### Signals, watches, pauses and waves -/

/-- The signal's bit. -/
def sigBit (x : Sig) : Lane := 1#64 <<< x.toNat
/-- The strand waits where it stands. -/
def waitsHere (s t : State) (w : Why) : Prop := t.st.run = .parked w ∧ t.st.fcap = s.st.fcap ∧ t.st.p = s.st.p ∧ t.st.c = s.st.c
/-- The strand has paused: it can emit nothing, and its watchdog count is cleared. -/
def hasPaused (t : State) (at_ : Option Sig) : Prop :=
  t.st.run = .paused at_ ∧ t.st.canemit = 0 ∧ t.st.wdcount = 0 ∧ t.st.wdFrom = none
/-- The acquire of a woken strand at its reaction's scope has completed (R243). -/
def acquired (s q : State) : Prop :=
  (s.modSt (fun t => { t with prog := .fenced 2 })).fenceRun s.myScope .acq s.st.tmask 2 = (true, q)
/-- A wave decides nothing that waits: no exact take, no point that falls due. -/
def released (s : State) (g : GroupId) (l : Launch) (w : Wave) : Prop :=
  s.launch? g.launch = some l ∧ l.num = g.launch ∧ l.wave = some w ∧ w.waiting.contains g.num = true
    ∧ s.pointDue l w = false ∧ (w.act = 0 → s.exactWaits l.num w.inst = false)

end Sys2Proof.Claims

/-- R243, R319, R320, R331, R332: EMIT of a signal that the strand may emit adds it to the tile's emissions, and of another traps
UNDECLARED; PRESENT writes P once the signal is decided, behind an acquire where a release of it has come, and parks until then; PREV reads the instant before. -/
def Sys2Proof.Claims.SignalInstructions : Prop :=
  ∀ (n : Needs) (s : State) (h : Head) (p : Pred) (x : Sig),
    (∀ rel q, ReadyFor (.emit h rel x) n s → s.st.canemit.getLsbD x.toNat = true →
        (rel = false ∧ q = s ∨ rel = true ∧ fenceDone n s s.myScope .rel q) →
          ∃ t : State, exec (.emit h rel x) s = .next (done t) ∧ t.g.em = q.g.em ||| sigBit x ∧ t.st = q.st
            ∧ t.g.emits.any (fun e => e.2.1 == x && (e.2.2 || !rel)) = true)
    ∧ (∀ rel, ReadyFor (.emit h rel x) n s → s.st.canemit.getLsbD x.toNat = false →
        exec (.emit h rel x) s = .next (s.trap ⟨.undeclared, 0, 0, BitVec.ofNat 64 x.toNat⟩))
    ∧ (ReadyFor (.present h p x) n s → s.st.prog = .none → s.g.test s.now x = some true → s.g.relHere s.now x = false →
        exec (.present h p x) s = .next (wroteP n s p true))
    ∧ (ReadyFor (.present h p x) n s → s.st.prog = .none → s.g.test s.now x = some false →
        exec (.present h p x) s = .next (wroteP n s p false))
    ∧ (ReadyFor (.present h p x) n s → s.st.prog = .none → s.g.test s.now x = none →
        ∃ t : State, exec (.present h p x) s = .next t ∧ waitsHere s t (.signal x none))
    ∧ (∀ v w tag ok, ReadyFor (.present h p x) n s → s.st.prog = .answered v w tag ok →
        (v = 0 ∨ (w ≠ 1 ∧ s.g.relHere s.now x = false) → exec (.present h p x) s = .next (wroteP n s p (decide (v ≠ 0))))
        ∧ ∀ q, v ≠ 0 → (w = 1 ∨ s.g.relHere s.now x = true) → acquired s q →
            exec (.present h p x) s = .next (done (q.writePred p true)))
    ∧ (ReadyFor (.prev h p x) n s → exec (.prev h p x) s = .next (wroteP n s p (s.g.prevEm.getLsbD x.toNat)))

/-- R326, R327, R334: WATCH opens the next entry with its handler, UNWATCH closes the last; four are open at most. -/
def Sys2Proof.Claims.WatchesOpenAndClose : Prop :=
  ∀ (n : Needs) (s : State) (h : Head),
    (∀ k x off, ReadyFor (.watch h k x off) n s → ∃ (t : State) (e : Fin 4), exec (.watch h k x off) s = .next (done t)
      ∧ e.val = s.st.wdepth ∧ t.st.wdepth = s.st.wdepth + 1 ∧ (t.st.watch[e]).sig = x ∧ (t.st.watch[e]).fired = false
      ∧ (t.st.watch[e]).armed = false ∧ (t.st.watch[e]).handler = (s.st.movePc (12 * off.toInt)).fcap
      ∧ ((t.st.watch[e]).kind.toNat = match k with | .strong => 1 | .weak => 2 | .suspend => 3)
      ∧ ∀ j : Fin 4, j ≠ e → t.st.watch[j] = s.st.watch[j])
    ∧ (ReadyFor (.unwatch h) n s → s.st.wdepth ≤ 4 → ∃ (t : State) (e : Fin 4), exec (.unwatch h) s = .next (done t)
      ∧ e.val + 1 = s.st.wdepth ∧ t.st.wdepth = e.val ∧ (t.st.watch[e]).kind = 0 ∧ (t.st.watch[e]).fired = false
      ∧ ∀ j : Fin 4, j ≠ e → t.st.watch[j] = s.st.watch[j])
    ∧ (∀ k x off, begins (.watch h k x off) n s → 4 ≤ s.st.wdepth →
        exec (.watch h k x off) s = .next (s.trap ⟨.illegal, 0, 0x0D, 0⟩))
    ∧ (begins (.unwatch h) n s → s.st.wdepth = 0 →
        exec (.unwatch h) s = .next (s.trap ⟨.illegal, 0, 0x0E, 0⟩))

/-- R335, R336: CANEMIT sets the mask of the next instants and takes from that of this one; DISCLAIM takes from it; INSTANT
reads the instant. -/
def Sys2Proof.Claims.EmissionMasks : Prop :=
  ∀ (n : Needs) (s : State) (h : Head) (d : Reg) (a : Src),
    (ReadyFor (.canemit h d a) n s → exec (.canemit h d a) s = .next (done (((n.after s).modSt (fun t =>
        { t with canrld := lane0 (cell n s 0), canemit := t.canemit &&& lane0 (cell n s 0) })).writeReg d (quad2 s.st.canrld 0))))
    ∧ (ReadyFor (.disclaim h a) n s → exec (.disclaim h a) s = .next (done ((n.after s).modSt (fun t =>
        { t with canemit := t.canemit &&& ~~~(lane0 (cell n s 0)) }))))
    ∧ (ReadyFor (.instant h d) n s → exec (.instant h d) s = .next (wrote n s d (quad2 s.g.instant 0)))

/-- R243, R330, R333, R337, R338: with its release complete, PAUSE pauses behind itself, AWAIT pauses at itself, and RBAR
parks; woken by the release of its barrier RBAR acquires and is done, and AWAIT, answered, is done. REXCUSE.ON takes a strand
out of the instants at once, and REXCUSE.OFF brings it back at the next. -/
def Sys2Proof.Claims.PausesAndReactionBarriers : Prop :=
  ∀ (n : Needs) (s q : State) (h : Head) (d : Reg) (x : Sig),
    (ReadyFor (.pause h) n s → s.st.prog = .none → fenceDone n s s.myScope .rel q →
      ∃ t : State, exec (.pause h) s = .next t ∧ hasPaused t none ∧ t.st.fcap = (q.st.movePc 12).fcap)
    ∧ (ReadyFor (.await h x) n s → s.st.prog = .none → fenceDone n s s.myScope .rel q →
        ∃ t : State, exec (.await h x) s = .next t ∧ hasPaused t (some x) ∧ t.st.fcap = q.st.fcap)
    ∧ (∀ v w tag ok, ReadyFor (.await h x) n s → s.st.prog = .answered v w tag ok →
        (w ≠ 1 → s.g.relHere s.now x = false → exec (.await h x) s = .next (done (s.modSt (fun t => { t with awaitSig := none }))))
        ∧ ∀ r, (w = 1 ∨ s.g.relHere s.now x = true) → acquired s r →
            exec (.await h x) s = .next (done (r.modSt (fun t => { t with awaitSig := none }))))
    ∧ (ReadyFor (.rbar h) n s → s.st.prog = .none → fenceDone n s s.myScope .rel q →
        ∃ t : State, exec (.rbar h) s = .next t ∧ t.st.run = .parked .rbar ∧ t.st.fcap = q.st.fcap)
    ∧ (ReadyFor (.rbar h) n s → s.st.prog = .fenced 2 → s.fenceRun s.myScope .acq s.st.tmask 2 = (true, q) →
        exec (.rbar h) s = .next (done q))
    ∧ (ReadyFor (.rexcuseOn h d) n s → ∃ t : State, exec (.rexcuseOn h d) s = .next (done (t.writeReg d (quad2 s.g.instant 0)))
        ∧ t.st.excused = true ∧ (s.st.excused = false → t.st.canemit = 0) ∧ (s.st.excused = true → t.st.canemit = s.st.canemit))
    ∧ (ReadyFor (.rexcuseOff h d) n s → s.st.prog = .none → s.st.excused = false →
        exec (.rexcuseOff h d) s = .next (wrote n s d (quad2 s.g.instant 0)))
    ∧ (ReadyFor (.rexcuseOff h d) n s → s.st.prog = .none → s.st.excused = true →
        ∃ t : State, exec (.rexcuseOff h d) s = .next t ∧ waitsHere s t .rejoin ∧ t.st.rejoin = true)

/-- R45, R314, R317 to R319, R321, R324, R337: a parked strand tries again when it wakes. A sample combines what the groups of a
launch on tiles that are not excused show, their stored strands included;
its release makes every signal in EM present at the tile and every signal in neither EM nor CE absent, wakes the strands that it
has counted at RBAR where they are all that is active, and with no strand active it starts the next instant: INSTANT counts, PREV takes the emissions, and these are cleared. -/
def Sys2Proof.Claims.WavesDecide : Prop :=
  ∀ (s : State),
    (∀ (w : StrandId) (g : Group) (t0 : Strand) (y : Why), s.group? w.g = some g → t0 = g.st[w.slot] → t0.run = .parked y →
      (∀ x e, y ≠ .signal x e) → y.answered = false → t0.stopped = false → g.st.toList.any Strand.atGbar = false →
        ∃ t : State, exec (.strandWake w) s = .next t ∧ t.strand? w = some { t0 with run := .ready })
    ∧ (∀ (n : Nat) (l : Launch), s.launch? n = some l → l.num = n → l.wave = none → l.started = true → l.status = none →
        ∃ (t : State) (w : Wave), exec (.waveSample n) s = .next t ∧ (t.launch? n).map (·.wave) = some (some w)
          ∧ (∀ b, w.em.getLsbD b = true ↔ ∃ g ∈ s.groups, g.gid.launch = n ∧ s.passedOver g = false ∧ g.em.getLsbD b = true)
          ∧ (∀ b, (∃ g ∈ s.groups, g.gid.launch = n ∧ s.passedOver g = false ∧ ∃ t ∈ g.allStrands, t.active = true
              ∧ t.canemit.getLsbD b = true) → w.ce.getLsbD b = true)
          ∧ (w.act = 0 → ∀ g ∈ s.groups, g.gid.launch = n → s.passedOver g = false → ∀ t ∈ g.allStrands, t.active = false)
          ∧ (∀ g ∈ s.groups, g.gid.launch = n → g.gid.num ∈ w.waiting))
    ∧ (∀ (g : GroupId) (l : Launch) (w : Wave) (x : Group), released s g l w → s.group? g = some x → w.act ≠ 0 → w.cycle = false →
        ∃ t : State, exec (.waveRelease g) s = .next t ∧ (t.group? g).map (·.present) = some (x.present ||| w.em)
          ∧ (t.group? g).map (·.absentS) = some (x.absentS ||| ~~~(w.em ||| w.ce))
          ∧ (t.group? g).map (·.instant) = some x.instant
          ∧ (w.rbn = w.act → ∀ k : Fin 8, (x.st[k]).atRbar = true → w.counts x.st[k] ⟨g, k⟩ = true →
              (t.strand? ⟨g, k⟩).map (·.run) = some .ready))
    ∧ (∀ (g : GroupId) (l : Launch) (w : Wave) (x : Group), released s g l w → s.group? g = some x → w.act = 0 →
        s.rets = [] → s.reactionScope l = .die →
        ∃ t : State, exec (.waveRelease g) s = .next t ∧ (t.group? g).map (·.instant) = some (x.instant + 1)
          ∧ (t.group? g).map (·.prevEm) = some w.em ∧ (t.group? g).map (·.em) = some 0 ∧ (t.group? g).map (·.present) = some 0
          ∧ (t.group? g).map (·.absentS) = some 0
          ∧ (w.waiting = [g.num] → (t.launch? l.num).map (·.wave) = some none))
namespace Sys2Proof.Claims

/-! ### Groups, tasks and launches -/

/-- The scope of the issuing strand's steal domain (R348), and the fence of an instruction that waits for it. -/
def stealFence (n : Needs) (s : State) (p : State) : Prop := fenceDone n s (n.after s).stealScope .rel p
/-- A task record as FORK makes it (R347, R363). -/
def isTask (r : TaskRec) (s : State) (a b : RegCell) (off : BitVec 32) : Prop :=
  (r.target.toNat : Int) = ((s.st.pc : Int) + 12 * off.toInt) % 2 ^ 44 ∧ r.a = ⟨a.v, a.tag⟩ ∧ r.b = ⟨b.v, b.tag⟩
    ∧ r.path = (s.st.path <<< 6) ||| BitVec.ofNat 64 s.st.nchild ∧ r.parent = s.me ∧ r.parentTag = s.st.serial
    ∧ r.cur = s.st.canemit ∧ r.rld = s.st.canrld
/-- A strand stands at the start of a task (R348): pc at the target, the two arguments in c1 and c2, the sets of its maker. -/
def atTask (t : Strand) (l : Launch) (r : TaskRec) : Prop :=
  t.run = .ready ∧ t.fcap = ⟨l.codeCap r.target.toNat, true⟩ ∧ (t.c[1]).v = r.a.v ∧ (t.c[1]).tag = r.a.tag
    ∧ (t.c[2]).v = r.b.v ∧ (t.c[2]).tag = r.b.tag ∧ t.canemit = r.cur ∧ t.canrld = r.rld ∧ t.path = r.path ∧ t.task = true
    ∧ t.parent = some r.parent ∧ t.parentTag = r.parentTag ∧ t.kernel = false ∧ t.outc = 0
/-- A group as a state holds it. -/
def groupIs (s : State) (i : GroupId) (p : Group → Prop) : Prop := ∃ g, s.group? i = some g ∧ p g
/-- A strand as a state holds it. -/
def strandIs (s : State) (w : StrandId) (p : Strand → Prop) : Prop := ∃ t, s.strand? w = some t ∧ p t
/-- A launch as a state holds it. -/
def launchIs (s : State) (n : Nat) (p : Launch → Prop) : Prop := ∃ l, s.launch? n = some l ∧ p l

/-- R363: FORK, its release complete, pushes a record onto its group's deque, or with DET onto the deque of the group that the path
picks in the steal domain, and writes 1; at 64 records it writes 0, and with DET it parks. The 65th child of a strand is ILLEGAL. -/
def ForksPushTasks : Prop :=
  ∀ (n : Needs) (s p : State) (h : Head) (q : Pred) (a b : PSrc) (off : BitVec 32), ReadyFor (.fork h q a b off) n s →
    s.st.prog = .none → stealFence n s p → p.st.run = .ready →
    let q' := p.forkTarget ((p.st.path <<< 6) ||| BitVec.ofNat 64 p.st.nchild)
    (p.det = false → p.g.deque.length < 64 → ∃ (t : State) (r : TaskRec), exec (.fork h q a b off) s = .next (done t)
      ∧ t.g.deque = p.g.deque ++ [r] ∧ isTask r p (cell n s 0) (cell n s 1) off ∧ t.st.pred q = true
      ∧ t.st.nchild = p.st.nchild + 1 ∧ t.st.outc = p.st.outc + 1)
    ∧ (p.det = false → 64 ≤ p.g.deque.length → exec (.fork h q a b off) s = .next (done (p.writePred q false)))
    ∧ (p.det = true → q'.deque.length < 64 → ∃ (t : State) (r : TaskRec), exec (.fork h q a b off) s = .next (done t)
        ∧ groupIs t q'.gid (fun y => y.deque = q'.deque ++ [r]) ∧ isTask r p (cell n s 0) (cell n s 1) off
        ∧ t.st.pred q = true ∧ t.st.nchild = p.st.nchild + 1 ∧ t.st.outc = p.st.outc + 1)
    ∧ (p.det = true → 64 ≤ q'.deque.length →
        ∃ t : State, exec (.fork h q a b off) s = .next t ∧ t.st.run = .parked .dequeFull ∧ t.st.fcap = p.st.fcap)

/-- R351, R364, R365: JOIN with no child outstanding acquires at the steal scope and goes on, else it parks; both it and
YIELD are yield points: the watchdog count is cleared, and a rotation or a stop meets the strand there. -/
def JoinsAndYields : Prop :=
  ∀ (n : Needs) (s q : State) (h : Head),
    (ReadyFor (.join h) n s → s.st.prog = .none → s.st.outc = 0 →
      (s.modSt (fun t => { t with prog := .fenced 2, clock := joinClock t.clock t.kidClock })).fenceRun s.stealScope .acq
        s.st.tmask 2 = (true, q) →
      ∃ t : State, exec (.join h) s = .next (done t) ∧ t.st.wdcount = 0 ∧ t.st.fcap = q.st.fcap ∧ t.st.c = q.st.c)
    ∧ (ReadyFor (.join h) n s → 0 < s.st.outc → s.g.deque = [] →
        ∃ t : State, exec (.join h) s = .next t ∧ waitsHere s t .join)
    ∧ (ReadyFor (.yield h) n s → ∃ t : State, exec (.yield h) s = .next (done t) ∧ t.st.wdcount = 0
        ∧ t.st.held = (s.st.held || s.holding s.g) ∧ t.st.stopped = (s.st.stopped || s.g.stop.isSome) ∧ t.st.c = s.st.c)

/-- The strand of a state is gone: its slot is idle, its parent is told, and a GBAR that waited for it may be complete. -/
def halted (q : State) : State := ((q.clearSlot).reportDone q.st).releaseGbar q.g.gid

/-- HALT goes on from a state in which no child is out: its release, the wait for its messages, then the strand is gone. -/
def haltsFrom (u : State) (k : Option (BitVec 16)) (answer : Out) : Prop :=
  ∀ q, (u.modSt (fun t => { t with clock := joinClock t.clock t.kidClock, kidClock := [] })).fenceRun .device .rel
      u.st.tmask 3 = (true, q) →
    (q.st.outstanding ≠ [] → ∃ t : State, answer = .next t ∧ t.st.run = .parked .yieldMessages ∧ t.st.fcap = q.st.fcap)
    ∧ (q.st.outstanding = [] → answer = .next (match k with
        | none => halted q
        | some m => let x := halted q; if x.mayRetire x.g then (x.retire x.g).handOver x.g m.toNat else x))

/-- R366: HALT parks while a child of its strand is outstanding, and acquires as JOIN does once none is; then it releases, and
waits for the messages that are not acknowledged; then the strand is gone. HALT.RETAIN hands the allocation of a group that may
retire to the group it names. -/
def HaltsEndTheirStrand : Prop :=
  ∀ (n : Needs) (s : State) (h : Head) (k : Option (BitVec 16)), ReadyFor (.halt h k) n s →
    (s.st.prog = .none → 0 < s.st.outc → s.g.deque = [] → ∃ t : State, exec (.halt h k) s = .next t ∧ waitsHere s t .join
      ∧ t.st.prog = .fenced 0)
    ∧ (s.st.prog = .none → s.st.outc = 0 → haltsFrom s k (exec (.halt h k) s))
    ∧ ∀ u, s.st.prog = .fenced 0 → s.st.outc = 0 →
        (s.modSt (fun t => { t with prog := .fenced 2, clock := joinClock t.clock t.kidClock })).fenceRun s.stealScope .acq
          s.st.tmask 2 = (true, u) → haltsFrom u k (exec (.halt h k) s)

/-- R315, R364, R366: a strand that has halted leaves an idle slot with new registers and its generator, nothing that it may
emit, and no probe of an OFENCE, and its parent has one child less. -/
def HaltedStrandsAreGone : Prop :=
  ∀ q : State, (halted q).st.run = .idle ∧ (halted q).st.c = Vector.replicate 48 {} ∧ (halted q).st.gen0 = q.st.gen0
    ∧ (halted q).st.gen1 = q.st.gen1 ∧ (halted q).st.canemit = 0 ∧ (∀ p ∈ (halted q).oprobes, q.myProbe p = false)
    ∧ ∀ w x y, q.st.task = true → q.st.parent = some w → w ≠ q.me → w.g.launch = q.g.gid.launch → q.group? w.g = some y →
        y.state ≠ .retired → x = y.st[w.slot] → x.serial = q.st.parentTag → strandIs (halted q) w (fun z => z.outc = x.outc - 1)

/-- The number that a tenant's next launch takes: 1 upwards in 32 bits, and never 0, which names none (R355, R367). -/
def numberOf (x : Tenant) : Nat := (x.nextLaunch - 1) % (2 ^ 32 - 1) + 1

/-- R367, R340, R355: LAUNCH of a good capability parks, committed, for the copy of its descriptor; with the copy made it
queues the launch and gives its number, and with 64 launches queued it gives 0. The descriptor's copy ends the park. -/
def LaunchesAreQueued : Prop :=
  ∀ (n : Needs) (s p : State) (h : Head) (d : Reg) (a : PSrc), ReadyFor (.launch h d a) n s →
    (n.after s).checkCap (cell n s 0) { ld := true, spaces := fun n => 2 ≤ n && n ≤ 4, align := 64 } = none →
    (s.st.prog = .none → fenceDone n s .device .rel p → ∃ t : State, exec (.launch h d a) s = .next t
      ∧ t.st.run = .parked .launchCopy ∧ t.st.fcap = p.st.fcap)
    ∧ (∀ bs dsc me x, s.st.prog = .copied bs → (n.after s).readDescriptor (src n s 0) = (.ok dsc, p) → p.myLaunch = some me →
        p.tenant? p.myTenant = some x →
        (p.deviceQueue p.myTenant < 64 → ∃ t : State,
          exec (.launch h d a) s = .next (done (t.writeReg d (quad2 (BitVec.ofNat 64 (numberOf x)) 0)))
          ∧ t.launches.length = p.launches.length + 1
          ∧ ∃ l, t.launches[p.launches.length]? = some l ∧ l.num = p.launches.length + 1 ∧ l.tnum = numberOf x
            ∧ l.tenant = p.myTenant ∧ l.after = some me.num ∧ l.entry = (dsc.extractLsb' 0 64).toNat
            ∧ l.groups = (dsc.extractLsb' 64 32).toNat ∧ l.strands = (dsc.extractLsb' 96 4).toNat ∧ l.det = dsc.getLsbD 116)
        ∧ (64 ≤ p.deviceQueue p.myTenant → exec (.launch h d a) s = .next (done (p.writeReg d 0))))
    ∧ ∀ (w : StrandId) (st : Strand), s.strand? w = some st → st.run = .parked .launchCopy →
        ∃ t : State, exec (.descriptorCopied w) s = .next t ∧ t.strand? w = some { st with prog := .copied [], run := .ready }

/-- R368: TRIGGER, its release complete, triggers its group. R370: LWAIT gives the status of a launch that has ended, 0xFF for
a number that names none, parks for one that has not, and is ILLEGAL for a dependent launch before the trigger. -/
def TriggersAndLaunchWaits : Prop :=
  ∀ (n : Needs) (s p : State) (h : Head) (d : Reg) (a : PSrc),
    (ReadyFor (.trigger h) n s → s.st.prog = .none → fenceDone n s .device .rel p →
      exec (.trigger h) s = .next (done (p.modG (fun g => { g with trig := true }))))
    ∧ (ReadyFor (.lwait h d a) n s → s.st.prog = .none →
        let q := n.after s
        let k := (lane0 (cell n s 0)).toNat % 2 ^ 32
        let mine := ∃ l ∈ s.launches, l.tenant = s.myTenant ∧ l.tnum = k ∧ l.after = some s.g.gid.launch
        (mine → s.g.trig = false → exec (.lwait h d a) s = .next (s.trap ⟨.illegal, 0, 0x0F, 0⟩))
        ∧ ((mine → s.g.trig = true) → q.endStatus q.myTenant k = none → ∃ t : State, exec (.lwait h d a) s = .next t
            ∧ t.st.run = .parked .lwait ∧ t.st.fcap = s.st.fcap)
        ∧ (∀ v, (mine → s.g.trig = true) → q.endStatus q.myTenant k = some v → fenceDone n s .device .acq p →
            exec (.lwait h d a) s = .next (done (p.writeReg d (quad2 (BitVec.ofNat 64 v) 0)))))

/-- R369: WHO writes the field that it names: group, slot, logical tile, virtual die, groups of the launch, its number, and
the group that left its allocation, or 0. -/
def WhoNamesThePlace : Prop :=
  ∀ (n : Needs) (s : State) (h : Head) (d : Reg) (f : BitVec 4), ReadyFor (.who h d f) n s →
    ∃ x : Nat, exec (.who h d f) s = .next (wrote n s d (quad2 (BitVec.ofNat 64 x) 0))
      ∧ (f = 0 → x = s.g.gid.num) ∧ (f = 1 → x = s.slot.val) ∧ (f = 3 → x = s.g.logical / 12 * 256 + s.g.logical % 12)
      ∧ (f = 4 → x = s.g.die) ∧ (∀ l, s.myLaunch = some l → (f = 5 → x = l.groups) ∧ (f = 6 → x = l.tnum))
      ∧ (f = 7 → x = s.g.inherit)

/-- R371, R243: GBAR, its release complete, parks while another active strand of the group is not at GBAR; the last to come
wakes them all, itself too; woken, a strand acquires and goes on. -/
def GroupBarriers : Prop :=
  ∀ (n : Needs) (s q : State) (h : Head), ReadyFor (.gbar h) n s →
    (s.st.prog = .none → fenceDone n s .tile .rel q →
      ((∃ k : Fin 8, k ≠ q.slot ∧ (q.g.st[k]).active = true ∧ (q.g.st[k]).atGbar = false) →
        ∃ t : State, exec (.gbar h) s = .next t ∧ t.st.run = .parked .gbar ∧ t.st.fcap = q.st.fcap)
      ∧ ((∀ k : Fin 8, k ≠ q.slot → (q.g.st[k]).active = true → (q.g.st[k]).atGbar = true) → ∃ t : State,
          exec (.gbar h) s = .next t ∧ t.st.run = .ready
          ∧ ∀ k : Fin 8, k ≠ q.slot → (q.g.st[k]).active = true → (t.g.st[k]).run = .ready))
    ∧ (s.st.prog = .fenced 2 → s.fenceRun .tile .acq s.st.tmask 2 = (true, q) → exec (.gbar h) s = .next (done q))

/-! ### The control die's queue and the dispatchers -/

/-- R130, R340, R341, R355: a queued launch takes the next number of its tenant, of 32 bits, and the code that stands in memory; a
refused descriptor ends it with status 2 at once, and any other gives each of its groups a record that waits on its die. -/
def QueuedLaunchesWait : Prop :=
  ∀ (s : State) (tn : Nat) (x : Tenant) (dsc : BitVec 512) (cb cl : Nat) (root : Option (Nat × Nat)) (sd : List Byte),
    s.tenant? tn = some x → 1 ≤ s.dev.stage →
      ∃ (t : State) (l : Launch), exec (.launchQueue tn dsc cb cl root sd) s = .next t ∧ t.launches = s.launches ++ [l]
        ∧ l.num = s.launches.length + 1 ∧ l.tnum = numberOf x ∧ l.tenant = tn ∧ l.after = none ∧ l.codeBase = cb
        ∧ (s.refuses dsc (s.tenantDies tn) = true → l.status = some 2 ∧ t.hostOut = s.hostOut ++ [.ended l.num 2]
            ∧ t.others = s.others)
        ∧ (s.refuses dsc (s.tenantDies tn) = false → l.status = none ∧ l.started = true ∧ l.code = s.readCode { l with code := none }
            ∧ t.hostOut = s.hostOut
            ∧ t.others.length = s.others.length + (dsc.extractLsb' 64 32).toNat
            ∧ ∀ k, k < (dsc.extractLsb' 64 32).toNat → ∃ g, t.others[s.others.length + k]? = some g ∧ g.gid = ⟨l.num, k⟩
                ∧ g.state = .queued ∧ g.homeDie = (s.tenantDies tn).getD (k % (s.tenantDies tn).length) 0)

/-- R342 to R346, R199, R398: the next group that its die's dispatcher places stands on a tile of those it may have, each
strand at the entry at level U with its own generator, and TVEC at the tenant's handler. -/
def PlacedGroupsStart : Prop :=
  ∀ (s : State) (g : GroupId) (tile : Nat) (x : Group) (l : Launch), s.group? g = some x → x.gid = g →
    s.launch? g.launch = some l → x.state = .queued → s.nextPlaced x = true → (s.tilesFor l x).contains tile = true →
      ∃ t : State, exec (.groupPlacement g tile) s = .next t ∧ groupIs t g (fun y =>
        y.state = .resident ∧ y.place = some ⟨x.homeDie, tile⟩ ∧ y.logical = tile
        ∧ y.tvec = BitVec.ofNat 64 (((s.tenant? l.tenant).map (·.handler)).getD 0 % 2 ^ 44 / 4 * 4)
        ∧ ∀ k : Fin 8, k.val < l.strands → (y.st[k]).fcap = ⟨l.codeCap l.entry, true⟩ ∧ (y.st[k]).kernel = false
            ∧ (y.st[k]).depth = 0 ∧ (y.st[k]).gen0 = (jump l.seed 64 (8 * g.num + k.val)).s0
            ∧ (y.st[k]).gen1 = (jump l.seed 64 (8 * g.num + k.val)).s1
            ∧ (y.st[k]).path = BitVec.ofNat 64 (0x80000 + 8 * g.num + k.val))

/-- R343: a launch that waits ages at the next whole millisecond. R130, R354: a dependent launch starts once every group of the
launch before it has triggered or retired, with the code that then stands in memory. -/
def LaunchesAgeAndStart : Prop :=
  ∀ (s : State) (n : Nat) (l : Launch), s.launch? n = some l → l.status = none →
    ((∃ g ∈ s.groups, g.gid.launch = n ∧ g.state = .queued) → ∃ t : State, exec (.priorityAgeing n) s = .next t
      ∧ t = { s with now := t.now } ∧ s.now ≤ t.now ∧ (l.queuedAt ≤ s.now → s.now < t.now ∧ (t.now - l.queuedAt) % msTicks = 0))
    ∧ (∀ p, l.after = some p → l.started = false → (∀ g ∈ s.groups, g.gid.launch = p → g.trig = true ∨ g.state = .retired) →
        exec (.dependentLaunchRelease n) s = .next (s.modLaunch n (fun l => { l with started := true, code := s.readCode l })))

/-! ### Tasks in the tiles -/

/-- R348: an idle slot takes the youngest record of its group's deque and starts a strand from it, when no stored strand
may return. -/
def IdleSlotsStartTasks : Prop :=
  ∀ (s : State) (w : StrandId) (g : Group) (l : Launch) (r : TaskRec) (rest : List TaskRec), s.group? w.g = some g →
    s.launch? w.g.launch = some l → (g.st[w.slot]).run = .idle → s.canStart g = true → l.cancelling = false →
    (∀ e ∈ g.store, e.returns = false) → g.deque = rest ++ [r] →
      ∃ t : State, exec (.taskStart w) s = .next t ∧ groupIs t w.g (fun y => y.deque = rest ∧ atTask y.st[w.slot] l r)

/-- R349: a request asks the groups of the steal domain in turn; the one asked hands over its oldest record when it holds two
or more. The reply's record starts at the first idle slot, where no stored strand may return; a refusal by the group that it has asked
lets the thief ask the next. -/
def TasksAreStolen : Prop :=
  ∀ (s : State) (g : GroupId) (x : Group) (l : Launch), s.group? g = some x → x.gid = g → s.launch? g.launch = some l →
    (∀ v y, l.det = false → x.state = .resident → x.idleAll = true → x.stealing = false → l.cancelling = false →
      (s.victims l x)[x.stealAt % max 1 (s.victims l x).length]? = some v → v ≠ g → s.group? v = some y →
        ∃ t : State, exec (.stealRequest g) s = .next t ∧ groupIs t g (fun z => z.stealing = true)
          ∧ (2 ≤ y.deque.length → t.steals = s.steals ++ [⟨g, v, y.deque.head?⟩] ∧ groupIs t v (fun z => z.deque = y.deque.drop 1))
          ∧ (y.deque.length < 2 → t.steals = s.steals ++ [⟨g, v, none⟩] ∧ groupIs t v (fun z => z.deque = y.deque)))
    ∧ (∀ e, s.steals.find? (fun e => e.thief == g) = some e → l.cancelling = false →
        (e.rec_ = none → (s.victims l x)[x.stealAt % max 1 (s.victims l x).length]? = some e.victim → ∃ t : State,
          exec (.stealReply g) s = .next t ∧ t.steals = s.steals.erase e
          ∧ groupIs t g (fun z => z.stealing = false ∧ z.stealAt = x.stealAt + 1))
        ∧ (∀ r k, e.rec_ = some r → x.deque = [] → x.idleSlot = some k → s.canStart x = true → (∀ y ∈ x.store, y.returns = false) →
            ∃ t : State, exec (.stealReply g) s = .next t ∧ t.steals = s.steals.erase e
              ∧ groupIs t g (fun z => z.stealing = false ∧ z.deque = [] ∧ atTask z.st[k] l r)))

/-- R353: a stored strand whose children are done goes to the first idle slot, and finishes its JOIN there; a group whose every
slot stands at JOIN, with its store full, a record waiting and no child that runs, is dead: every strand of it traps WATCHDOG 0x02. -/
def StoredStrandsReturn : Prop :=
  ∀ (s : State) (g : GroupId) (x : Group), s.group? g = some x → x.gid = g →
    (∀ e k, x.store.find? Stored.returns = some e → x.idleSlot = some k → s.canStart x = true → x.deque = [] →
      (∀ l, s.launch? g.launch = some l → l.cancelling = false) →
      (∀ j : Fin 8, (x.st[j]).atGbar = false) →
      ∃ t : State, exec (.joinStoreReturn g) s = .next t ∧ groupIs t g (fun z => z.store = x.store.erase e
        ∧ z.st[k] = { e.st with run := .ready, joinDead := e.dead }))
    ∧ (x.state = .resident → (∀ j : Fin 8, (x.st[j]).atJoin = true) → x.store.length = 8 → x.deque ≠ [] →
        (∀ h ∈ s.groups, h.gid.launch = g.launch → h.gid ≠ g → ∀ j : Fin 8, (h.st[j]).task = true → (h.st[j]).run ≠ .idle →
          ∀ y ∈ x.allStrands, y.serial ≠ (h.st[j]).parentTag) →
        (∀ j : Fin 8, x.fatal x.st[j] = false) →
        ∃ t : State, exec (.joinDeadlock g) s = .next t ∧ groupIs t g (fun z => (∀ e ∈ z.store, e.dead = true)
          ∧ ∀ j : Fin 8, (z.st[j]).run = .ready ∧ (z.st[j]).depth = (x.st[j]).depth + 1
            ∧ ((z.st[j]).trapinfo.extractLsb' 0 8).toNat = 0x0B ∧ ((z.st[j]).trapinfo.extractLsb' 16 8).toNat = 0x02))

/-- R352: a strand that is ready, or in a park that is no yield point and not committed, and whose count has reached WDLIM,
takes WATCHDOG 0x01 at its pc, and its park is abandoned. -/
def WatchdogsTrap : Prop :=
  ∀ (s : State) (w : StrandId) (g : Group), s.group? w.g = some g → g.gid = w.g → g.state = .resident → g.dhalt = false →
    (g.st[w.slot]).stopped = false → (g.st[w.slot]).held = false → (g.st[w.slot]).wdlim ≠ 0 →
    (g.st[w.slot]).run = .ready ∨ (∃ y, (g.st[w.slot]).run = .parked y) → (g.st[w.slot]).leaves = true →
    (g.st[w.slot]).wdlim.toNat ≤ (g.st[w.slot]).count s.now (s.cycOf g) → g.fatal g.st[w.slot] = false →
      ∃ t : State, exec (.watchdog w) s = .next t ∧ strandIs t w (fun y =>
        (y.trapinfo.extractLsb' 0 8).toNat = 0x0B ∧ (y.trapinfo.extractLsb' 16 8).toNat = 0x01
        ∧ y.trappc = BitVec.ofNat 64 (g.st[w.slot]).pc ∧ y.run = .ready ∧ y.wdcount = 0)

/-! ### The end of groups and launches -/

/-- R350, R355: a group with nothing left to do retires, and with the last group its launch ends with status 0, which the
host is told. -/
def GroupsRetire : Prop :=
  ∀ (s : State) (g : GroupId) (x : Group) (l : Launch), s.group? g = some x → x.gid = g → s.mayRetire x = true →
    s.launch? g.launch = some l →
      ∃ t : State, exec (.groupRetire g) s = .next t ∧ groupIs t g (fun y => y.state = .retired ∧ y.place = none)
        ∧ ((∀ h ∈ s.groups, h.gid.launch = g.launch → h.gid = g ∨ h.state = .retired) →
            (s.groups.filter (fun h => h.gid == g)).length = 1 →
            .ended g.launch 0 ∈ t.hostOut ∧ launchIs t g.launch (fun m => m.status = some 0))
        ∧ ((∃ h ∈ s.groups, h.gid.launch = g.launch ∧ h.gid ≠ g ∧ h.state ≠ .retired) → t.hostOut = s.hostOut)

/-- R468: a launch that is cancelled with no strand in a committed park ends with status 1: its groups are gone, each dependent
launch that has not started ends with status 1 too, and the host is told of both. While one is committed its strands stop. -/
def CancelledLaunchesEnd : Prop :=
  ∀ (s : State) (n : Nat) (l : Launch), s.launch? n = some l → l.status = none →
    ((∀ g ∈ s.groups, g.gid.launch = n → ∀ k : Fin 8, (g.st[k]).committed = false) →
      ∃ t : State, exec (.launchCancel n) s = .next t ∧ launchIs t n (fun m => m.status = some 1)
        ∧ (∀ g ∈ t.groups, g.gid.launch = n → g.state = .retired) ∧ .ended n 1 ∈ t.hostOut
        ∧ ∀ x ∈ s.launches, x.after = some n → x.started = false → x.status = none → s.launch? x.num = some x →
            launchIs t x.num (fun m => m.status = some 1) ∧ .ended x.num 1 ∈ t.hostOut)
    ∧ ((∃ g ∈ s.groups, g.gid.launch = n ∧ g.state = .resident ∧ ∃ k : Fin 8, (g.st[k]).committed = true) →
        ∃ t : State, exec (.launchCancel n) s = .next t ∧ launchIs t n (fun m => m.cancelling = true ∧ m.status = none)
          ∧ ∀ g ∈ t.groups, g.gid.launch = n → ∀ k : Fin 8, (g.st[k]).stopped = true ∨ (g.st[k]).committed = true)

/-! ### Rotation -/

/-- A tile's temperature, in quarters of a degree, that an interval's end measures: a free value. -/
def tileTemp (s : State) (t : Nat) : Nat := Config.measured (s.fresh + t)
/-- The groups of a die that stand on one of two tiles. -/
def onPairOf (s : State) (v : Nat) (q : Pair) (g : Group) : Prop := g ∈ s.groups ∧ (g.on v q.hot || g.on v q.cool) = true

/-- R356 to R360: the end of an interval clears the thermal steps, and forms pairs in HOLD, at most as many as PAIRS, whose hot
tile is occupied and is hotter than the cool one by TDIFF at least, neither excused. A pair whose strands are all held, its loads
returned and its probes echoed, swaps; done, its groups stand on each other's tiles, count it, and are otherwise as they were, and
the pair is over. One whose strands are not all held is skipped at its limit: its groups count that, and its hot tile runs a step
slower. -/
def TilesRotate : Prop :=
  ∀ (s : State) (v k : Nat) (d : Die) (q : Pair), s.die? v = some d → d.v = v →
    (∃ (t : State) (e : Die), exec (.rotationInterval v) s = .next t ∧ t.die? v = some e ∧ e.tsteps = []
      ∧ t.now = max s.now (d.intervalStart + d.rotTicks) ∧ e.intervalStart = t.now
      ∧ ∃ ps, e.pairs = d.pairs ++ ps ∧ ps.length ≤ min 8 d.pairsMax ∧ ∀ p ∈ ps, p.state = .hold ∧ p.hot ≠ p.cool
          ∧ p.since = t.now ∧ tileTemp s p.cool + d.tdiff ≤ tileTemp s p.hot ∧ (∃ g ∈ s.groups, g.on v p.hot = true)
          ∧ d.excused p.hot = false ∧ d.excused p.cool = false)
    ∧ (s.pair? v k = some q → q.state = .hold → s.chans = [] → s.rets = [] →
        (∀ g, onPairOf s v q g → g.allHeld = true ∧ g.mx = [] ∧ g.state = .resident) →
        ∃ t : State, exec (.swap v k) s = .next t ∧ (t.pair? v k).map (·.state) = some .swap
          ∧ (∀ g, onPairOf s v q g → { g with state := .swapping } ∈ t.groups)
          ∧ ∀ g ∈ s.groups, ¬ onPairOf s v q g → g ∈ t.groups)
    ∧ (s.pair? v k = some q → q.state = .swap → ∃ t : State, exec (.done v k) s = .next t ∧ t.pair? v k = none
        ∧ (∀ g, onPairOf s v q g → { g.unhold with
            state := .resident, place := some ⟨v, if g.on v q.hot then q.cool else q.hot⟩
            swaps := (g.swaps + 1) % 2 ^ 32 } ∈ t.groups)
        ∧ ∀ g ∈ s.groups, ¬ onPairOf s v q g → g ∈ t.groups)
    ∧ (s.pair? v k = some q → q.state = .hold → s.pairHeld v q = false → ∃ (t : State) (e : Die), exec (.skip v k) s = .next t
        ∧ t.pair? v k = none ∧ t.now = max s.now (q.since + d.rotTicks / 4) ∧ t.die? v = some e
        ∧ e.tsteps.lookup q.hot = some (min 15 ({ s with now := t.now }.stepOf v q.hot + 1))
        ∧ (∀ g, onPairOf s v q g → { g.unhold with skips := (g.skips + 1) % 2 ^ 32 } ∈ t.groups)
        ∧ ∀ g ∈ s.groups, ¬ onPairOf s v q g → g ∈ t.groups)

end Sys2Proof.Claims
namespace Sys2Proof.Claims

/-! ### Values, translations, slices and the optical core -/

/-- R50, R146: a long result that arrives is written, tag clear, and its flags are raised; a committing strand goes on, or
traps at its instruction with the flags. -/
def LongResultsArrive : Prop :=
  ∀ (s : State) (g : GroupId) (x : Group) (l : Late) (k : Fin 48), s.group? g = some x → x.gid = g → k.val ≠ 0 →
    ((x.st[l.slot]).c[k]).stream = false → (x.st[l.slot]).serial = l.owner →
    (x.late.find? (fun l => l.lo ≤ s.now && !l.waits) = some l → l.dst = .reg (.c k) →
      ∃ t : State, exec (.resultArrival g) s = .next t ∧ groupIs t g (fun y => y.late = x.late.erase l
        ∧ ((y.st[l.slot]).c[k]).v = l.v ∧ ((y.st[l.slot]).c[k]).tag = false ∧ ((y.st[l.slot]).c[k]).full = true
        ∧ ((y.st[l.slot]).c[k]).out = false ∧ (y.st[l.slot]).fcsr = (x.st[l.slot]).fcsr ||| BitVec.ofNat 64 l.flags
        ∧ (y.st[l.slot]).fcap = (x.st[l.slot]).fcap))
    ∧ (x.late.find? (fun m => m.waits && m.slot == l.slot && m.lo ≤ s.now) = some l → (x.st[l.slot]).prog = .committing →
        (l.trap = none → l.dst = .reg (.c k) → ∃ t : State, exec (.longCommit ⟨g, l.slot⟩) s = .next t ∧ groupIs t g (fun y =>
          y.late = x.late.erase l ∧ ((y.st[l.slot]).c[k]).v = l.v ∧ (y.st[l.slot]).run = .ready
          ∧ (y.st[l.slot]).fcsr = (x.st[l.slot]).fcsr ||| BitVec.ofNat 64 l.flags
          ∧ (y.st[l.slot]).fcap = ((x.st[l.slot]).movePc 12).fcap))
        ∧ (∀ u, l.trap = some u → x.fatal x.st[l.slot] = false → ∃ t : State, exec (.longCommit ⟨g, l.slot⟩) s = .next t
            ∧ groupIs t g (fun y => (y.st[l.slot]).fcsr = (x.st[l.slot]).fcsr ||| BitVec.ofNat 64 l.flags
              ∧ (y.st[l.slot]).trappc = BitVec.ofNat 64 (x.st[l.slot]).pc ∧ (y.st[l.slot]).depth = (x.st[l.slot]).depth + 1
              ∧ (y.st[l.slot]).c = (x.st[l.slot]).c)))

/-- R232, R233, R402: a performed load's value that has come through the meshes to its tile reaches its register, full with its
tag, the two words of an LD.Q128 together; one that met an uncorrectable error leaves the register poisoned. -/
def LoadedValuesReturn : Prop :=
  ∀ (s : State) (i : Nat) (r : InFlight) (k : Fin 48) (x : Group), s.rets[i]? = some r → r.dst = .c k → k.val ≠ 0 →
    s.group? r.who.g = some x → ((x.st[r.who.slot]).c[k]).stream = false → (x.st[r.who.slot]).serial = r.owner →
    r.back = .value → (s.goBack r).1.legs = [] → r.trail.lost = false →
    let mate (hi : Bool) := s.rets.find? (fun x => x.who == r.who && x.owner == r.owner && x.dst == r.dst
      && x.half == some (!hi) && x.trail.legs.isEmpty && (x.id == r.id + 1 || r.id == x.id + 1))
    (r.half = none → r.bad = none → ∃ t : State, exec (.returnValue i) s = .next t ∧ t.rets = s.rets.eraseIdx i
      ∧ strandIs t r.who (fun y => (y.c[k]).v = r.v ∧ (y.c[k]).tag = r.tag ∧ (y.c[k]).full = true ∧ (y.c[k]).out = false))
    ∧ (∀ p, r.half = none → r.bad = some p → ∃ t : State, exec (.returnValue i) s = .next t ∧ t.rets = s.rets.eraseIdx i
        ∧ strandIs t r.who (fun y => (y.c[k]).poison = some p ∧ (y.c[k]).full = false))
    ∧ (∀ hi m, r.half = some hi → r.bad = none → mate hi = some m → ∃ t : State,
        exec (.returnValue i) s = .next t ∧ strandIs t r.who (fun y =>
          (y.c[k]).v.setWidth 64 = (if hi then m.v else r.v).setWidth 64
          ∧ (y.c[k]).v.extractLsb' 64 64 = (if hi then r.v else m.v).setWidth 64 ∧ (y.c[k]).full = true))
    ∧ (∀ hi, r.half = some hi → mate hi = none → ∃ t : State, exec (.returnValue i) s = .next t
        ∧ t.rets = s.rets.set i { r with trail := (s.goBack r).1 } ∧ ∀ w, t.strand? w = s.strand? w)

/-- R214, R215: once a walker is free, the answer to a miss that is granted fills the tile's TLB and its strand tries again; a
walk or a grant that failed is told to it, and is not cached. R204:
a refused synchronising access goes again after 256 cycles, or once a change is reported, and no sooner. -/
def WaitsOfAccessesEnd : Prop :=
  (∀ (s : State) (w : StrandId) (g : Group) (p : Place) (q : WalkReq) (d : Die), s.group? w.g = some g → g.place = some p →
      (g.st[w.slot]).walkWant = some q → s.die? p.die = some d → s.l2Find p.die q = none → s.walkerFree p.die q = true →
      let l := s.launch? w.g.launch
      let a := ((s.walk p.die ((l.map (·.tenant)).getD 0) q.space q.va).1).bind (s.grant l q)
      (∀ e, a = .ok e → ∃ t : State, exec (.tlbWalkDone w) s = .next t ∧ (∃ f, t.die? p.die = some f ∧ (p.tile, e) ∈ f.tlb)
          ∧ strandIs t w (fun y => y.run = .ready ∧ y.walkWant = none ∧ y.fcap = (g.st[w.slot]).fcap))
      ∧ (∀ c, a = .error c → ∃ t : State, exec (.tlbWalkDone w) s = .next t
            ∧ (t.die? p.die).map (fun f => (f.tlb, f.l2)) = some (d.tlb, d.l2)
            ∧ strandIs t w (fun y => y.run = .ready ∧ y.walkWant = none ∧ y.walkFault = some (c, q.space, q.va))))
    ∧ ∀ (s : State) (w : StrandId) (g : Group) (k at_ x : Nat) (changed : Bool), s.group? w.g = some g →
      (g.st[w.slot]).prog = .refused k at_ x changed → ∃ t : State, exec (.syncResend w) s = .next t ∧ strandIs t w (fun y =>
        y = if changed = true ∨ at_ + 256 * s.cycOf g ≤ s.now then { g.st[w.slot] with run := .ready } else g.st[w.slot])

/-- R232: a probe that has come to its home echoes, where no message of its strand waits in that home's arrival buffer, and its echo
starts on its way where the home is not on the strand's tile; a slice
that evicts a line drops it, and writes its dirty bytes back first. -/
def ProbesEchoAndLinesLeave : Prop :=
  ∀ (s : State) (ch : ChanId) (m : Msg) (rest : List Msg) (v i : Nat) (d : Die) (l : Line),
    (s.chan ch = m :: rest → m.act = .probe → s.unaccepted ch = false → (s.headArrives ch).1 = true → ∃ t : State, exec (.echo ch) s = .next t
      ∧ t.chan ch = rest ∧ (∀ c, c ≠ ch → t.chan c = s.chan c) ∧ t.mem = s.mem
      ∧ (t.rets = s.rets ∨ ∃ r, t.rets = s.rets ++ [r] ∧ r.id = m.id ∧ r.back = .echo))
    ∧ (s.die? v = some d → d.lines[i]? = some l → ∃ t : State, exec (.evict v i) s = .next t ∧ t.line? v (l.key * 64) = none
        ∧ (l.dirty = 0 → t.chans = s.chans)
        ∧ (l.dirty ≠ 0 → ∃ m : Msg, m.act = .writeBack l.bytes l.dirty l.tags ∧ m.target = .mem (l.key * 64)
            ∧ t.chan ⟨.slice v l.slice, keyHome (l.key * 64)⟩ = s.chan ⟨.slice v l.slice, keyHome (l.key * 64)⟩ ++ [m]))

/-- R277: once one router has had more than three quarters of its shared permits on the highest subnetwork in use for 4,096 cycles
the next comes on, and the highest goes off once it has carried nothing for 65,536 cycles; 0 stays on. R298 to R302: the next
window of a plane of a live die opens; it carries the oldest message for the partner of the step, 80 flits or fewer, and the block
in it arrives: it is accepted, or refused where the absent mailbox of its group is full (R411; how much that holds is the model's
choice, log entry 25). Before stage 3, and from a die
that is not live, no window opens. -/
def OpticalMoves : Prop :=
  ∀ (s : State) (v : Nat) (d : Die),
    (∀ k, s.watchMeshes.die? v = some d → d.subnets = k → 1 ≤ k → k ≤ 3 → ∃ t : State, exec (.subnetworkOn v k) s = .next t
      ∧ ((∃ x ∈ d.hotSince, x.1.2 = k - 1 ∧ x.2 + 4096 * Config.cycleTicks ≤ s.now) →
          (t.die? v).map (·.subnets) = some (k + 1))
      ∧ (¬ (∃ x ∈ d.hotSince, x.1.2 = k - 1 ∧ x.2 + 4096 * Config.cycleTicks ≤ s.now) →
          (t.die? v).map (·.subnets) = some k))
    ∧ (∀ k, s.watchMeshes.die? v = some d → d.subnets = k + 1 → 1 ≤ k → ∃ t : State, exec (.subnetworkOff v k) s = .next t
      ∧ ((∃ t0, d.idleSince.lookup k = some t0 ∧ t0 + 65536 * Config.cycleTicks ≤ s.now) → (t.die? v).map (·.subnets) = some k)
      ∧ (¬ (∃ t0, d.idleSince.lookup k = some t0 ∧ t0 + 65536 * Config.cycleTicks ≤ s.now) →
          (t.die? v).map (·.subnets) = some (k + 1)))
    ∧ (∀ plane, s.die? v = some d → plane < 4 →
        let w := d.nextWindow plane s.now
        let partner := (partnerOf d.phys (w / Config.omcStepTicks % 32) plane).bind (fun q => s.dies.find? (fun x => x.phys == q && x.live))
        (s.dev.stage < 3 ∨ d.live = false → exec (.omcWindow v plane) s = .next s)
        ∧ (s.dev.stage = 3 → d.live = true →
            (∃ (t : State) (e : Die), exec (.omcWindow v plane) s = .next t ∧ t.now = w ∧ t.die? v = some e
              ∧ e.windows.lookup plane = some w)
            ∧ (∀ i m b, partner = some i → d.plup / 2 ^ plane % 2 = 1 → i.v ≠ v → d.relay = [] → d.sendq = [m] → m.dst = i.v →
                m.joined ≤ w → m.flits ≤ 80 → m.relayed = false → m.body = .block b → ∃ (t : State) (e : Die),
                  exec (.omcWindow v plane) s = .next t ∧ t.now = w ∧ t.die? v = some e ∧ e.sendq = []
                  ∧ t.blocks = s.blocks ++ [{ b with arrived := w + 115 * Config.nsTicks, relay := none
                                                     refused := !s.takesBlock b, coming := false }]
                  ∧ (s.takesBlock b = true → ∃ a : Ack, t.msgAcks = s.msgAcks ++ [a] ∧ a.key = b.msgKey ∧ a.hold = false)
                  ∧ (s.takesBlock b = false → ∀ a ∈ t.msgAcks, a ∈ s.msgAcks ∨ a.hold = true))))

end Sys2Proof.Claims
namespace Sys2Proof.Claims

/-! ### Pools -/

/-- A handle that passes the checks of a pool instruction (R375, R376): its pool and the shard on the strand's die. -/
def onShard (s : State) (x : RegCell) (ld st : Bool) (p : Pool) (h : Shard) : Prop :=
  x.tag = true ∧ capSpace x.v = 6 ∧ (ld = true → capLD x.v = true) ∧ (st = true → capST x.v = true)
    ∧ capCursor x.v = 2 ^ 40 + capCursor x.v % 2 ^ 16 ∧ s.pool? (capCursor x.v % 2 ^ 16) = some p ∧ p.tenant = s.myTenant
    ∧ p.shard? s.g.die = some h
/-- A register of a strand by its number, c0 to c47. -/
def regC (t : Strand) (k : Nat) : RegCell := t.c.toList.getD k {}
/-- The status that a take reports (R394): GOT, AGED, EMPTY, FWD, the hops, the round, and G. -/
def isStatus (v : Quad) (g round : Lane) (hops : Nat) (fwd empty aged got : Bool) : Prop :=
  v.getLsbD 0 = got ∧ v.getLsbD 1 = aged ∧ v.getLsbD 2 = empty ∧ v.getLsbD 3 = fwd ∧ (v.extractLsb' 8 8).toNat = hops % 256
    ∧ v.extractLsb' 32 32 = round.setWidth 32 ∧ v.extractLsb' 64 64 = g
/-- A take has come to its strand: element or zero in the even register of its pair (c0 stays zero), status in the odd one,
predicate, and a lease with an element. -/
def gotTake (t : Strand) (pool : Nat) (pair : Fin 24) (pr : Pred) (e : Option Elem) (status : Quad → Prop) : Prop :=
  (pair.val ≠ 0 → (regC t (2 * pair.val)).v = match e with | some e => quad2 e.key e.payload | none => 0)
    ∧ status (regC t (2 * pair.val + 1)).v ∧ (pr.val ≠ 0 → t.pred pr = e.isSome) ∧ (e.isSome = true → t.lease = some pool)
/-- Neither register of a pair is in stream mode. -/
def plainPair (t : Strand) (pair : Fin 24) : Prop :=
  (regC t (2 * pair.val)).stream = false ∧ (regC t (2 * pair.val + 1)).stream = false
/-- A pool as a state holds it, and a shard of it. -/
def poolIs (s : State) (n : Nat) (p : Pool → Prop) : Prop := ∃ x, s.pool? n = some x ∧ p x
def shardIs (s : State) (n v : Nat) (p : Shard → Prop) : Prop := ∃ x, s.shard? n v = some x ∧ p x

/-- The permissions that a pool instruction asks of its handle, LD and ST (R375, R392 to R395). -/
def poolAsks : Instr → Bool × Bool
  | .pput .. | .psync .. => (false, true)
  | .pfree .. => (true, true)
  | _ => (true, false)

/-- R375 to R377: a handle without tag, in another space, without LD or without ST where the instruction asks for it, of no pool, of
another tenant's pool, or of a pool with no shard on the strand's die traps, in this order, and TRAPVAL is A. -/
def BadHandlesTrap : Prop :=
  ∀ (i : Instr) (n : Needs) (s : State) (h : Head) (d : Reg) (a : PSrc) (b : Src) (pr : Pred) (q : Fin 24),
    (i = .pput h a b ∨ i = .ptakeWait h pr q a ∨ i = .ptakeTry h pr q a ∨ i = .ptakeX h pr q a ∨ i = .pbound h d a
      ∨ i = .psize h d a ∨ i = .pfree h d a ∨ i = .psync h a) → ReadyFor i n s → s.st.prog = .none →
    let x := cell n s 0
    let t (c : Cause) (k : Nat) : State := s.trap ⟨c, 0, k, x.v.setWidth 64⟩
    (x.tag = false → exec i s = .next (t .captag 0x01))
    ∧ (x.tag = true → 7 ≤ capSpace x.v → exec i s = .next (t .captag 0x02))
    ∧ (x.tag = true → capSpace x.v < 6 → exec i s = .next (t .capperm 0x04))
    ∧ (x.tag = true → capSpace x.v = 6 →
        ((poolAsks i).1 = true → capLD x.v = false → exec i s = .next (t .capperm 0x01))
        ∧ (((poolAsks i).1 = true → capLD x.v = true) →
            ((poolAsks i).2 = true → capST x.v = false → exec i s = .next (t .capperm 0x02))
            ∧ (((poolAsks i).2 = true → capST x.v = true) →
                (capCursor x.v / 2 ^ 16 ≠ 2 ^ 24 ∨ s.pool? (capCursor x.v % 2 ^ 16) = none
                  ∨ ∃ p, s.pool? (capCursor x.v % 2 ^ 16) = some p ∧ (p.tenant ≠ s.myTenant ∨ p.shard? s.g.die = none)) →
                  exec i s = .next (t .pool 0x01))))

/-- R372, R392: PINIT, its capabilities checked, parks for its record; a record that is out of range traps POOL 0x06 and
a pool for which a die has no room POOL 0x05; else the pool is made, empty, with a shard on each die of the launch, and
the strand parks, committed, until the first G is installed. -/
def PoolsAreMade : Prop :=
  ∀ (n : Needs) (s : State) (h : Head) (d : Reg) (a b : PSrc),
    (∀ r, ReadyFor (.pinit h d a b) n s → s.st.prog = .none →
      (n.after s).checkCap (cell n s 0) { ld := true, spaces := fun n => n == 0 || (2 ≤ n && n ≤ 4), align := 16 } = none →
      (n.after s).checkCap (cell n s 1) { ld := true, st := true, spaces := fun n => n == 2 || n == 3, align := 4096 } = none →
      ((n.after s).myDies.length ≤ 1 ∨ 3 ≤ s.dev.stage) →
      reaches (n.after s) (cell n s 0) 0 { size := 16, rd := true, noCtrl := true } r →
        ∃ t : State, exec (.pinit h d a b) s = .next t ∧ t.st.run = .parked .value ∧ t.st.prog = .waiting s.nextId 0
          ∧ t.pools = s.pools)
    ∧ (∀ v w tag ok, ReadyFor (.pinit h d a b) n s → s.st.prog = .answered v w tag ok →
        (poolRecord v = none → exec (.pinit h d a b) s = .next (s.trap ⟨.pool, 0, 0x06, lane0 (cell n s 0)⟩))
        ∧ (∀ k u age, poolRecord v = some (k, u, age) →
            ((n.after s).noPoolRoom (n.after s).myDies k = true →
              exec (.pinit h d a b) s = .next (s.trap ⟨.pool, 0, 0x05, lane0 (cell n s 0)⟩))
            ∧ ((n.after s).noPoolRoom (n.after s).myDies k = false → ∃ (t : State) (p : Pool),
                exec (.pinit h d a b) s = .next t ∧ t.pools = s.pools ++ [p] ∧ t.st.run = .parked .pinit ∧ t.st.consumed = true
                ∧ p.k = k ∧ p.w = u ∧ p.ageMax = age ∧ p.launch = s.g.gid.launch ∧ p.tenant = s.myTenant ∧ p.round = 0
                ∧ p.shards.map (·.die) = (n.after s).myDies ∧ (∀ x ∈ p.shards, x.elems = [] ∧ x.g = none)
                ∧ p.maker = some (s.me, d) ∧ s.now < p.t0 ∧ p.t0 ≤ s.now + Config.omcCycleTicks
                ∧ p.t0 % Config.omcCycleTicks = 0)))

/-- R383, R393: PPUT gives its element to the local shard, at the end, with the shard's next sequence number; over the budget
it parks in order, and with neither the store nor the spill area free it traps POOL 0x04. -/
def PutsReachTheirShard : Prop :=
  ∀ (n : Needs) (s : State) (h : Head) (a : PSrc) (b : Src) (p : Pool) (x : Shard), ReadyFor (.pput h a b) n s →
    s.st.prog = .none → onShard (n.after s) (cell n s 0) false true p x → p.num = capCursor (src n s 0) % 2 ^ 16 →
    let q := n.after s
    (q.poolFull x = true → exec (.pput h a b) s = .next (s.trap ⟨.pool, 0, 0x04, lane0 (cell n s 0)⟩))
    ∧ (q.poolFull x = false → x.puts = [] → q.admits p x = true → x.held = [] → q.sramUsed x.die < 65536 →
        ∃ t : State, exec (.pput h a b) s = .next (done t) ∧ shardIs t p.num x.die (fun y =>
          y.elems = x.elems ++ [⟨lane0 (cell n s 1), lane1 (cell n s 1), p.last, x.seq, false⟩] ∧ y.seq = x.seq + 1
          ∧ y.issued = x.issued + 1 ∧ y.applied = x.applied + 1 ∧ y.appliedNow = x.appliedNow + 1))
    ∧ (q.poolFull x = false → x.puts ≠ [] ∨ q.admits p x = false → ∃ t : State, exec (.pput h a b) s = .next t
        ∧ t.st.run = .parked .put ∧ t.st.fcap = s.st.fcap ∧ t.st.c = s.st.c ∧ shardIs t p.num x.die (fun y =>
          y.elems = x.elems ∧ y.puts = x.puts ++ [⟨s.me, lane0 (cell n s 1), lane1 (cell n s 1), a, b⟩]))

/-- R382, R386, R394: a take served by the local shard gives the element that the rule of R382 picks, which leaves the shard,
and opens a lease; PTAKE.TRY with none writes zero, 0 and no lease; PTAKE.WAIT with none parks. Both end an older lease.
In a deterministic launch they trap POOL 0x02. -/
def TakesAreServed : Prop :=
  ∀ (i : Instr) (n : Needs) (s : State) (h : Head) (pr : Pred) (d : Fin 24) (a : PSrc) (p : Pool) (x : Shard),
    (i = .ptakeWait h pr d a ∨ i = .ptakeTry h pr d a) → ReadyFor i n s → s.st.prog = .none →
    onShard (n.after s) (cell n s 0) true false p x → p.num = capCursor (src n s 0) % 2 ^ 16 →
    (s.det = true → exec i s = .next (s.trap ⟨.pool, 0, 0x02, lane0 (cell n s 0)⟩))
    ∧ (∀ e aged, s.det = false → x.candidate p.last p.ageMax ((n.after s).poolDet p) = some (e, aged) →
        ∃ (t : State) (round : Lane), exec i s = .next (done t) ∧ shardIs t p.num x.die (fun y => y.elems = x.elems.erase e)
          ∧ (x.g.isSome = true → round = BitVec.ofNat 64 x.ground)
          ∧ gotTake t.st p.num d pr (some e) (fun v => isStatus v (if aged then BitVec.allOnes 64 else x.g.getD (BitVec.allOnes 64))
              round 0 false false aged true))
    ∧ (s.det = false → x.candidate p.last p.ageMax ((n.after s).poolDet p) = none →
        (i = .ptakeTry h pr d a → ∃ (t : State) (round : Lane), exec i s = .next (done t) ∧ t.st.lease = none
          ∧ (x.g.isSome = true → round = BitVec.ofNat 64 x.ground)
          ∧ gotTake t.st p.num d pr none (fun v => isStatus v (x.g.getD (BitVec.allOnes 64)) round 0 false false false false))
        ∧ (i = .ptakeWait h pr d a → ∃ t : State, exec i s = .next t ∧ t.st.run = .parked .take ∧ t.st.fcap = s.st.fcap
            ∧ t.st.lease = none ∧ (x.g = none → shardIs t p.num x.die (fun y => y.elems = x.elems
              ∧ y.held.map (fun k => (k.who, k.pair, k.pred, k.origin)) = x.held.map (fun k => (k.who, k.pair, k.pred, k.origin))
                ++ [(s.me, d, pr, x.die)]))))

/-- R385, R390: PTAKE.X of a deterministic launch ends an older lease and records its request, one for a strand, at once; with its
release complete, it then pauses behind itself, and it waits for that at a yield point; in another launch it traps POOL 0x03. -/
def ExactTakesAreRecorded : Prop :=
  ∀ (n : Needs) (s q : State) (h : Head) (pr : Pred) (d : Fin 24) (a : PSrc) (p : Pool) (x : Shard),
    ReadyFor (.ptakeX h pr d a) n s → s.st.prog = .none → onShard (n.after s) (cell n s 0) true false p x →
    p.num = capCursor (src n s 0) % 2 ^ 16 →
    (s.det = false → exec (.ptakeX h pr d a) s = .next (s.trap ⟨.pool, 0, 0x03, lane0 (cell n s 0)⟩))
    ∧ (s.det = true → ∀ ok, (((n.after s).modSt (fun t => { t with lease := none })).modPool p.num (fun y => { y with
          exact := y.exact.filter (fun x => x.who != s.me) ++ [⟨s.me, d, pr, lane0 (cell n s 0), s.g.instant⟩] })).fenceRun s.myScope .rel
          s.st.tmask 0 = (ok, q) →
        ∃ t : State, exec (.ptakeX h pr d a) s = .next t ∧ t.pools = q.pools ∧ (ok = false → t.st.run = .parked .yieldFence)
          ∧ (ok = true → hasPaused t none ∧ t.st.fcap = (q.st.movePc 12).fcap))

/-- R374, R384, R392, R395: PBOUND gives K - 1 + n W and the G in force; PSIZE the elements of the local shard and of the
pool at the last round, in a deterministic launch both as the instant began; PSYNC waits until the snapshot after the
strand's last put has been installed; PFREE discards the pool and gives the number of its elements. -/
def PoolQueriesAnswer : Prop :=
  ∀ (n : Needs) (s : State) (h : Head) (d : Reg) (a : PSrc) (p : Pool) (x : Shard),
    p.num = capCursor (src n s 0) % 2 ^ 16 →
    (ReadyFor (.pbound h d a) n s → onShard (n.after s) (cell n s 0) true false p x →
      exec (.pbound h d a) s = .next (wrote n s d (quad2 (BitVec.ofNat 64 (p.k - 1 + p.shards.length * p.w))
        (if s.det then BitVec.allOnes 64 else x.g.getD (BitVec.allOnes 64)))))
    ∧ (ReadyFor (.psize h d a) n s → onShard (n.after s) (cell n s 0) true false p x →
        exec (.psize h d a) s = .next (wrote n s d (if s.det then quad2 (BitVec.ofNat 64 x.startSize) (BitVec.ofNat 64 p.startPool)
          else quad2 (BitVec.ofNat 64 x.elems.length) (BitVec.ofNat 64 p.poolSize))))
    ∧ (ReadyFor (.psync h a) n s → onShard (n.after s) (cell n s 0) false true p x →
        (p.lastPut.lookup s.st.serial = none → exec (.psync h a) s = .next (done (n.after s)))
        ∧ (∀ r, p.lastPut.lookup s.st.serial = some r → r + 1 < p.installed → exec (.psync h a) s = .next (done (n.after s)))
        ∧ (∀ r, p.lastPut.lookup s.st.serial = some r → p.installed ≤ r + 1 → ∃ t : State, exec (.psync h a) s = .next t
            ∧ t.st.run = .parked .psync ∧ t.st.fcap = s.st.fcap))
    ∧ (ReadyFor (.pfree h d a) n s → onShard (n.after s) (cell n s 0) true true p x → ∃ t : State,
        exec (.pfree h d a) s = .next (done (t.writeReg d (quad2 (BitVec.ofNat 64 ((p.shards.map (·.elems.length)).sum)) 0)))
          ∧ t.pool? p.num = none ∧ (∀ y ∈ t.replies, y.take.pool ≠ p.num) ∧ (∀ y ∈ t.takes, y.take.pool ≠ p.num)
          ∧ ∀ g ∈ t.groups, ∀ k : Fin 8, (g.st[k]).lease ≠ some p.num)

/-! ### The exchange -/

/-- G of a round (R381): the K-th least of the keys, or all ones where there are fewer. -/
def isG (k : Nat) (l : List (Nat × Summary)) (g : Lane) : Prop :=
  let keys := l.flatMap (fun x => x.2.keys)
  if keys.length < k then g = BitVec.allOnes 64
  else (keys.filter (fun x => x < g)).length < k ∧ k ≤ (keys.filter (fun x => x ≤ g)).length

/-- The state at a time, with the rounds of the exchange that begin by then. -/
def roundsBy (s : State) (t : Nat) : State := { s with now := max s.now t }.exchangeBy (max s.now t)

/-- R378, R379, R381, R383, R392: at a boundary of its exchange a pool whose last round is complete installs the G of that
round at every shard, answers its PINIT, and takes the snapshots of the next round; one whose round is not complete has no
G. Here nothing waits at the shards. -/
def RoundsAreInstalled : Prop :=
  ∀ (s : State) (p : Pool), s.pool? p.num = some p → p.round ≠ 0 → 0 < p.k → (∀ h ∈ p.shards, h.puts = [] ∧ h.held = []) →
    (p.shards.map (·.die)).Nodup →
    (s.complete p = true → emptyRound (s.roundSums p) = false →
      (∃ (t : State) (g : Lane), exec (.poolExchangeRound p.num) s = .next t ∧ isG p.k (s.roundSums p) g
        ∧ t.now = max s.now (p.t0 + p.round * Config.omcCycleTicks)
        ∧ poolIs t p.num (fun q => q.installed = p.round ∧ q.round = p.round + 1 ∧ q.maker = none
            ∧ ∀ h ∈ p.shards, ∃ y ∈ q.shards, y.die = h.die ∧ y.g = some g ∧ y.ground = p.round - 1 ∧ y.elems = h.elems
              ∧ y.seen = [] ∧ y.appliedPrev = h.appliedNow ∧ y.appliedNow = 0
              ∧ ∃ m, y.snap = some m ∧ m.size = h.elems.length ∧ m.applied = h.applied ∧ m.issued = h.issued ∧ m.round = p.round
                ∧ m.keys.length = min p.k h.elems.length))
      ∧ ∀ w (k : Fin 48) st, p.maker = some (w, .c k) → k.val ≠ 0 → s.strand? w = some st → (st.c[k]).stream = false →
          ∃ t : State, exec (.poolExchangeRound p.num) s = .next t ∧ strandIs t w (fun y => (y.c[k]).v = poolHandle p.num
            ∧ (y.c[k]).tag = true ∧ y.run = .ready ∧ y.fcap = (st.movePc 12).fcap))
    ∧ (s.complete p = false → ∃ t : State, exec (.poolExchangeRound p.num) s = .next t ∧ poolIs t p.num (fun q =>
        q.round = p.round + 1 ∧ q.installed = p.installed ∧ ∀ y ∈ q.shards, y.g = none))

/-- R378, R380, R382, R387: a summary joins those that its target has seen; a take arrives by the end of its window, once the rounds
of the exchange that begin by then are installed: one that comes home is held there, another is served where the shard may give it an
element; an element that has crossed gives its strand the take and sends its acknowledgement, which ends the serving shard's lease. -/
def PoolMessagesArrive : Prop :=
  ∀ (s : State),
    (∀ n a b p h x m, s.pool? n = some p → s.shard? n a = some h → s.shard? n b = some x → h.snap = some m → a ≠ b →
      p.round ≠ 0 → (∀ y ∈ x.seen, y.1 ≠ a) → x.missed.contains a = false → ∃ t : State, exec (.poolSummaryArrival n a b) s = .next t
        ∧ shardIs t n b (fun y => y.seen = x.seen ++ [(a, m)]) ∧ s.now ≤ t.now)
    ∧ (∀ k f h, s.takes[k]? = some f →
        let u := roundsBy { s with takes := s.takes.eraseIdx k } (f.opens + 115 * Config.nsTicks)
        f.home = true → u.shard? f.take.pool f.dst = some h → ∃ t : State,
        exec (.forwardedTakeArrival k) s = .next t ∧ t.takes = u.takes ∧ t.now = max s.now (f.opens + 115 * Config.nsTicks)
          ∧ shardIs t f.take.pool f.dst (fun y => y.held = h.held ++ [f.take] ∧ y.elems = h.elems))
    ∧ (∀ k f h p e aged, s.takes[k]? = some f →
        let u := roundsBy { s with takes := s.takes.eraseIdx k } (f.opens + 115 * Config.nsTicks)
        f.home = false → f.dst ≠ f.take.origin → u.pool? f.take.pool = some p →
        u.shard? f.take.pool f.dst = some h → h.candidate p.last p.ageMax (u.poolDet p) = some (e, aged) → ∃ t : State,
        exec (.forwardedTakeArrival k) s = .next t ∧ t.takes = u.takes
          ∧ (∃ r, t.replies = u.replies ++ [r] ∧ r.take = f.take ∧ r.server = f.dst ∧ r.elem = e ∧ r.aged = aged ∧ r.crossed = none
            ∧ shardIs t f.take.pool f.dst (fun y => y.elems = h.elems.erase e ∧ y.unacked = h.unacked ++ [r.id])))
    ∧ (∀ k r c st p, s.replies[k]? = some r → r.crossed = some c → s.pool? r.take.pool = some p → s.strand? r.take.who = some st →
        plainPair st r.take.pair → ∃ t : State, exec (.takeReplyArrival k) s = .next t ∧ t.replies = s.replies.eraseIdx k
          ∧ t.now = max s.now c ∧ t.leaseAcks = s.leaseAcks ++ [⟨r.take.pool, r.id, r.server, r.take.origin, t.now⟩]
          ∧ strandIs t r.take.who (fun y => y.run = .ready ∧ y.fcap = (st.movePc 12).fcap
              ∧ gotTake y r.take.pool r.take.pair r.take.pred (some r.elem)
                  (fun v => isStatus v r.g r.round r.take.hops true false r.aged true)))
    ∧ (∀ k a h, s.leaseAcks[k]? = some a → s.shard? a.pool a.server = some h → ∃ t : State, exec (.leaseAck k) s = .next t
        ∧ t.leaseAcks = s.leaseAcks.eraseIdx k ∧ s.now ≤ t.now
        ∧ shardIs t a.pool a.server (fun y => y.unacked = h.unacked.filter (· != a.id)))

/-- R390: between the end of an instant and the next, the one request that a strand of a launch has recorded in the instant that ends
takes the least element of the whole pool, or finds it empty. -/
def ExactTakesAreServed : Prop :=
  ∀ (s : State) (n : Nat) (l : Launch) (w : Wave) (p : Pool) (x : XTake) (st : Strand), s.launch? n = some l → l.wave = some w →
    w.act = 0 → s.pools.filter (fun p => p.exact.any (fun x => x.who.g.launch == n)) = [p] → s.pool? p.num = some p →
    x.who.g.launch = n → x.instant = w.inst → p.exact = [x] → s.strand? x.who = some st → plainPair st x.pair →
    (∀ v e, p.least = some (v, e) → ∃ t : State, exec (.exactTakeService n) s = .next t
      ∧ poolIs t p.num (fun q => q.exact = []) ∧ strandIs t x.who (fun y => ∃ r, gotTake y p.num x.pair x.pred (some e)
          (fun v => isStatus v (BitVec.allOnes 64) r 0 false false false true)))
    ∧ (p.least = none → ∃ t : State, exec (.exactTakeService n) s = .next t ∧ poolIs t p.num (fun q => q.exact = [])
        ∧ strandIs t x.who (fun y => ∃ r, gotTake y p.num x.pair x.pred none
          (fun v => isStatus v (BitVec.allOnes 64) r 0 false true false false)))

end Sys2Proof.Claims
namespace Sys2Proof.Claims

/-! ### Control and status registers -/

/-- What a CSR reads as (R58, and the rule of each), for those whose value is one register of the state. -/
def csrReads : List (Nat × (State → Lane)) :=
  [ (0x001, fun s => s.st.fcsr), (0x002, fun s => s.st.tmask), (0x003, fun s => s.st.canemit), (0x005, fun s => s.st.trappc)
  , (0x006, fun s => s.st.trapinfo), (0x007, fun s => s.st.trapval), (0x008, fun s => s.st.path), (0x009, fun s => s.st.mbox)
  , (0x00A, fun s => s.st.wdlim), (0x00C, fun s => s.st.canrld), (0x101, fun s => s.g.tvec)
  , (0x103, fun s => s.g.discard.setWidth 64), (0x105, fun s => s.g.instant)
  , (0x106, fun s => BitVec.ofNat 64 (s.g.synclim % 2 ^ 32)), (0x108, fun s => BitVec.ofNat 64 (s.g.msgtim % 2 ^ 32)) ]
/-- The strand CSRs that CSRSET writes besides FCSR and MBOX: number, whether only K may, and what it changes. -/
def csrWrites : List (Nat × Bool × (Lane → Strand → Strand)) :=
  [ (0x005, true, fun v t => { t with trappc := v }), (0x006, true, fun v t => { t with trapinfo := v &&& 0x1FFFFFF })
  , (0x007, true, fun v t => { t with trapval := v }), (0x008, true, fun v t => { t with path := v })
  , (0x00A, true, fun v t => { t with wdlim := v }) ]
/-- The numbers that no register has (R58). -/
def noCsr (n : Nat) : Prop :=
  n = 0 ∨ (0x013 < n ∧ n < 0x100) ∨ (0x10D < n ∧ n < 0x200) ∨ (0x207 < n ∧ n < 0x300) ∨ 0x306 < n
/-- A row of the table that writes one group register (R427): its number. -/
def groupWrites : Instr → Option (Head × Reg × PSrc × Nat)
  | .gstatDiscClear h d a => some (h, d, a, 0x100)
  | .cpauseResume h d a | .cpauseAbandon h d a => some (h, d, a, 0x107)
  | .csrset h d a n => if n = 0x101 ∨ n = 0x103 ∨ n = 0x106 ∨ n = 0x107 ∨ n = 0x108 then some (h, d, a, n.toNat) else none
  | _ => none

/-- R58, R147, R427: CSRGET gives the value of a register; of FCSR it parks while a floating-point result of the strand is outstanding;
a number that no register has is ILLEGAL. -/
def RegistersAreRead : Prop :=
  ∀ (n : Needs) (s : State) (h : Head) (d : Reg) (k : BitVec 12), ReadyFor (.csrget h d k) n s →
    (∀ f, (k.toNat, f) ∈ csrReads → (k = 1 → s.fpOut = false) → exec (.csrget h d k) s = .next (wrote n s d (quad2 (f s) 0)))
    ∧ (csrDefined k.toNat = true → (k = 1 → s.fpOut = false) → ∃ (t : State) (v : Lane),
        exec (.csrget h d k) s = .next (done (t.writeReg d (quad2 v 0))) ∧ t = { s with fresh := t.fresh })
    ∧ (k = 1 → s.fpOut = true → ∃ t : State, exec (.csrget h d k) s = .next t ∧ t.st.run = .parked .value ∧ t.st.fcap = s.st.fcap
        ∧ t.st.fcsr = s.st.fcsr)
    ∧ (noCsr k.toNat → exec (.csrget h d k) s = .next (s.trap ⟨.illegal, 0, 0x02, 0⟩))

/-- R53, R58, R59, R427: CSRSET writes a strand's register at once and gives the old value; a register that its level may not
write raises PRIV, and a number that no register has is ILLEGAL. CANRLD, WATCHST and MBOX have rows of their own; a MBOX
that names a register in stream mode is ILLEGAL. -/
def RegistersAreWritten : Prop :=
  ∀ (n : Needs) (s : State) (h : Head) (d : Reg) (a : PSrc),
    (∀ (k : BitVec 12) f, (k.toNat, true, f) ∈ csrWrites → ReadyFor (.csrset h d a k) n s →
      (s.st.kernel = true → ∀ r, (k.toNat, r) ∈ csrReads → exec (.csrset h d a k) s
        = .next (done (((n.after s).modSt (f ((src n s 0).setWidth 64))).writeReg d (quad2 (r s) 0))))
      ∧ (s.st.kernel = false → exec (.csrset h d a k) s = .next (s.trap ⟨.priv, 0, 0, 0⟩)))
    ∧ (∀ k : BitVec 12, ReadyFor (.csrset h d a k) n s → noCsr k.toNat →
        exec (.csrset h d a k) s = .next (s.trap ⟨.illegal, 0, 0x02, 0⟩))
    ∧ (ReadyFor (.canrldWrite h d a) n s → s.st.kernel = true → exec (.canrldWrite h d a) s = .next (done (((n.after s).modSt
        (fun t => { t with canrld := (src n s 0).setWidth 64 })).writeReg d (quad2 s.st.canrld 0))))
    ∧ (ReadyFor (.watchstWrite h d a) n s → s.st.kernel = true → ∃ (t : State) (v : Lane),
        exec (.watchstWrite h d a) s = .next (done (t.writeReg d (quad2 v 0)))
        ∧ t.st.wdepth = min 4 ((src n s 0).extractLsb' 48 3).toNat
        ∧ ∀ e : Fin 4, (t.st.watch[e]).kind = (src n s 0).extractLsb' (12 * e.val) 2
            ∧ (t.st.watch[e]).sig = (src n s 0).extractLsb' (12 * e.val + 2) 6
            ∧ (t.st.watch[e]).fired = (src n s 0).getLsbD (12 * e.val + 8)
            ∧ (t.st.watch[e]).armed = (src n s 0).getLsbD (12 * e.val + 9)
            ∧ (t.st.watch[e]).handler = (s.st.watch[e]).handler)
    ∧ (ReadyFor (.mboxWrite h d a) n s →
        ((∀ k : Fin 48, k.val ≠ 0 → (src n s 0).getLsbD k.val = true → (s.st.c[k]).stream = false) →
          s.g.arrivals = [] → s.g.refusals = [] → exec (.mboxWrite h d a) s = .next (done (((n.after s).modSt
            (fun t => { t with mbox := (src n s 0).setWidth 64 &&& 0xFFFFFFFFFFFE })).writeReg d (quad2 s.st.mbox 0))))
        ∧ ((∃ k : Fin 48, k.val ≠ 0 ∧ (src n s 0).getLsbD k.val = true ∧ (s.st.c[k]).stream = true) →
            exec (.mboxWrite h d a) s = .next (s.trap ⟨.illegal, 0, 0x0B, 0⟩)))

/-- R427: a group's register is written 4 cycles later, and gives its old value at once: the write waits; at its time DISC,
TVEC, DISCARD, SYNCLIM and MSGTIM take their fields, and CPAUSE selects, and resumes or abandons, its operation (R274). -/
def GroupRegistersAreWritten : Prop :=
  ∀ (s : State),
    (∀ (i : Instr) (n : Needs) (h : Head) (d : Reg) (a : PSrc) (k : Nat), groupWrites i = some (h, d, a, k) → ReadyFor i n s →
      (s.st.kernel = true → ∃ (t : State) (v : Lane), exec i s = .next (done (t.writeReg d (quad2 v 0)))
        ∧ t = (n.after s).modG (fun g => { g with csrWrites := g.csrWrites ++ [(s.now + 4 * s.cyc, k, (src n s 0).setWidth 64)] })
        ∧ (∀ r, (k, r) ∈ csrReads → v = r s))
      ∧ (s.st.kernel = false → exec i s = .next (s.trap ⟨.priv, 0, 0, 0⟩)))
    ∧ (∀ (due : Nat) (v : Lane), let after (k : Nat) : State := ({ s with g := { s.g with csrWrites := [(due, k, v)] } }).settleCsrs
        (s.now < due → ∀ k, after k = { s with g := { s.g with csrWrites := [(due, k, v)] } })
        ∧ (due ≤ s.now → (after 0x100).g.disc = (s.g.disc && !v.getLsbD 0)
          ∧ (after 0x101).g.tvec = v &&& 0xFFFFFFFFFFC ∧ (after 0x103).g.discard = v.setWidth 32
          ∧ (after 0x106).g.synclim = v.toNat % 2 ^ 32 ∧ (after 0x108).g.msgtim = v.toNat % 2 ^ 32
          ∧ (∀ x, s.g.streams.find? (fun x => x.num == (v.extractLsb' 56 6).toNat && x.pause.isSome) = some x → x.num < 32 →
              (v.getLsbD 63 = true → v.getLsbD 62 = false → ((after 0x107).g.stream? x.uid).map (·.pause) = some none)
              ∧ (v.getLsbD 63 = false → v.getLsbD 62 = true → ((after 0x107).g.stream? x.uid).map (·.exhausted) = some true))
          ∧ (after 0x107).g.cpsel = (v.extractLsb' 56 6).toNat))

/-! ### Points, translations, images and notifications -/

/-- R417, R428: CKPT marks the instant for a point and gives the number that the point will take; with recovery points off it
gives 0. -/
def CheckpointsAreMarked : Prop :=
  ∀ (n : Needs) (s : State) (h : Head) (d : Reg) (l : Launch), ReadyFor (.ckpt h d) n s → s.myLaunch = some l →
    (l.recov = true → ∃ t : State, exec (.ckpt h d) s = .next (done (t.writeReg d (quad2 (BitVec.ofNat 64 (l.points + 1)) 0)))
      ∧ launchIs t l.num (fun m => m.ckpt = true ∧ m.points = l.points))
    ∧ (l.recov = false → exec (.ckpt h d) s = .next (wrote n s d 0))

/-- R429: TLBINV takes the issuing tenant's entries, all or those that hit the cursor of A, out of every TLB of the launch's
dies, and no other tenant's; then it parks for the walks that had begun before it, if there are any. -/
def TranslationsAreDropped : Prop :=
  ∀ (i : Instr) (n : Needs) (s : State) (h : Head) (a : PSrc) (hit : TlbEntry → Bool),
    (i = .tlbinvAll h ∧ hit = fun _ => true) ∨ (i = .tlbinvPage h a ∧ (hit = fun e => e.hits (capSpace (src n s 0))
        (capCursor (src n s 0))) ∧ (n.after s).checkCap (cell n s 0) { spaces := fun n => 2 ≤ n && n ≤ 5 } = none) →
    ReadyFor i n s → s.st.prog = .none →
    let gone (t : State) : Prop := ∀ v d, v ∈ s.myDies → s.die? v = some d → ∃ e, t.die? v = some e
      ∧ e.tlb = d.tlb.filter (fun x => !(x.2.tenant == s.myTenant && hit x.2))
      ∧ e.l2 = d.l2.filter (fun x => !(x.tenant == s.myTenant && hit x))
    ((∀ g ∈ s.groups, ∀ k : Fin 8, (g.st[k]).walkWant = none) → ∃ t : State, exec i s = .next (done t) ∧ gone t ∧ t.g = (n.after s).g)
    ∧ ((∃ k : Fin 8, k ≠ s.slot ∧ (s.g.st[k]).walkWant ≠ none) → ∃ t : State, exec i s = .next t ∧ gone t
        ∧ t.st.run = .parked .tlbinv ∧ t.st.fcap = s.st.fcap)

/-- The capability of CTXSAVE and CTXLOAD passes its checks, and the words of the image are found. -/
def imageWords (n : Needs) (s p : State) (ws : List EngWord) : Prop :=
  let q := n.after s
  q.checkCap (cell n s 0) { ld := true, st := true, spaces := fun n => 2 ≤ n && n ≤ 4, align := 4096 } = none
    ∧ capCST (src n s 0) = true ∧ 65536 + s.g.size ≤ capRest (src n s 0)
    ∧ q.engWords (src n s 0) 0 (65536 + s.g.size) true true = (.ok ws, p)

/-- R240, R407, R430, R431: CTXSAVE and CTXLOAD ask the other strands of the group to stop and park; with the group stopped, CTXSAVE
has an image of it and gives its own strand 0; CTXLOAD, which traps CAPTAG 0x03 where the words are no image of the group,
goes on as the strand that made the image, with 1 in D: the group's instant and its handler are the image's. That an image is held as
data and found by its bytes is the model's choice (log entry 13). -/
def ImagesAreSavedAndLoaded : Prop :=
  ∀ (n : Needs) (s p : State) (h : Head) (d : Reg) (a : PSrc) (ws : List EngWord), imageWords n s p ws →
    (ReadyFor (.ctxsave h d a) n s → s.st.prog = .none → p.st.prog = .none → ∃ t : State, exec (.ctxsave h d a) s = .next t
      ∧ t.st.run = .parked .ctx ∧ t.st.fcap = p.st.fcap ∧ t.images = p.images)
    ∧ (∀ v w tag ok, ReadyFor (.ctxsave h d a) n s → p.st.prog = .answered v w tag ok → ∃ (t : State) (im : Image),
        exec (.ctxsave h d a) s = .next (done (t.writeReg d 0)) ∧ t.images = p.images ++ [im]
        ∧ im.group.gid = p.g.gid ∧ im.by_ = p.slot ∧ im.d = d ∧ (∀ k : Fin 8, (im.group.st[k]).tmask = 0 ∧ (im.group.st[k]).stopped = false)
        ∧ ∀ x ∈ im.group.store, x.st.tmask = 0)
    ∧ (ReadyFor (.ctxload h d a) n s → p.findImage ws = none →
        exec (.ctxload h d a) s = .next (s.trap ⟨.captag, 0, 0x03, capPointer (src n s 0)⟩))
    ∧ (∀ im v w tag ok (k : Fin 48), ReadyFor (.ctxload h d a) n s → p.findImage ws = some im → p.st.prog = .answered v w tag ok →
        im.d = .c k → k.val ≠ 0 → ((im.group.st[im.by_]).c[k]).stream = false → ∃ t : State, exec (.ctxload h d a) s = .next t
        ∧ t.slot = im.by_ ∧ t.g.gid = p.g.gid ∧ t.g.instant = im.group.instant ∧ t.g.tvec = im.group.tvec
        ∧ t.st.fcap = (im.group.st[im.by_]).fcap ∧ (t.st.c[k]).v.setWidth 64 = 1)

/-- R421, R432: NOTIFY, its release complete, queues its vector and payload for the tenant's process with the next sequence
number of its launch, which it gives; with 1,024 queued it parks. The process takes the oldest. -/
def NotificationsAreQueued : Prop :=
  ∀ (n : Needs) (s p : State) (h : Head) (d : Reg) (a : PSrc) (vec : BitVec 8) (x : Tenant) (l : Launch),
    (ReadyFor (.notify h d a vec) n s → s.st.prog = .none → fenceDone n s .device .rel p → p.tenant? p.myTenant = some x →
      p.myLaunch = some l →
      (x.notices.length < 1024 → ∃ t : State,
        exec (.notify h d a vec) s = .next (done (t.writeReg d (quad2 (BitVec.ofNat 64 (l.notifySeq + 1)) 0)))
        ∧ (t.tenant? p.myTenant).map (·.notices)
            = some (x.notices ++ [⟨vec.toNat, lane0 (cell n s 0), l.points, l.notifySeq + 1⟩])
        ∧ launchIs t l.num (fun m => m.notifySeq = l.notifySeq + 1))
      ∧ (1024 ≤ x.notices.length → ∃ t : State, exec (.notify h d a vec) s = .next t ∧ t.st.run = .parked .notify
          ∧ t.st.fcap = p.st.fcap ∧ t.tenants = p.tenants))
    ∧ ∀ k o r, s.tenant? k = some x → x.notices = o :: r → ∃ t : State, exec (.notifyTake k) s = .next t
        ∧ t.hostOut = s.hostOut ++ [.taken o] ∧ (t.tenant? k).map (·.notices) = some r

/-! ### Stops, halts, points and errors -/

/-- No group is asked to stop. -/
def noStop (s : State) : Prop := ∀ g ∈ s.groups, g.stop = none
/-- A group stands on a tile, in no pair in HOLD, with a strand that runs. -/
def runsOn (s : State) (g : GroupId) (x : Group) (k : Fin 8) : Prop :=
  s.group? g = some x ∧ x.gid = g ∧ x.state = .resident ∧ s.holding x = false ∧ (x.st[k]).run = .ready ∧ (x.st[k]).stopped = false

/-- R403, R405: a request stops each strand that stands at a yield point, is idle or is paused, and lets the others run; at its
deadline one that is ready between two instructions stops too. A group with nothing under way whose strands are all
idle is saved at once. That what is under way ends in the step of the stop is the model's choice (log entry 34). -/
def StopsMeetStrands : Prop :=
  ∀ (s : State) (g : GroupId) (x : Group) (k : Fin 8),
    (∀ why, runsOn s g x k → noStop s → why ≠ .ctx → ∃ t : State, exec (.stopRequest g why) s = .next t ∧ groupIs t g (fun y =>
      y.stop = some ⟨why, s.now, none⟩ ∧ y.state = .resident ∧ (y.st[k]).stopped = false
      ∧ ∀ j : Fin 8, (x.st[j]).standsAtYield = true → (y.st[j]).stopped = true))
    ∧ (∀ r, s.group? g = some x → x.gid = g → x.stop = some r → r.why = .preempt → r.by_ = none → (x.st[k]).run = .ready →
        (x.st[k]).prog = .none → (x.st[k]).consumed = false → (∀ h ∈ s.groups, h.gid ≠ g → h.stop = none) →
        ∃ t : State, exec (.stopDeadline g) s = .next t ∧ r.since + 100000 * Config.nsTicks ≤ t.now
          ∧ strandIs t ⟨g, k⟩ (fun y => y.stopped = true))
    ∧ (s.group? g = some x → x.gid = g → x.state = .resident → s.holding x = false → noStop s → (∀ j : Fin 8, x.st[j] = {}) →
        x.mx = [] → x.late = [] → x.ops = [] → x.swrites = [] → s.chans = [] → s.rets = [] → s.landed = [] → s.replies = [] →
        (∀ d ∈ s.dies, d.lines = []) → ∃ t : State, exec (.stopRequest g .preempt) s = .next t ∧ groupIs t g (fun y =>
          y.state = .saved ∧ y.place = none ∧ y.saves = (x.saves + 1) % 2 ^ 32 ∧ y.spad = x.spad ∧ y.tvec = x.tvec))

/-- R322: the first group of its launch and die whose strands are all halted, paused or parked on a signal test or at RBAR, with none
in its join store, is asked to leave its tile while another group waits and no tile is free. R410, R412: a saved group that is placed again has
its strands where they were, released, and DISC tells of the parts that DISCARD gave up. -/
def GroupsLeaveAndReturn : Prop :=
  ∀ (s : State) (g : GroupId) (x : Group), s.group? g = some x → x.gid = g →
    (x.state = .resident → x.store = [] → s.holding x = false → noStop s → (∀ k : Fin 8, (x.st[k]).run = .idle ∨ (∃ w, (x.st[k]).run = .paused w)
        ∨ (x.st[k]).run = .parked .rbar ∨ ∃ y e, (x.st[k]).run = .parked (.signal y e)) →
      (∃ y ∈ s.groups, y.gid.launch = g.launch ∧ y.homeDie = x.homeDie ∧ y.waits = true) →
      (∀ tile, tile < 144 → s.tileFree x.homeDie tile g = false) →
      (∀ y ∈ s.groups, y.gid.launch = g.launch → y.homeDie = x.homeDie → y.gid.num < g.num → y.state ≠ .resident) →
        ∃ t : State, exec (.groupSaveOut g) s = .next t ∧ groupIs t g (fun y =>
          (y.stop = some ⟨.saveOut, s.now, none⟩ ∨ (y.state = .saved ∧ y.outWhy = some .saveOut))
          ∧ ∀ k : Fin 8, (y.st[k]).stopped = true))
    ∧ (∀ tile l, s.launch? g.launch = some l → x.state = .saved → s.nextPlaced x = true → (s.tilesFor l x).contains tile = true →
        ∃ t : State, exec (.groupResume g tile) s = .next t ∧ groupIs t g (fun y => y.state = .resident
          ∧ y.place = some ⟨x.homeDie, tile⟩ ∧ y.logical = tile ∧ y.resumed = true ∧ y.disc = (x.disc || x.discard != 0)
          ∧ ∀ k : Fin 8, (y.st[k]).stopped = false ∧ (y.st[k]).fcap = (x.st[k]).fcap ∧ (y.st[k]).p = (x.st[k]).p))

/-- R413, R415: the debugger halts a group of the launch to which it is attached, writes state of a halted group and of no other,
freezes a halted group, and releases it. -/
def GroupsHaltAndFreeze : Prop :=
  ∀ (s : State) (g : GroupId) (x : Group), s.group? g = some x → x.gid = g →
    (∀ l, s.launch? g.launch = some l → l.debugged = true → x.state = .resident → ∃ t : State, exec (.debugHalt g) s = .next t
      ∧ groupIs t g (fun y => y.dhalt = true ∧ ∀ k : Fin 8, (y.st[k]).fcap = (x.st[k]).fcap ∧ (y.st[k]).c = (x.st[k]).c
          ∧ (y.st[k]).run = (x.st[k]).run))
    ∧ (∀ off v, ∃ t : State, exec (.managementMessage (.spad g off) v) s = .next t ∧ groupIs t g (fun y =>
        y = if x.dhalt then x.writeSp off (bytesOfNat 8 v.toNat) else x))
    ∧ (∀ (k : Fin 8) v, ∃ t : State, exec (.managementMessage (.pc ⟨g, k⟩) v) s = .next t ∧ groupIs t g (fun y =>
        (y.st[k]).fcap.v = (if x.dhalt then capAt (x.st[k]).fcap.v v.toNat else (x.st[k]).fcap.v)
        ∧ (y.st[k]).c = (x.st[k]).c ∧ (y.st[k]).run = (x.st[k]).run))
    ∧ (x.dhalt = true → ∃ t : State, exec (.freeze g) s = .next t ∧ groupIs t g (fun y => y.frozen = true ∧ y.dhalt = true))
    ∧ (x.arrivals = [] → x.refusals = [] → exec (.freezeRelease g) s = .next (s.modGroup g (fun y => { y with frozen := false })))

/-- R417 to R420: a point that falls due while no group of the launch is on a tile is committed: it has the launch's groups, the
next number, and the instant that is to start, and the undo log and the escrow are empty. With a running group it first
asks each to stop, as a full escrow does. -/
def PointsAreCommitted : Prop :=
  ∀ (s : State) (n : Nat) (l : Launch), s.launch? n = some l → l.num = n → l.status = none → s.noStops n = true →
    (∀ w, l.wave = some w → s.pointDue l w = true → (∀ v ∈ l.dies, (s.region (s.regionOf v)).draining = false) →
      (∀ g ∈ s.groups, g.gid.launch = n → g.state ≠ .resident ∧ g.state ≠ .swapping) →
      ∃ (t : State) (p : Point), exec (.recoveryPoint n) s = .next t ∧ p ∈ t.points ∧ p.launch = n ∧ p.num = l.points + 1
        ∧ p.instant = w.inst + 1 ∧ (∀ g ∈ s.groups, g.gid.launch = n → ∃ y ∈ p.groups, y.gid = g.gid)
        ∧ launchIs t n (fun m => m.points = l.points + 1 ∧ m.ckpt = false ∧ m.undo = [] ∧ m.escrow = []))
    ∧ (∀ w g x k, l.wave = some w → s.pointDue l w = true → (∀ v ∈ l.dies, (s.region (s.regionOf v)).draining = false) →
        g.launch = n → runsOn s g x k → noStop s → ∃ t : State, exec (.recoveryPoint n) s = .next t
          ∧ groupIs t g (fun y => y.stop = some ⟨.point, s.now, none⟩) ∧ launchIs t n (fun m => m.points = l.points))
    ∧ (∀ g x k, s.escrowFull l = true → g.launch = n → runsOn s g x k → noStop s → ∃ t : State, exec (.drainPoint n) s = .next t
        ∧ groupIs t g (fun y => y.stop = some ⟨.drain, s.now, none⟩) ∧ launchIs t n (fun m => m.points = l.points))

/-- R422: a launch with a point and no group on a tile rolls back: its groups are as the point has them, saved where they stood
on tiles, the host is told, and the launch counts it. That the wave of the point's instant is restored with it is the model's choice
(log entry 36). -/
def LaunchesRollBack : Prop :=
  ∀ (s : State) (n : Nat) (l : Launch) (p : Point), s.launch? n = some l → l.num = n → l.status = none → l.recov = true →
    0 < l.points → (∀ k ∈ l.kids, k ∈ p.kids) → s.points.find? (fun p => p.launch == n) = some p →
    (∀ e ∈ p.entries, e.num ≠ n) →
    (∀ g ∈ s.groups, g.gid.launch = n → g.state ≠ .resident ∧ g.state ≠ .swapping) →
      ∃ t : State, exec (.rollback n) s = .next t ∧ t.hostOut = s.hostOut ++ [.rolledBack n p.num]
        ∧ launchIs t n (fun m => m.rollbacks = (l.rollbacks + 1) % 2 ^ 32 ∧ m.wave = p.wave ∧ m.undo = [] ∧ m.escrow = [])
        ∧ ∀ g x y, s.group? g = some x → x.gid = g → g.launch = n → p.groups.find? (fun h => h.gid == g) = some y →
            groupIs t g (fun z => z.spad = y.spad ∧ z.instant = y.instant ∧ z.st = y.st ∧ z.acc = y.acc ∧ z.inbox = y.inbox
              ∧ (y.state = .resident → z.state = .saved ∧ z.place = none))

/-- R402, R406: an error that does not recur is counted for the part in which it is found, and changes nothing else; a lasting one is
counted too, and of a launch without recovery points it raises MACHINE: at the instruction that the unit or the word belongs to, with
details 0x01 and 0x02, at the load's register when it is read, or at the next boundary for a strand's state; and a word that is lost
stays so. Which part an error lies in is the model's choice (log entry 46). -/
def LastingErrorsTrap : Prop :=
  ∀ (s : State),
    (∀ e, exec (.errorDetected e false) s
      = .next { s with dev := { s.dev with faults := s.dev.faults ++ (s.errorPart e).toList.map (fun p => ⟨p, s.now, false⟩) } })
    ∧ (∀ e, errorLaunch e = 0 → s.launch? 0 = none → ∃ t : State, exec (.errorDetected e true) s = .next t
        ∧ t.dev.faults = s.dev.faults ++ (s.errorPart e).toList.map (fun p => ⟨p, s.now, true⟩))
    ∧ (∀ w g l, s.group? w.g = some g → g.gid = w.g → (g.st[w.slot]).run = .ready → g.fatal g.st[w.slot] = false →
        s.launch? w.g.launch = some l → l.recov = false →
        (∃ t : State, exec (.errorDetected (.unit w) true) s = .next t
          ∧ t.dev.faults = s.dev.faults ++ (s.errorPart (.unit w)).toList.map (fun p => ⟨p, s.now, true⟩) ∧ strandIs t w (fun y =>
          (y.trapinfo.extractLsb' 0 8).toNat = 0x14 ∧ (y.trapinfo.extractLsb' 16 8).toNat = 0x01
          ∧ y.trappc = BitVec.ofNat 64 (g.st[w.slot]).pc))
        ∧ (∀ word, ∃ t : State, exec (.errorDetected (.scratch w word) true) s = .next t
            ∧ groupIs t w.g (fun y => word ∈ y.badWords ∧ ((y.st[w.slot]).trapinfo.extractLsb' 0 8).toNat = 0x14
              ∧ ((y.st[w.slot]).trapinfo.extractLsb' 16 8).toNat = 0x02 ∧ (y.st[w.slot]).trapval = pointer 0 (8 * word)))
        ∧ (∀ r p x, s.rets.find? (fun x => x.who == w && x.dst == r) = some x → ∃ t : State,
            exec (.errorDetected (.load w r p) true) s = .next t
              ∧ t.rets.find? (fun x => x.who == w && x.dst == r) = some { x with bad := some p } ∧ t.g = s.g)
        ∧ (∀ k, ∃ t : State, exec (.errorDetected (.state w k) true) s = .next t ∧ strandIs t w (fun y =>
            y.ackLost = (g.st[w.slot]).ackLost ++ [⟨.machine, 0, 0x05, BitVec.ofNat 64 k⟩])))

end Sys2Proof.Claims
namespace Sys2Proof.Claims

/-! ### Start, tenants and the host -/

/-- Nothing but the device's registers and what the boot brings up has changed. -/
def keepsHost (s t : State) : Prop := t.objects = s.objects ∧ t.tools = s.tools
/-- Region k has joined at the reduced clock. -/
def joined (t : State) (k : Nat) : Prop :=
  t.dev.live.getLsbD k = true ∧ t.dev.reduced.getLsbD k = true ∧ (t.region k).reduced = true

/-- R30, R437, R438, R455: at power-good nothing runs: no die, group, launch, tenant or message, and memory is as at reset; the
non-volatile store stays, stage 0 has tried its images, and reports both slots where neither is accepted; a port that was retired is out.
That memory reads as at reset is the model's choice (log entry 5), and so is what the host keeps (log entry 37). -/
def PowerGoodStartsAnew : Prop :=
  ∀ s : State, ∃ t : State, exec .powerGood s = .next t ∧ keepsHost s t
    ∧ t.hostOut = s.hostOut ++ (if t.dev.accepted = none then [.slotRefused 0, .slotRefused 1] else [])
    ∧ (∀ q ∈ s.dev.portsFailed, q ∈ t.dev.portsOut) ∧ t.dev.powered = true ∧ t.dev.stage = 0
    ∧ t.dies = [] ∧ t.launches = [] ∧ t.tenants = [] ∧ t.chans = [] ∧ t.mem = State.reset.mem ∧ t.others = []
    ∧ t.g = State.reset.g ∧ t.dev.rollbackCounter = s.dev.rollbackCounter ∧ t.dev.slot0 = s.dev.slot0 ∧ t.dev.slot1 = s.dev.slot1
    ∧ t.dev.deadDies = s.dev.deadDies ∧ t.dev.deadTiles = s.dev.deadTiles ∧ t.dev.harvestVersion = s.dev.harvestVersion
    ∧ (∀ k, t.dev.accepted = some k → s.dev.rollbackCounter ≤ if k = 0 then s.dev.slot0 else s.dev.slot1)

/-- R440, R442: stage 1 brings up the live dies of the map and region 0 at the reduced clock; the regions join in rising order,
and one that fails its test never does; once every region has been tried, stage 3 ends the reduced clock, and CAL is 1. -/
def StagesFollow : Prop :=
  ∀ (s : State),
    (s.dev.powered = true → s.dev.accepted ≠ none → s.dev.stage = 0 → ∃ t : State, exec .stage1 s = .next t ∧ t.dev.stage = 1
      ∧ joined t 0 ∧ t.dies.map (·.phys) = s.dev.goodDies ∧ t.dies.map (·.v) = List.range s.dev.goodDies.length)
    ∧ (∀ k, k < 16 → s.dev.stage = 1 ∨ s.dev.stage = 2 → s.dev.live.getLsbD k = false → s.dev.failed.getLsbD k = false →
        (∀ j, j < k → s.dev.live.getLsbD j = true ∨ s.dev.failed.getLsbD j = true) →
        (∃ t : State, exec (.regionJoin k true) s = .next t ∧ t.dev.stage = 2 ∧ joined t k)
        ∧ ∃ t : State, exec (.regionJoin k false) s = .next t ∧ t.dev.stage = 2 ∧ t.dev.failed.getLsbD k = true
            ∧ t.dev.live = s.dev.live)
    ∧ (s.dev.stage = 2 → s.dev.live ||| s.dev.failed = BitVec.allOnes 16 → ∃ t : State, exec .stage3 s = .next t
        ∧ t.dev.stage = 3 ∧ t.dev.reduced = 0 ∧ (∀ k, (t.region k).reduced = false) ∧ ∀ d ∈ t.dies, d.cal = true)

/-- R439: a signed measurement of index 1 to 5 reaches the host: with the slot and its version for the image, and the rollback counter
where that is its index. -/
def MeasurementsAreSigned : Prop :=
  ∀ (s : State) (tn k : Nat), s.dev.powered = true → 1 ≤ k → k ≤ 5 → (k = 5 → (s.tenant? tn).isSome = true) →
    ∃ (t : State) (v : Nat) (dg : BitVec 256) (sg : BitVec 512), exec (.spdmMeasurement tn k) s = .next t
      ∧ t.hostOut = s.hostOut ++ [.signed k v (if k = 2 then s.dev.accepted else none) dg sg] ∧ (k = 3 → v = s.dev.rollbackCounter)
      ∧ (k = 2 → s.dev.accepted = some 0 → v = s.dev.slot0) ∧ (k = 2 → s.dev.accepted = some 1 → v = s.dev.slot1)

/-- Nothing of the control die waits before a home. -/
def controlIdle (s : State) : Prop := ∀ h, s.chan ⟨.control, h⟩ = []

/-- R230, R241, R433, R435: the host and the PCI functions of a tenant read and write memory through the tenant's tables, as the
control die does at the homes; a read that does not translate is aborted, a write is dropped, and a function's fault is logged. R434: an error of a function is logged
to its tenant, and a drive comes or goes at a part that its root port has. In stage 0 the module answers none of these. That the host
sees the bytes at the homes, in one step, is the model's choice (log entries 38 and 57). -/
def HostsReachMemory : Prop :=
  ∀ (s : State) (tn sp a k fn : Nat) (bs : List Byte),
    (s.dev.stage = 0 → exec (.hostRead tn sp a k) s = .next s ∧ exec (.hostWrite tn sp a bs) s = .next s
      ∧ (∀ kd, exec (.dmaAccess fn kd sp a bs) s = .next s) ∧ ∀ p b, exec (.hotPlug p b) s = .next s)
    ∧ (∀ (x : Tenant) code, s.functionOwner fn = some x → s.tenant? x.num = some x → ∃ t : State, exec (.aerError fn code) s = .next t
        ∧ (t.tenant? x.num).map (·.log) = some (x.log ++ [.aer fn code]))
    ∧ (s.dev.stage ≠ 0 →
    (∀ ks, s.hostKeys tn sp a true false k = .ok ks → exec (.hostRead tn sp a k) s
      = .next { s with hostOut := s.hostOut ++ [.value (ks.map s.mem.read)] })
    ∧ (∀ e, s.hostKeys tn sp a true false k = .error e → exec (.hostRead tn sp a k) s
        = .next { s with hostOut := s.hostOut ++ [.aborted] })
    ∧ (∀ ks, s.mem.wf = true → controlIdle s → s.hostKeys tn sp a false true bs.length = .ok ks → ks.Nodup → ∃ t : State,
        exec (.hostWrite tn sp a bs) s = .next t ∧ (∀ j k, ks[j]? = some k → t.mem.read k = bs.getD j 0)
          ∧ ∀ b, b ∉ ks → t.mem.read b = s.mem.read b)
    ∧ (∀ e, s.hostKeys tn sp a false true bs.length = .error e → exec (.hostWrite tn sp a bs) s = .next s)
    ∧ (∀ x : Tenant, s.functionOwner fn = some x → s.tenant? x.num = some x → sp ≠ 5 →
        (∀ ks, s.hostKeys x.num sp a true false bs.length = .ok ks → exec (.dmaAccess fn .read sp a bs) s
          = .next { s with hostOut := s.hostOut ++ [.value (ks.map s.mem.read)] })
        ∧ (∀ ks, s.mem.wf = true → controlIdle s → s.hostKeys x.num sp a false true bs.length = .ok ks → ks.Nodup → ∃ t : State,
            exec (.dmaAccess fn .write sp a bs) s = .next t ∧ (∀ j k, ks[j]? = some k → t.mem.read k = bs.getD j 0)
              ∧ ∀ b, b ∉ ks → t.mem.read b = s.mem.read b)
        ∧ (∀ c y, s.hostKeys x.num sp a false true bs.length = .error (c, y) → ∃ t : State,
            exec (.dmaAccess fn .write sp a bs) s = .next t ∧ t.mem = s.mem
              ∧ (t.tenant? x.num).map (·.log) = some (x.log ++ [.dma fn c (pointer sp y)])))
    ∧ (∀ p, p / 8 < (s.dev.rootPort p).parts → (∃ t : State, exec (.hotPlug p true) s = .next t ∧ p ∈ t.dev.drives)
        ∧ ∃ t : State, exec (.hotPlug p false) s = .next t ∧ p ∉ t.dev.drives))

/-- R438, R443, R444: a rectangle that lies in the grid and shares no die with another tenant's becomes a tenant's while no launch of
it is queued or runs; one that does not changes nothing, nor does any in stage 0. -/
def RectanglesAreGiven : Prop :=
  ∀ (s : State) (tn x y w h : Nat),
    let mine := rectangleDies x y w h
    let good := s.dev.stage ≠ 0 ∧ 0 < tn ∧ tn ≤ 255 ∧ 0 < w ∧ 0 < h ∧ x + w ≤ 8 ∧ y + h ≤ 16
      ∧ (∀ t ∈ s.tenants, t.num ≠ tn → ∀ v ∈ rectangleDies t.vx0 t.vy0 t.width t.height, v ∉ mine)
      ∧ ∀ l ∈ s.launches, l.tenant = tn → l.status ≠ none
    (good → ∃ (t : State) (z : Tenant), exec (.tenantRectangle tn x y w h) s = .next t ∧ t.tenant? tn = some z
      ∧ z.vx0 = x ∧ z.vy0 = y ∧ z.width = w ∧ z.height = h)
    ∧ (¬ good → exec (.tenantRectangle tn x y w h) s = .next s)

/-- R59, R286, R303, R359, R398, R416, R417, R442, R446, R448, R456: firmware writes the registers that are its own: ROTINT, OLAT,
the optical status and the excused tiles of a die, PSTEP, DETEN and RPCFG of a region, the boot status and the harvest map's version,
a breakpoint of a group, and a tenant's table root and handler. -/
def ManagementWrites : Prop :=
  ∀ (s : State) (v : Lane),
    (∀ d z, s.die? d = some z →
      (∃ t : State, exec (.managementMessage (.dieCsr d 0x201) v) s = .next t ∧ (∃ e, t.die? d = some e
        ∧ e.tdiff = (v.extractLsb' 40 8).toNat ∧ e.pairsMax = (v.extractLsb' 32 4).toNat ∧ e.interval = v.toNat % 2 ^ 32))
      ∧ (∃ t : State, exec (.managementMessage (.dieCsr d 0x200) v) s = .next t ∧ (∃ e, t.die? d = some e
        ∧ e.maxlat = (v.extractLsb' 32 32).toNat ∧ e.count = v.toNat % 2 ^ 32))
      ∧ (∃ t : State, exec (.managementMessage (.dieCsr d 0x203) v) s = .next t ∧ (∃ e, t.die? d = some e
        ∧ e.herr = v.toNat % 2 ^ 16 ∧ e.cal = v.getLsbD 16 ∧ e.plup = (v.extractLsb' 20 4).toNat))
      ∧ ∃ t : State, exec (.managementMessage (.dieCsr d 0x204) v) s = .next t ∧ ∃ e, t.die? d = some e
          ∧ (∀ k, k < 64 → e.excuse.getLsbD k = v.getLsbD k) ∧ ∀ k, 64 ≤ k → e.excuse.getLsbD k = z.excuse.getLsbD k)
    ∧ (∀ k, k < 16 →
        (∃ t : State, exec (.managementMessage (.regionCsr k 0x300) v) s = .next t ∧ (t.region k).limit = v.toNat % 2 ^ 16
          ∧ (t.region k).held = (v.extractLsb' 16 16).toNat ∧ (t.region k).floor = (v.extractLsb' 32 4).toNat)
        ∧ (∃ t : State, exec (.managementMessage (.regionCsr k 0x303) v) s = .next t ∧ (t.region k).allow = v.getLsbD 0)
        ∧ ∃ t : State, exec (.managementMessage (.regionCsr k 0x305) v) s = .next t ∧ (t.region k).rpEn = v.getLsbD 63
            ∧ (t.region k).rpEvery = v.toNat % 2 ^ 32)
    ∧ (∃ t : State, exec (.managementMessage (.deviceCsr 0x302) v) s = .next t ∧ t.dev.stage = (v.extractLsb' 48 3).toNat
        ∧ t.dev.failed = v.extractLsb' 32 16 ∧ t.dev.reduced = v.extractLsb' 16 16 ∧ t.dev.live = v.extractLsb' 0 16)
    ∧ (∃ t : State, exec (.managementMessage (.deviceCsr 0x304) v) s = .next t
        ∧ t.dev.harvestVersion = (v.extractLsb' 56 8).toNat)
    ∧ (∀ g x, s.group? g = some x → x.gid = g → ∃ t : State, exec (.managementMessage (.groupCsr g 0x10B) v) s = .next t
        ∧ groupIs t g (fun y => y.dbgbp[1] = v &&& 0x80000FFFFFFFFFFC ∧ y.dbgbp[0] = x.dbgbp[0]))
    ∧ (∀ tn x sp, s.tenant? tn = some x →
        (∃ t : State, exec (.managementMessage (.root tn sp) v) s = .next t
          ∧ (t.tenant? tn).bind (fun y => y.roots.lookup sp) = some (v.toNat % 2 ^ 44))
        ∧ ∃ t : State, exec (.managementMessage (.handler tn) v) s = .next t ∧ (t.tenant? tn).map (·.handler) = some v.toNat)

/-! ### Power and drains -/

/-- What runs, what is in memory and what is under way are as they were. -/
def keepsRun (s t : State) : Prop :=
  t.g = s.g ∧ t.others = s.others ∧ t.mem = s.mem ∧ t.dies = s.dies ∧ t.launches = s.launches ∧ t.chans = s.chans
/-- The reading of the i-th sensor that a step measures: a free value. -/
def reading (s : State) (i : Nat) : Nat := Config.measured (s.fresh + i)
/-- A time at which a check of a period falls: a multiple of it, now or later, and not the one that was judged last. -/
def nextAfter (p : Nat) (last : Option Nat) (now t : Nat) : Prop :=
  now ≤ t ∧ t % p = 0 ∧ last ≠ some t ∧ (last ≠ some (t - p) → t < now + p) ∧ t < now + 2 * p
/-- Only region j has changed. -/
def onlyRegion (s t : State) (j : Nat) : Prop := ∀ i, i < 16 → i ≠ j → t.region i = s.region i

/-- R447, R449, R450, R451: a rise of current above LIMIT, judged once for each step of 200 ns, holds the region's work until the next step
and HELD counts it, saturating; no other does. Once each millisecond a draw above 22 kW raises FLOOR by 1, to 15 at most, in the live region that draws most,
and no other draw does; after 100 ms below 20.9 kW the highest FLOOR falls by 1. A droop throttles every tile of its region
to step 8 for 2 µs from now, and is counted; its end comes at its time. None of them changes what runs. -/
def PowerIsGoverned : Prop :=
  ∀ (s : State) (k : Nat), k < 16 →
    (∃ t : State, exec (.governorStep k) s = .next t ∧ keepsRun s t ∧ onlyRegion s t k
      ∧ nextAfter (200 * Config.nsTicks) (s.region k).stepAt s.now t.now
      ∧ t.region k = if (s.region k).limit < reading s 0
          then { s.region k with
            held := min 65535 ((s.region k).held + 1), governor := t.now + 200 * Config.nsTicks, stepAt := some t.now }
          else { s.region k with stepAt := some t.now })
    ∧ (∃ t : State, exec .powerCheck s = .next t ∧ keepsRun s t ∧ nextAfter msTicks s.dev.checkedAt s.now t.now
        ∧ t.dev.checkedAt = some t.now
        ∧ (reading s 0 ≤ 22000 → t.regions = s.regions)
        ∧ (22000 < reading s 0 → s.dev.live.getLsbD k = true → ∃ j, j < 16 ∧ s.dev.live.getLsbD j = true
            ∧ (∀ i, i < 16 → s.dev.live.getLsbD i = true → reading s (1 + i) ≤ reading s (1 + j)) ∧ onlyRegion s t j
            ∧ t.region j = { s.region j with floor := min 15 ((s.region j).floor + 1) })
        ∧ (reading s 0 < 20900 → t.dev.lowSince = some (s.dev.lowSince.getD t.now))
        ∧ (20900 ≤ reading s 0 → t.dev.lowSince = none))
    ∧ (∀ t0, s.dev.lowSince = some t0 → ∃ (t : State) (j : Nat), exec .floorLower s = .next t ∧ keepsRun s t
        ∧ t.now = max s.now (t0 + 100 * msTicks) ∧ j < 16 ∧ (∀ i, i < 16 → (s.region i).floor ≤ (s.region j).floor)
        ∧ onlyRegion s t j ∧ t.region j = { s.region j with floor := (s.region j).floor - 1 })
    ∧ (∃ t : State, exec (.droopAlarm k) s = .next t ∧ keepsRun s t ∧ onlyRegion s t k ∧ t.now = s.now
        ∧ t.region k = { s.region k with
            droops := ((s.region k).droops + 1) % 2 ^ 32, throttleEnd := s.now + 2000 * Config.nsTicks, throttled := true }
        ∧ ∀ v tile, t.regionOf v = k → 8 ≤ t.stepOf v tile)
    ∧ ((s.region k).throttled = true → ∃ t : State, exec (.throttleEnd k) s = .next t ∧ keepsRun s t
        ∧ t.now = max s.now (s.region k).throttleEnd ∧ onlyRegion s t k ∧ t.region k = { s.region k with throttled := false })

/-- The lasting faults of a part, and the errors corrected in it in the last 24 hours (R455). -/
def lastingOf (s : State) (p : Part) : Nat := (s.dev.faults.filter (fun f => f.part == p && f.lasting)).length
def correctedOf (s : State) (p : Part) : Nat :=
  (s.dev.faults.filter (fun f => f.part == p && !f.lasting && s.now ≤ f.at_ + 86400000 * msTicks)).length
/-- No launch runs. -/
def noneRuns (s : State) : Prop := ∀ l ∈ s.launches, l.status ≠ none
/-- A part is retired (R455): a tile is excused and off, and its die is live while it stays attached (R466); a slice is in the slice
table no more; a die is live no more; and each is in the harvest map. -/
def isRetired (s t : State) : Part → Prop
  | .tile v x y => ∀ d, s.die? v = some d → ∃ e, t.die? v = some e ∧ e.excuse.getLsbD (12 * y + x) = true ∧ 12 * y + x ∈ e.off
      ∧ e.live = (d.live && e.attached) ∧ t.dev.deadTiles = s.dev.deadTiles ++ [(d.phys, 12 * y + x)]
  | .slice v n => ∀ d, s.die? v = some d → ∃ e, t.die? v = some e ∧ n ∈ e.deadSlices
      ∧ t.dev.deadSlices = s.dev.deadSlices ++ [(d.phys, n)]
  | .link n => n ∈ t.dev.linksRetired
  | .die v => ∀ d, s.die? v = some d → (∃ e, t.die? v = some e ∧ e.live = false) ∧ d.phys ∈ t.dev.deadDies
  | .memBank a b => (a, b) ∈ t.dev.deadBanks
  | .modPort q => q ∈ t.dev.portsFailed
/-- A part that can be: a tile of a die's grid, a slice of a die that holds no line. -/
def partStands (s : State) : Part → Prop
  | .tile _ x y => x < 12 ∧ y < 12
  | .slice v _ => ∀ d, s.die? v = some d → d.lines = []
  | _ => True

/-- R450, R453, R454, R455, R456: a drain of a region on which no group stands is over at once: the time is noted, a new margin plan is in force,
and a part of the region that is named, and that has had 3 lasting faults or 64 corrected errors in 24 hours, is retired and recorded in
the harvest map, whose version counts it; no other part is. A region that has just been drained waits. Groups that run on a region are
each asked to stop, and the region takes no new ones. That firmware then chooses its routes anew is the model's choice (log entry 16),
and so is the drain as a pre-emption, ten minutes after the last (log entry 37). -/
def RegionsAreDrained : Prop :=
  ∀ (s : State) (k : Nat) (parts : List Part), k < 16 →
    (s.onRegion k = [] → noStop s → (s.region k).draining = false →
      (s.region k).drainAt = none ∨ (∃ t0, (s.region k).drainAt = some t0 ∧ t0 + 600000 * msTicks ≤ s.now) →
      (∃ t : State, exec (.regionDrain k []) s = .next t ∧ (t.region k).drainAt = some s.now ∧ (t.region k).draining = false
        ∧ t.dev = { s.dev with routing := s.dev.routing + 1, plan := t.dev.plan } ∧ (∃ m ∈ t.dev.plan, m.region = k))
      ∧ (∀ p, s.worn p = true → s.partIn k p = true → noneRuns s → partStands s p → ∃ t : State,
          exec (.regionDrain k [p]) s = .next t ∧ isRetired s t p
          ∧ (t.region k).drainAt = some s.now ∧ (t.region k).draining = false
          ∧ t.dev.harvestVersion = (s.dev.harvestVersion + 1) % 256)
      ∧ ∀ p, lastingOf s p < 3 → correctedOf s p < 64 → ∃ t : State, exec (.regionDrain k [p]) s = .next t
          ∧ t.dev.harvestVersion = s.dev.harvestVersion ∧ t.dev.deadTiles = s.dev.deadTiles ∧ t.dev.deadDies = s.dev.deadDies)
    ∧ (∀ t0, (s.region k).drainAt = some t0 → s.now < t0 + 600000 * msTicks → (s.region k).draining = false →
        exec (.regionDrain k parts) s = .next s)
    ∧ (s.onRegion k ≠ [] → (∀ x ∈ s.onRegion k, ∃ j, runsOn s x.gid x j) → noStop s → (s.region k).drainAt = none →
        ∃ t : State, exec (.regionDrain k parts) s = .next t ∧ (t.region k).draining = true
          ∧ ∀ x ∈ s.onRegion k, groupIs t x.gid (fun y => y.stop.map (·.why) = some .preempt))

/-! ### The debugger and the tools -/

/-- The group that the debugger has selected, halted. -/
def selected (s : State) (g : Group) : Prop := s.dbgGroup = some g ∧ s.group? g.gid = some g
/-- At the prompt ndbg has printed one answer and nothing else has changed. -/
def prints (i : Instr) (s : State) (x : Shown) : Prop :=
  s.dbg.running = false → exec i s = .next { s with dbg := { s.dbg with shown := s.dbg.shown ++ [x] } }

/-- R457, R460, R463, R465: ndbg shows of a halted group what its commands name: registers and predicates as a slot sees them,
CSRs as the slot reads them, the tree's summary, words of LOCAL, its place, an accumulator, and which groups hold a value
in all 64 elements of one. -/
def HaltedGroupsAreShown : Prop :=
  ∀ (s : State) (g : Group), selected s g →
    (∀ slot (l : List RegName), ∃ x, prints (.regs slot l false) s (.regs x none) ∧ x.map (·.1) = l
      ∧ ∀ y ∈ x, (∀ r, y.1 = .reg r → y.2 = ((s.seenBy g slot).cell r).v) ∧ (y.1 = .pc → y.2 = BitVec.ofNat 128 (g.st[slot]).pc))
    ∧ (∀ slot, ∃ p : BitVec 8, prints (.regs slot [] true) s (.regs [] (some p))
        ∧ ∀ k : Fin 8, p.getLsbD k.val = (g.st[slot]).pred k)
    ∧ (∀ slot k f, (k, f) ∈ csrReads → prints (.csr slot [k]) s (.csrs [(k, f (s.seenBy g slot))]))
    ∧ (∀ l, s.dbgLaunch = some l → ∃ inst act ce em blk rbn tst, prints .tree s (.tree inst act ce em blk rbn tst g.prevEm)
        ∧ em = g.em ∧ inst = g.instant)
    ∧ (∀ off k, ∃ l, prints (.mem off k) s (.words l)
        ∧ prints (.memf off k) s (.words (l.map (fun x => { x with values := x.words.map fp32Value })))
        ∧ (l.map (·.words)).flatten.length = k ∧ ∀ i x, l[i]? = some x → x.off = off + 16 * i ∧ x.words.length ≤ 4 ∧ x.values = []
          ∧ ∀ j w, x.words[j]? = some w → w = BitVec.ofNat 32 (natOfBytes (g.readSp (x.off + 4 * j) 4)))
    ∧ prints .where_ s (.place g.gid.num g.die (s.regionOf g.die) g.logical ((g.place.map (·.tile)).getD g.logical))
    ∧ (∀ a, prints (.acc a) s (.acc a g.acc[a].toList))
    ∧ (∀ a x, ∃ n m l, prints (.accmatch a x) s (.accmatch a x n m l) ∧ m = (s.dbgGroups.filter (·.dhalt)).length
        ∧ n = (s.dbgGroups.filter (fun g => g.dhalt && g.acc[a].toList.all (· == x))).length ∧ l.length ≤ 4)

/-- R416, R457, R458, R460, R462, R465: what ndbg sets: a breakpoint for every group of its launch, four at most; an instant at
which to stop; the selected group; what it traces, before the launch. CONT lets every halted group go on. While a command that runs the
launch has not returned, there is no prompt and no other is taken. -/
def DebuggerSettings : Prop :=
  ∀ (s : State),
    (s.dbg.running = false → ∀ a, s.dbg.object ≠ 0 → s.dbg.breaks.length < 4 → ∃ t : State, exec (.break_ a) s = .next t ∧ t.dbg.breaks = s.dbg.breaks ++ [a]
      ∧ ∀ g ∈ t.groups, s.dbg.launch = some g.gid.launch → g.dbgbp[s.dbg.breaks.length]? = some (breakReg a))
    ∧ (∀ a, 4 ≤ s.dbg.breaks.length → exec (.break_ a) s = .next s)
    ∧ (s.dbg.running = true → (∀ a, exec (.break_ a) s = .next s) ∧ exec .cont s = .next s ∧ (∀ n, exec (.istop n) s = .next s)
        ∧ ∀ n, exec (.group n) s = .next s)
    ∧ (s.dbg.running = false → ∀ n, exec (.istop n) s = .next { s with dbg := { s.dbg with istop := some n } })
    ∧ (s.dbg.running = false → ∀ k, (∃ g ∈ s.dbgGroups, g.gid.num = k) → exec (.group k) s = .next { s with dbg := { s.dbg with group := k } })
    ∧ (s.dbg.running = false → s.dbg.launch = none → exec .ptrace s = .next { s with dbg := { s.dbg with tracing := true } }
        ∧ exec .wavetrace s = .next { s with dbg := { s.dbg with wtracing := true } }
        ∧ ∀ g, exec (.streams g) s = .next { s with dbg := { s.dbg with streamRec := some g } })
    ∧ (s.dbg.running = false → (∃ g ∈ s.dbgGroups, g.dhalt = true) → ∃ t : State, exec .cont s = .next t ∧ t.dbg.running = true
        ∧ ∀ g x, s.group? g = some x → x.gid = g → s.dbg.launch = some g.launch →
            (s.groups.filter (fun h => h.gid == g)).length = 1 → groupIs t g (fun y => y.dhalt = false))

/-- R457, R461: RUN queues the launch of the object's first descriptor, with a data root over its .data where the runtime gives
one; NDBG file loads an object's .text and .data where the tenant's tables put them, and attaches to its next launch. The space of .text
is the model's choice (log entry 15). -/
def ObjectsAreRun : Prop :=
  ∀ (s : State) (o : Object), s.objects.find? (fun x => x.num == o.num) = some o →
    (∀ root x, s.dbg.running = false → s.dbg.object = o.num → s.tenant? s.dbg.tenant = some x → 1 ≤ s.dev.stage → o.launches ≠ [] → ∃ (t : State) (l : Launch),
      exec (.run root) s = .next t ∧ t.launches = s.launches ++ [l] ∧ l.tenant = s.dbg.tenant ∧ l.tnum = numberOf x
        ∧ l.dataRoot = (if root then some (o.dataBase, o.data.length) else none) ∧ l.sdata = o.sdata ∧ l.codeBase = o.textBase
        ∧ l.codeLen = o.text.length ∧ l.entry = (o.descriptor.extractLsb' 0 64).toNat)
    ∧ (∀ tn ks js, o.linked = true → s.mem.wf = true → controlIdle s →
        s.hostKeys tn Config.codeSpace o.textBase false false o.text.length = .ok ks →
        s.hostKeys tn 3 o.dataBase false false o.data.length = .ok js → (ks ++ js).Nodup → ∃ t : State,
        exec (.ndbgLoad tn o.num) s = .next t ∧ t.dbg = { tenant := tn, object := o.num }
          ∧ (∀ j k, ks[j]? = some k → t.mem.read k = o.text.getD j 0) ∧ (∀ j k, js[j]? = some k → t.mem.read k = o.data.getD j 0)
          ∧ ∀ b, b ∉ ks ++ js → t.mem.read b = s.mem.read b)

/-- R462, R463, R465: what ndbg prints of its records: the pool events between two times, the rounds of a range, the elements of
a group's streams with their times from the launch's first placement, the regions, the releases of an RBAR, and
doublewords of the object's data. From when times count, and that the bytes are those at the homes, are the model's choices (log
entries 49 and 38). -/
def RecordsArePrinted : Prop :=
  ∀ (s : State),
    (∀ a b, ∃ l, prints (.ptracePrint a b) s (.pool l)
      ∧ ∀ x, x ∈ l ↔ x ∈ s.dbg.ptrace ∧ a * Config.nsTicks ≤ x.at_ ∧ x.at_ ≤ b * Config.nsTicks)
    ∧ (∀ a b, ∃ l, prints (.rounds a b) s (.rounds l) ∧ ∀ x, x ∈ l ↔ x ∈ s.dbg.rounds ∧ a ≤ x.round ∧ x.round ≤ b)
    ∧ (∀ g, s.dbg.streamRec = some g → ∃ l, prints .streamsPrint s (.streams g l) ∧ l.length = s.dbg.streamLog.length
        ∧ ∀ (k t num elem tile : Nat), s.dbg.streamLog[k]? = some (.entered t num elem tile) →
            l[k]? = some (.entered (t - (s.dbgLaunch.bind (·.firstPlace)).getD 0) num elem tile))
    ∧ (∀ l, s.dbgLaunch = some l → (∃ r, prints .regions s (.regions r) ∧ r.length = 16
          ∧ ∀ k x, r[k]? = some x → x.droops = (s.region k).droops ∧ x.held = (s.region k).held
            ∧ (x.throt = true ↔ s.now < (s.region k).throttleEnd))
        ∧ ∀ n, ∃ r skew, prints (.rbarPrint n) s (.rbar r skew) ∧ r.length = 16)
    ∧ (∀ o l y n ks, s.dbgObject = some o → s.dbgLaunch = some l → (l.status ≠ none ∨ s.allHalted = true) →
        o.symbols.find? (fun z => z.name == y.name && z.sect == .data) = some y →
        s.hostKeys s.dbg.tenant 3 (o.dataBase + y.off) false false (8 * n) = .ok ks →
        ∃ r, prints (.dmem y.name n) s (.dwords y.off r) ∧ r.length = n
          ∧ ∀ k x, r[k]? = some x → x = BitVec.ofNat 64 (natOfBytes ((((ks.map s.mem.read)).drop (8 * k)).take 8)))

/-- R65, R72, R73, R88: NDAS and NDLD end with a status: NDAS keeps the object of each file that has no error, in the place of an
older object of its name, with status 0, 1 for a file in error and 2 for one that is not there or that cannot be written; NDLD adds one object, or with status
1 none, and an object that is not there gives 2. -/
def ToolsEndWithAStatus : Prop :=
  ∀ (s : State),
    (∀ (name text : String) (r : AsmResult), ({ sources := [name] } : AsmCommand).file [(name, text)] s.nextId name text = r →
      readArgs {} [name] = { sources := [name] } → ∃ t : State, exec (.ndas [name] ⟨[(name, text)], []⟩) s = .next t
        ∧ t.tools = s.tools ++ [⟨if r.object.isNone then 1 else 0, r.diags, r.listing.toList⟩]
        ∧ (∀ o, r.object = some o → o ∈ t.objects) ∧ t.mem = s.mem ∧ t.g = s.g)
    ∧ (∀ (name text : String) (r : AsmResult) (o : Object), ({ sources := [name] } : AsmCommand).file [(name, text)] s.nextId name text
        = r → readArgs {} [name] = { sources := [name] } → r.object = some o → ∃ t : State,
        exec (.ndas [name] ⟨[(name, text)], [o.name]⟩) s = .next t ∧ t.objects = s.objects ∧ (t.tools.map (·.status)).getLast? = some 2)
    ∧ (∀ name, readArgs {} [name] = { sources := [name] } → ∃ t : State, exec (.ndas [name] ⟨[], []⟩) s = .next t
        ∧ t.tools = s.tools ++ [⟨2, [], []⟩] ∧ t.objects = s.objects)
    ∧ (∀ (o : Object) (q : Object), s.objects.find? (fun x => x.num == o.num) = some o →
        linkObjects [o] s.nextId (Config.freeLane s.fresh).toNat = some q → ∃ t : State, exec (.ndld [o.num]) s = .next t
          ∧ t.objects = s.objects ++ [q] ∧ t.tools = s.tools ++ [⟨0, [], []⟩])
    ∧ (∀ k, s.objects.find? (fun x => x.num == k) = none → ∃ t : State, exec (.ndld [k]) s = .next t
        ∧ t.tools = s.tools ++ [⟨2, [], []⟩] ∧ t.objects = s.objects)

end Sys2Proof.Claims
namespace Sys2Proof.Claims

/-! ### The instructions and moves that end in their own effect -/

/-- What is stored and under way is as it was: memory and its tags, channels, launches, pools and tenants. -/
def stays (s t : State) : Prop :=
  t.mem = s.mem ∧ t.memTags = s.memTags ∧ t.chans = s.chans ∧ t.launches = s.launches ∧ t.pools = s.pools ∧ t.tenants = s.tenants

/-- R310, R311: RTLOAD with its record read sets the route; OSEND with its source copied sends its block to a group of its
die, and with nothing to send it is done; OSLOT gives the step, the nanoseconds into it, the planes that are up, the guard and the room
of the relay buffer, and with DET or before stage 3 zero; the copy's end lets the strand go on. -/
def RoutesAndBlocksComplete : Prop :=
  ∀ (n : Needs) (s : State) (h : Head),
    (∀ a v w tag ok k r, needs (.rtload h a) = some n → s.st.kernel = true → s.st.guard n.h = true → s.st.consumed = true →
      s.st.prog = .answered v w tag ok → routeRecord v = some (k, r) →
      ∃ t : State, exec (.rtload h a) s = .next (done t) ∧ t.g.routes.lookup k = some r)
    ∧ (∀ u d a b g bs, ReadyFor (.osend h u d a b) n s → s.st.prog = .copied bs →
        let p := n.after s
        let l := min (capRest (src n s 2)) (capRest (src n s 0))
        p.checkCap (cell n s 2) { st := true, spaces := (· ≤ 1), align := 64 } = none →
        p.checkCap (cell n s 0) { ld := true, spaces := (· == 0), align := 64 } = none → p.checkCap (cell n s 1) barAsk = none →
        (p.barPlace (src n s 1)).1 = (p.barPlace (src n s 2)).1 →
        (l = 0 → exec (.osend h u d a b) s = .next (done p))
        ∧ (l ≠ 0 → l ≤ 11504 → p.group? (p.barPlace (src n s 2)).1 = some g → p.inRectangle g.die = true → p.apart p.g g = false →
          g.die = s.g.die → s.st.outstanding.length < 16 → p.g.badFrom (p.barPlace (src n s 0)).2 l = none →
          ∃ (t : State) (k : Block), exec (.osend h u d a b) s = .next (done t) ∧ t.blocks.length = s.blocks.length + 1
            ∧ k ∈ t.blocks ∧ k.dst = g.gid ∧ k.bytes = p.g.readSp (p.barPlace (src n s 0)).2 l ∧ k.ordered = !u))
    ∧ (∀ d x, ReadyFor (.oslot h d) n s → s.die? s.g.die = some x → ∃ v : Quad, exec (.oslot h d) s = .next (wrote n s d v)
        ∧ (s.det = true ∨ s.dev.stage < 3 → v = 0)
        ∧ (s.det = false → 3 ≤ s.dev.stage → (v.extractLsb' 0 5).toNat = s.now / Config.omcStepTicks % 32
          ∧ (v.extractLsb' 5 7).toNat = s.now % Config.omcStepTicks / Config.nsTicks ∧ (v.extractLsb' 12 4).toNat = x.plup % 16
          ∧ (v.getLsbD 16 = true ↔ 115 ≤ s.now % Config.omcStepTicks / Config.nsTicks) ∧ v.extractLsb' 17 47 = 0
          ∧ (v.extractLsb' 64 64).toNat = x.relayFree % 2 ^ 64))
    ∧ (∀ (w : StrandId) (g : Group), s.group? w.g = some g → (g.st[w.slot]).run = .parked .portCopy →
        let u := s.goOn .bulk unitFlits (s.portWay g w.slot)
        (u.legs = [] → ∃ t : State, exec (.portCopyDone w) s = .next t
          ∧ t.strand? w = some { g.st[w.slot] with prog := .copied [], run := .ready } ∧ stays s t)
        ∧ (u.legs ≠ [] → ∃ t : State, exec (.portCopyDone w) s = .next t ∧ t.strand? w = some g.st[w.slot] ∧ stays s t))

/-- R277, R298: a subnetwork of which a router has been hot long enough is switched on, one that has been idle long enough
off, and nothing but the dies' own state changes with it; a transmit window of a plane opens at its next time, and changes no group,
no memory and no pool. -/
def MeshAndWindowsComplete : Prop :=
  ∀ (s : State) (v : Nat) (d : Die),
    (∀ k x, s.watchMeshes.die? v = some d → d.subnets = k → 1 ≤ k → k ≤ 3 → x ∈ d.hotSince → x.1.2 = k - 1 →
      x.2 + 4096 * Config.cycleTicks ≤ s.now →
        ∃ t : State, exec (.subnetworkOn v k) s = .next t ∧ (t.die? v).map (·.subnets) = some (k + 1) ∧ t = { s with dies := t.dies })
    ∧ (∀ k t0, s.watchMeshes.die? v = some d → d.subnets = k + 1 → 1 ≤ k → d.idleSince.lookup k = some t0 →
        t0 + 65536 * Config.cycleTicks ≤ s.now → ∃ t : State, exec (.subnetworkOff v k) s = .next t
          ∧ (t.die? v).map (·.subnets) = some k ∧ t = { s with dies := t.dies })
    ∧ (∀ plane, s.die? v = some d → d.live = true → plane < 4 → s.dev.stage = 3 → ∃ (t : State) (e : Die),
        exec (.omcWindow v plane) s = .next t ∧ t.now = d.nextWindow plane s.now ∧ t.die? v = some e
          ∧ e.windows.lookup plane = some t.now ∧ t.g = s.g ∧ t.others = s.others ∧ t.mem = s.mem ∧ t.pools = s.pools)

/-- R357, R359: what the end of an interval, a swap of two tiles with nothing on them, its end and a skip leave as it was; the
hot tile of a pair that is skipped runs one step slower than it did, 15 at most. -/
def RotationCompletes : Prop :=
  ∀ (s : State) (v k : Nat) (d : Die) (q : Pair), s.die? v = some d → d.v = v →
    (∃ t : State, exec (.rotationInterval v) s = .next t ∧ t.now = max s.now (d.intervalStart + d.rotTicks) ∧ stays s t)
    ∧ (s.pair? v k = some q → q.state = .hold → (∀ g, ¬ onPairOf s v q g) →
        ∃ t : State, exec (.swap v k) s = .next t ∧ (t.pair? v k).map (·.state) = some .swap ∧ stays s t)
    ∧ (s.pair? v k = some q → q.state = .swap → ∃ t : State, exec (.done v k) s = .next t ∧ t.pair? v k = none ∧ stays s t)
    ∧ (s.pair? v k = some q → q.state = .hold → s.pairHeld v q = false → ∃ (t : State) (e : Die), exec (.skip v k) s = .next t
        ∧ t.die? v = some e ∧ e.tsteps.lookup q.hot = some (min 15 ({ s with now := t.now }.stepOf v q.hot + 1)) ∧ stays s t)

/-- R450, R454: a governor's step, the power check, the fall of a floor, a droop and its end, and the drain of a region
on which no group stands, each has its effect on its region and leaves what is stored and under way as it was. -/
def PowerMovesComplete : Prop :=
  ∀ (s : State) (k : Nat), k < 16 →
    (∃ t : State, exec (.governorStep k) s = .next t ∧ stays s t ∧ (t.region k).held
      = if (s.region k).limit < reading s 0 then min 65535 ((s.region k).held + 1) else (s.region k).held)
    ∧ (∃ t : State, exec .powerCheck s = .next t ∧ stays s t ∧ (20900 ≤ reading s 0 → t.dev.lowSince = none)
        ∧ (reading s 0 ≤ 22000 → t.regions = s.regions))
    ∧ (∀ t0, s.dev.lowSince = some t0 → ∃ (t : State) (j : Nat), exec .floorLower s = .next t ∧ stays s t
        ∧ t.region j = { s.region j with floor := (s.region j).floor - 1 })
    ∧ (∃ t : State, exec (.droopAlarm k) s = .next t ∧ stays s t ∧ (t.region k).throttleEnd = s.now + 2000 * Config.nsTicks)
    ∧ ((s.region k).throttled = true → ∃ t : State, exec (.throttleEnd k) s = .next t ∧ stays s t
        ∧ t.now = max s.now (s.region k).throttleEnd)
    ∧ (s.onRegion k = [] → noStop s → (s.region k).draining = false → (s.region k).drainAt = none →
        ∃ t : State, exec (.regionDrain k []) s = .next t ∧ stays s t ∧ (t.region k).drainAt = some s.now)

/-- R406, R418, R420, R422: CKPT writes its register; an error, a recovery point, a drain point and a rollback end in their
own effect: the count of the error, one more point, a request to stop at each group that runs or, with none on a tile, a point
that lets the escrow go, and memory as it was where nothing has been written since the point. -/
def PointsAndErrorsComplete : Prop :=
  ∀ (s : State) (n : Nat) (l : Launch), s.launch? n = some l → l.num = n → l.status = none →
    (∀ (w : Needs) (h : Head) (k : Fin 48), ReadyFor (.ckpt h (.c k)) w s → s.myLaunch = some l → k.val ≠ 0 →
      (s.st.c[k]).stream = false → ∃ t : State, exec (.ckpt h (.c k)) s = .next (done t)
        ∧ (t.st.c[k]).v = quad2 (BitVec.ofNat 64 (if l.recov then l.points + 1 else 0)) 0 ∧ (t.st.c[k]).tag = false
        ∧ t.mem = s.mem ∧ t.points = s.points ∧ t.others = s.others)
    ∧ (∀ e r, errorLaunch e = n → l.recov = false ∨ l.points = 0 → ∃ t : State, exec (.errorDetected e r) s = .next t
        ∧ t.dev.faults = s.dev.faults ++ (s.errorPart e).toList.map (fun p => ⟨p, s.now, r⟩)
        ∧ t.mem = s.mem ∧ t.chans = s.chans ∧ t.hostOut = s.hostOut)
    ∧ (∀ w, l.wave = some w → s.pointDue l w = true → s.noStops n = true →
        (∀ v ∈ l.dies, (s.region (s.regionOf v)).draining = false) → s.chans = [] → (∀ d ∈ s.dies, d.lines = []) →
        (∀ g ∈ s.groups, g.gid.launch = n → g.state ≠ .resident ∧ g.state ≠ .swapping) →
        ∃ t : State, exec (.recoveryPoint n) s = .next t ∧ launchIs t n (fun m => m.points = l.points + 1) ∧ t.hostOut = s.hostOut
          ∧ ∀ m, m ≠ n → t.launch? m = s.launch? m)
    ∧ (∀ g x k, s.escrowFull l = true → g.launch = n → runsOn s g x k → noStop s → ∃ t : State, exec (.drainPoint n) s = .next t
        ∧ groupIs t g (fun y => y.stop = some ⟨.drain, s.now, none⟩ ∧ (y.st[k]).stopped = false ∧ (y.st[k]).fcap = (x.st[k]).fcap)
        ∧ t.points = s.points)
    ∧ (s.escrowFull l = true → s.noStops n = true → s.chans = [] → (∀ d ∈ s.dies, d.lines = []) →
        (∀ g ∈ s.groups, g.gid.launch = n → g.state ≠ .resident ∧ g.state ≠ .swapping) →
        ∃ t : State, exec (.drainPoint n) s = .next t
          ∧ launchIs t n (fun m => m.points = l.points + 1 ∧ m.escrow = [] ∧ m.ckpt = l.ckpt) ∧ ∀ m, m ≠ n → t.launch? m = s.launch? m)
    ∧ (∀ p, l.recov = true → 0 < l.points → s.points.find? (fun p => p.launch == n) = some p → (∀ k ∈ l.kids, k ∈ p.kids) →
        (∀ e ∈ p.entries, e.num ≠ n) → l.undo = [] → (∀ d ∈ s.dies, d.lines = []) →
        (∀ g ∈ s.groups, g.gid.launch = n → g.state ≠ .resident ∧ g.state ≠ .swapping) →
        ∃ t : State, exec (.rollback n) s = .next t ∧ t.mem = s.mem ∧ t.memTags = s.memTags
          ∧ launchIs t n (fun m => m.rollbacks = (l.rollbacks + 1) % 2 ^ 32 ∧ m.points = l.points))

end Sys2Proof.Claims
/-! ### The statements -/

/-- Integer arithmetic and bit instructions write D, every lane by its rule: R121, R123, R124. -/
def Obligations.IntegerInstructionsWriteLanes : Prop :=
  Sys2Proof.Claims.ArithmeticWritesLanes ∧ Sys2Proof.Claims.BitInstructionWritesLanes

/-- Lane moves, MOV, SEL and LANEGET write D and nothing else: R126, R127, R128. -/
def Obligations.MovesWriteTheirRegister : Prop :=
  Sys2Proof.Claims.LaneMoveWritesLanes ∧ Sys2Proof.Claims.WholeRegisterMovesWriteD

/-- DIV and REM issue, and the right result is under way: R50, R115, R122. -/
def Obligations.DivisionResultIsUnderWay : Prop :=
  Sys2Proof.Claims.DivisionResultIsUnderWay

/-- CMP, CMPI, the predicate instructions and CAPTST write predicates: R125, R134, R142. -/
def Obligations.ComparesAndPredicatesWrite : Prop :=
  Sys2Proof.Claims.CompareWritesPredicate ∧ Sys2Proof.Claims.PredicateInstructions ∧
  Sys2Proof.Claims.CaptstWritesPredicate

/-- Branches, calls and LOOP go to their target, or trap for a bad one: R42, R46, R129, R131, R132, R133. -/
def Obligations.BranchesGoOrTrap : Prop :=
  Sys2Proof.Claims.DirectBranchesGo ∧ Sys2Proof.Claims.IndirectBranchesGoToTheirTarget ∧ Sys2Proof.Claims.BadTargetTraps

/-- Capability instructions derive, narrow, move and read capabilities, or trap: R135, R136, R137, R138, R139, R140, R141,
R143. -/
def Obligations.CapabilitiesAreDerivedOrTrap : Prop :=
  Sys2Proof.Claims.CapabilityMoves ∧ Sys2Proof.Claims.CapsubNarrows ∧ Sys2Proof.Claims.CapabilityFields ∧
  Sys2Proof.Claims.CapabilityFaults

/-- Floating-point instructions write D or a predicate, every lane and flag by its rule: R103, R110, R152, R156, R157, R158,
R160. -/
def Obligations.FloatingPointWritesLanes : Prop :=
  Sys2Proof.Claims.FloatingPointWritesLanes ∧ Sys2Proof.Claims.SignsAndClasses ∧ Sys2Proof.Claims.FcmpWritesPredicate

/-- An enabled flag traps FPE; a long result is under way, and with enables the strand waits for it: R50, R103, R144, R146,
R263. -/
def Obligations.FloatingPointTrapsAndLongResults : Prop :=
  Sys2Proof.Claims.FloatingPointTraps ∧ Sys2Proof.Claims.LongFloatingPointIsUnderWay ∧
  Sys2Proof.Claims.LongInstructionWaitsForItsCommit

/-- The FCSR instructions and the random generators: R147, R165, R166, R167, R171, R172, R427. -/
def Obligations.FcsrAndRandomInstructions : Prop :=
  Sys2Proof.Claims.FcsrInstructions ∧ Sys2Proof.Claims.RandomInstructions

/-- CVT and the block-scale instructions write what their formats give: R100, R109, R111, R112, R113, R114. -/
def Obligations.ConversionsAndBlocks : Prop :=
  Sys2Proof.Claims.CvtConvertsLanes ∧ Sys2Proof.Claims.BlockHeaders ∧ Sys2Proof.Claims.BlockElements

/-- The accumulator writes, MRD and MSTAT: R144, R191, R192, R194. -/
def Obligations.AccumulatorsAreWrittenAndRead : Prop :=
  Sys2Proof.Claims.AccumulatorWrites ∧ Sys2Proof.Claims.MrdResultIsUnderWay ∧ Sys2Proof.Claims.MstatShowsTheUnit

/-- An instruction of the block-dot unit enters its queue, and its work is committed in order: R174, R180, R184, R187, R193.
-/
def Obligations.UnitInstructionsEnterAndCommit : Prop :=
  Sys2Proof.Claims.UnitInstructionsEnter ∧ Sys2Proof.Claims.UnitInstructionsCommit

/-- A load, a store or an atomic enters its channel as one access at its resolved address: R196, R197, R216, R224, R230, R232,
R233, R234, R237. -/
def Obligations.MemoryInstructionsEnterTheirChannel : Prop :=
  Sys2Proof.Claims.MemoryInstructionsEnter ∧ Sys2Proof.Claims.AccessJoinsItsChannel

/-- Checked accesses wait for their resolution, and a bad address traps: R46, R211, R215, R218, R221, R228, R263. -/
def Obligations.AddressesAreChecked : Prop :=
  Sys2Proof.Claims.CheckedAccessWaits ∧ Sys2Proof.Claims.AddressChecksInOrder ∧ Sys2Proof.Claims.BadAddressTraps

/-- The synchronising accesses take, fill and wait by the full/empty bits: R202, R203, R204, R284. -/
def Obligations.SynchronisingAccessesWait : Prop :=
  Sys2Proof.Claims.SynchronisingAccesses ∧ Sys2Proof.Claims.WordsAreTakenAndFilled

/-- A home performs loads and stores on exactly the bytes of their address: R219, R220, R221, R223, R224, R232, R233. -/
def Obligations.HomesPerformAccesses : Prop :=
  Sys2Proof.Claims.HomesPerformLoads ∧ Sys2Proof.Claims.HomesPerformStores

/-- The line instructions and the fences of each kind and scope: R225, R226, R247, R251. -/
def Obligations.LinesAndFencesComplete : Prop :=
  Sys2Proof.Claims.LineInstructions ∧ Sys2Proof.Claims.FencesComplete

/-- Long results, loaded values, answers to misses, probes and evictions reach their place: R50, R146, R204, R214, R215, R232,
R233, R402. -/
def Obligations.AnswersReachTheirStrand : Prop :=
  Sys2Proof.Claims.LongResultsArrive ∧ Sys2Proof.Claims.LoadedValuesReturn ∧ Sys2Proof.Claims.WaitsOfAccessesEnd ∧
  Sys2Proof.Claims.ProbesEchoAndLinesLeave

/-- Streams open on a register, are shown and end: R254, R261, R262, R264, R265. -/
def Obligations.StreamsOpenShowAndEnd : Prop :=
  Sys2Proof.Claims.StreamsOpenAndEnd ∧ Sys2Proof.Claims.StrmqShowsTheStream

/-- Bulk copies start, and transaction barriers count what they wait for: R252, R254, R255, R256, R260, R267, R269, R270,
R272. -/
def Obligations.BulkOperationsAndBarriers : Prop :=
  Sys2Proof.Claims.BulkOperationsStart ∧ Sys2Proof.Claims.BarrierInstructions

/-- The copy units read, write, fill streams and complete: R256, R262, R263, R273. -/
def Obligations.CopyUnitsStep : Prop :=
  Sys2Proof.Claims.CopyUnitSteps

/-- SEND and SENDI enter their channel or park while too many messages are outstanding, and OFENCE waits for them: R289, R292,
R295, R304, R305, R312. -/
def Obligations.SendsEnterOrPark : Prop :=
  Sys2Proof.Claims.SendsEnterTheirChannel ∧ Sys2Proof.Claims.MessagesOutstandingPark

/-- Messages arrive in their mailbox or inbox, are acknowledged, or are lost at MSGTIM: R290, R291, R294, R295, R301. -/
def Obligations.MessagesArriveOrAreLost : Prop :=
  Sys2Proof.Claims.MessagesArrive ∧ Sys2Proof.Claims.MessagesAreAcknowledgedOrLost

/-- The inbox and link instructions, and the order of words on a link: R52, R287, R306, R307, R309. -/
def Obligations.InboxesAndLinkPorts : Prop :=
  Sys2Proof.Claims.InboxAndLinkInstructions ∧ Sys2Proof.Claims.LinkWordsArriveInOrder

/-- Routes, blocks of the optical core, its subnetworks and windows: R277, R298, R302, R308, R310, R311, R402, R411, R466. -/
def Obligations.RoutesAndOpticalMoves : Prop :=
  Sys2Proof.Claims.RoutesAndBlocks ∧ Sys2Proof.Claims.OpticalMoves

/-- Signals are emitted and tested, and emission masks narrow: R243, R319, R320, R331, R332, R335, R336. -/
def Obligations.SignalsAreEmittedAndTested : Prop :=
  Sys2Proof.Claims.SignalInstructions ∧ Sys2Proof.Claims.EmissionMasks

/-- Watches open and close; PAUSE and RBAR wait for the reaction: R243, R326, R327, R330, R333, R334, R337, R338. -/
def Obligations.WatchesPausesAndReactionBarriers : Prop :=
  Sys2Proof.Claims.WatchesOpenAndClose ∧ Sys2Proof.Claims.PausesAndReactionBarriers

/-- A wave decides absent signals, ends an instant or releases a barrier: R45, R314, R317, R319, R321, R324, R337. -/
def Obligations.WavesDecide : Prop :=
  Sys2Proof.Claims.WavesDecide

/-- FORK pushes a task, JOIN and YIELD are yield points, GBAR gathers the group: R243, R351, R363, R364, R365, R371. -/
def Obligations.TasksAreForkedAndJoined : Prop :=
  Sys2Proof.Claims.ForksPushTasks ∧ Sys2Proof.Claims.JoinsAndYields ∧ Sys2Proof.Claims.GroupBarriers

/-- HALT ends its strand after its children and messages, and leaves an idle slot: R315, R364, R366. -/
def Obligations.StrandsHalt : Prop :=
  Sys2Proof.Claims.HaltsEndTheirStrand ∧ Sys2Proof.Claims.HaltedStrandsAreGone

/-- LAUNCH, TRIGGER, LWAIT and WHO: R340, R355, R367, R368, R369, R370. -/
def Obligations.LaunchesAreMadeAndAwaited : Prop :=
  Sys2Proof.Claims.LaunchesAreQueued ∧ Sys2Proof.Claims.TriggersAndLaunchWaits ∧ Sys2Proof.Claims.WhoNamesThePlace

/-- A launch is queued, ages, starts, and its groups are placed with their strands at the entry: R130, R199, R340, R341, R342,
R343, R346, R354, R355, R398. -/
def Obligations.GroupsAreQueuedAndPlaced : Prop :=
  Sys2Proof.Claims.QueuedLaunchesWait ∧ Sys2Proof.Claims.PlacedGroupsStart ∧ Sys2Proof.Claims.LaunchesAgeAndStart

/-- Idle slots start tasks, thieves take the oldest, stored strands return: R348, R349, R353. -/
def Obligations.TasksFindSlots : Prop :=
  Sys2Proof.Claims.IdleSlotsStartTasks ∧ Sys2Proof.Claims.TasksAreStolen ∧ Sys2Proof.Claims.StoredStrandsReturn

/-- Watchdogs trap, groups retire, launches end and are cancelled: R350, R352, R355, R468. -/
def Obligations.GroupsAndLaunchesEnd : Prop :=
  Sys2Proof.Claims.WatchdogsTrap ∧ Sys2Proof.Claims.GroupsRetire ∧ Sys2Proof.Claims.CancelledLaunchesEnd

/-- Thermal rotation forms pairs in HOLD, swaps them and counts it: R356, R360. -/
def Obligations.TilesRotate : Prop :=
  Sys2Proof.Claims.TilesRotate

/-- Bad pool handles trap; PBOUND, PSIZE, PSYNC and PFREE answer: R374, R375, R377, R384, R392, R395. -/
def Obligations.PoolHandlesAndQueries : Prop :=
  Sys2Proof.Claims.BadHandlesTrap ∧ Sys2Proof.Claims.PoolQueriesAnswer

/-- PINIT makes a pool, and the rounds of its exchange install G: R372, R378, R379, R381, R383, R392. -/
def Obligations.PoolsAndRounds : Prop :=
  Sys2Proof.Claims.PoolsAreMade ∧ Sys2Proof.Claims.RoundsAreInstalled

/-- PPUT gives its element to its shard; summaries, takes and elements cross between shards: R378, R380, R382, R383, R387,
R393. -/
def Obligations.PutsAndPoolMessages : Prop :=
  Sys2Proof.Claims.PutsReachTheirShard ∧ Sys2Proof.Claims.PoolMessagesArrive

/-- Takes are served by the rules of the shard, and exact takes by the whole pool: R382, R385, R386, R390, R394. -/
def Obligations.TakesAreServed : Prop :=
  Sys2Proof.Claims.TakesAreServed ∧ Sys2Proof.Claims.ExactTakesAreRecorded ∧ Sys2Proof.Claims.ExactTakesAreServed

/-- CSRGET and CSRSET read and write the registers that their level may: R53, R58, R59, R147, R274, R427. -/
def Obligations.SpecialRegistersAreReadAndWritten : Prop :=
  Sys2Proof.Claims.RegistersAreRead ∧ Sys2Proof.Claims.RegistersAreWritten ∧ Sys2Proof.Claims.GroupRegistersAreWritten

/-- Recovery points are marked and committed, launches roll back, lasting errors trap: R402, R406, R417, R420, R422, R428. -/
def Obligations.PointsRollBackAndErrorsTrap : Prop :=
  Sys2Proof.Claims.CheckpointsAreMarked ∧ Sys2Proof.Claims.PointsAreCommitted ∧ Sys2Proof.Claims.LaunchesRollBack ∧
  Sys2Proof.Claims.LastingErrorsTrap

/-- TLBINV drops a tenant's translations; NOTIFY queues for its process: R421, R429, R432. -/
def Obligations.TranslationsAndNotifications : Prop :=
  Sys2Proof.Claims.TranslationsAreDropped ∧ Sys2Proof.Claims.NotificationsAreQueued

/-- Stops meet strands; images are saved and loaded; groups leave and return: R240, R322, R403, R405, R407, R410, R412, R430,
R431. -/
def Obligations.GroupsAreSavedAndLoaded : Prop :=
  Sys2Proof.Claims.StopsMeetStrands ∧ Sys2Proof.Claims.ImagesAreSavedAndLoaded ∧ Sys2Proof.Claims.GroupsLeaveAndReturn

/-- The debugger halts, freezes, shows and releases groups: R413, R415, R416, R457, R458, R460, R462, R463, R465. -/
def Obligations.GroupsHaltAndAreShown : Prop :=
  Sys2Proof.Claims.GroupsHaltAndFreeze ∧ Sys2Proof.Claims.HaltedGroupsAreShown ∧ Sys2Proof.Claims.DebuggerSettings

/-- The tools make objects, run them and print what they have recorded: R65, R72, R73, R88, R457, R461, R462, R463, R465. -/
def Obligations.ToolsRunAndPrint : Prop :=
  Sys2Proof.Claims.ObjectsAreRun ∧ Sys2Proof.Claims.RecordsArePrinted ∧ Sys2Proof.Claims.ToolsEndWithAStatus

/-- Power-good, the staged start and the signed measurements: R30, R437, R438, R439, R440, R442, R455. -/
def Obligations.TheModuleComesUp : Prop :=
  Sys2Proof.Claims.PowerGoodStartsAnew ∧ Sys2Proof.Claims.StagesFollow ∧ Sys2Proof.Claims.MeasurementsAreSigned

/-- The host, PCI functions and management messages: R59, R230, R241, R286, R303, R359, R398, R416, R417, R433, R434, R435,
R438, R442, R443, R444, R446, R448, R456. -/
def Obligations.HostsAndManagementAct : Prop :=
  Sys2Proof.Claims.HostsReachMemory ∧ Sys2Proof.Claims.RectanglesAreGiven ∧ Sys2Proof.Claims.ManagementWrites

/-- Power, droop and drains of the regions: R447, R449, R450, R451, R453, R454, R455, R456. -/
def Obligations.PowerAndDrains : Prop :=
  Sys2Proof.Claims.PowerIsGoverned ∧ Sys2Proof.Claims.RegionsAreDrained

/-- Words that the manual writes out decode to their instructions. -/
def Obligations.WordsOfTheManualDecode : Prop :=
  Sys2Proof.Claims.WordsOfTheManual

/-- Decoding the word of any well-formed instruction gives that instruction: R33, R43. -/
def Obligations.EncodedWordsDecode : Prop :=
  Sys2Proof.Claims.EncodedWordsDecode

/-- A word that decodes is the word of one well-formed instruction: R33, R34, R43. -/
def Obligations.DecodedWordsEncode : Prop :=
  Sys2Proof.Claims.DecodedWordsEncode

/-- In a strand's turn the step runs the decoded instruction, or takes the trap of the fetch: R43, R45, R129, R130. -/
def Obligations.StepsRunDecodedInstructions : Prop :=
  Sys2Proof.Claims.StepsRunDecodedInstructions ∧ Sys2Proof.Claims.BadFetchesTrap

/-- No instruction, move or run stops the machine. -/
def Obligations.NothingStopsTheMachine : Prop :=
  Sys2Proof.Claims.NothingStopsTheMachine

/-- The issue of a word: privilege, guard, state, empty sources, parks, in this order: R36, R37, R43, R44, R45, R46, R400. -/
def Obligations.WordsIssueInOrder : Prop :=
  Sys2Proof.Claims.WordsIssueInOrder

/-- Traps enter the handler or are fatal; ERET returns; TRAP and BRK raise: R61, R62, R396, R399, R400, R413, R425, R426,
R468. -/
def Obligations.TrapsEnterAndReturn : Prop :=
  Sys2Proof.Claims.TrapsEnterTheHandler ∧ Sys2Proof.Claims.FatalTrapsCancelTheLaunch ∧ Sys2Proof.Claims.EretReturns ∧
  Sys2Proof.Claims.TrapAndBrk

/-- Where a written value goes, when shared registers show it, and how pc advances: R47, R51, R53, R129, R263. -/
def Obligations.ValuesGoToTheirRegister : Prop :=
  Sys2Proof.Claims.WrittenValuesGoToTheirPlace ∧ Sys2Proof.Claims.SharedWritesBecomeVisible ∧
  Sys2Proof.Claims.ProgramCounterAdvances

/-- The frame of the instructions that write one register: R45, R48, R51, R53. -/
def Obligations.OneRegisterInstructionsKeepTheRest : Prop :=
  Sys2Proof.Claims.OneRegisterFrame

/-- Nothing runs at reset, and the invariant of memory holds there: R30, R437. That memory reads as zero there is the model's
choice (log entry 5). -/
def Obligations.ResetIsQuietAndInOrder : Prop :=
  Sys2Proof.Claims.NothingRunsAtReset ∧ Sys2Proof.Claims.MemoryInvAtReset

/-- Every step keeps the canonical form of memory and of every scratchpad. -/
def Obligations.StepsKeepTheMemoryInvariant : Prop :=
  Sys2Proof.Claims.StepsKeepMemoryInv

/-- Routes, blocks, meshes, windows, rotation, power, points and errors end in their own effect and leave the rest: R277,
R298, R310, R311, R357, R359, R406, R418, R420, R422, R450, R454. -/
def Obligations.RoutesMovesAndPowerComplete : Prop :=
  Sys2Proof.Claims.RoutesAndBlocksComplete ∧ Sys2Proof.Claims.MeshAndWindowsComplete ∧ Sys2Proof.Claims.RotationCompletes
  ∧ Sys2Proof.Claims.PowerMovesComplete ∧ Sys2Proof.Claims.PointsAndErrorsComplete
end

