-- ==== Sys2Proof/Laws/State.lean ====
section
/-! SUPPORT. The state's fields under the shared updates: one lemma per field and update, so that no later proof unfolds
a record update. -/

namespace Sys2Proof.Machine

/-! ### The state under an update of one part -/

@[simp] theorem State.modSt_slot (s : State) (f : Strand → Strand) : (s.modSt f).slot = s.slot := rfl
@[simp] theorem State.modSt_others (s : State) (f : Strand → Strand) : (s.modSt f).others = s.others := rfl
@[simp] theorem State.modSt_launches (s : State) (f : Strand → Strand) : (s.modSt f).launches = s.launches := rfl
@[simp] theorem State.modSt_tenants (s : State) (f : Strand → Strand) : (s.modSt f).tenants = s.tenants := rfl
@[simp] theorem State.modSt_dies (s : State) (f : Strand → Strand) : (s.modSt f).dies = s.dies := rfl
@[simp] theorem State.modSt_regions (s : State) (f : Strand → Strand) : (s.modSt f).regions = s.regions := rfl
@[simp] theorem State.modSt_dev (s : State) (f : Strand → Strand) : (s.modSt f).dev = s.dev := rfl
@[simp] theorem State.modSt_mem (s : State) (f : Strand → Strand) : (s.modSt f).mem = s.mem := rfl
@[simp] theorem State.modSt_memTags (s : State) (f : Strand → Strand) : (s.modSt f).memTags = s.memTags := rfl
@[simp] theorem State.modSt_chans (s : State) (f : Strand → Strand) : (s.modSt f).chans = s.chans := rfl
@[simp] theorem State.modSt_rets (s : State) (f : Strand → Strand) : (s.modSt f).rets = s.rets := rfl
@[simp] theorem State.modSt_linkWords (s : State) (f : Strand → Strand) : (s.modSt f).linkWords = s.linkWords := rfl
@[simp] theorem State.modSt_pools (s : State) (f : Strand → Strand) : (s.modSt f).pools = s.pools := rfl
@[simp] theorem State.modSt_lastPool (s : State) (f : Strand → Strand) : (s.modSt f).lastPool = s.lastPool := rfl
@[simp] theorem State.modSt_takes (s : State) (f : Strand → Strand) : (s.modSt f).takes = s.takes := rfl
@[simp] theorem State.modSt_replies (s : State) (f : Strand → Strand) : (s.modSt f).replies = s.replies := rfl
@[simp] theorem State.modSt_leaseAcks (s : State) (f : Strand → Strand) : (s.modSt f).leaseAcks = s.leaseAcks := rfl
@[simp] theorem State.modSt_held (s : State) (f : Strand → Strand) : (s.modSt f).held = s.held := rfl
@[simp] theorem State.modSt_landed (s : State) (f : Strand → Strand) : (s.modSt f).landed = s.landed := rfl
@[simp] theorem State.modSt_blocks (s : State) (f : Strand → Strand) : (s.modSt f).blocks = s.blocks := rfl
@[simp] theorem State.modSt_msgAcks (s : State) (f : Strand → Strand) : (s.modSt f).msgAcks = s.msgAcks := rfl
@[simp] theorem State.modSt_oprobes (s : State) (f : Strand → Strand) : (s.modSt f).oprobes = s.oprobes := rfl
@[simp] theorem State.modSt_relayAcks (s : State) (f : Strand → Strand) : (s.modSt f).relayAcks = s.relayAcks := rfl
@[simp] theorem State.modSt_images (s : State) (f : Strand → Strand) : (s.modSt f).images = s.images := rfl
@[simp] theorem State.modSt_points (s : State) (f : Strand → Strand) : (s.modSt f).points = s.points := rfl
@[simp] theorem State.modSt_hostOut (s : State) (f : Strand → Strand) : (s.modSt f).hostOut = s.hostOut := rfl
@[simp] theorem State.modSt_dbg (s : State) (f : Strand → Strand) : (s.modSt f).dbg = s.dbg := rfl
@[simp] theorem State.modSt_objects (s : State) (f : Strand → Strand) : (s.modSt f).objects = s.objects := rfl
@[simp] theorem State.modSt_tools (s : State) (f : Strand → Strand) : (s.modSt f).tools = s.tools := rfl
@[simp] theorem State.modSt_steals (s : State) (f : Strand → Strand) : (s.modSt f).steals = s.steals := rfl
@[simp] theorem State.modSt_now (s : State) (f : Strand → Strand) : (s.modSt f).now = s.now := rfl
@[simp] theorem State.modSt_agenda (s : State) (f : Strand → Strand) : (s.modSt f).agenda = s.agenda := rfl
@[simp] theorem State.modSt_fresh (s : State) (f : Strand → Strand) : (s.modSt f).fresh = s.fresh := rfl
@[simp] theorem State.modSt_nextId (s : State) (f : Strand → Strand) : (s.modSt f).nextId = s.nextId := rfl
@[simp] theorem State.modG_slot (s : State) (f : Group → Group) : (s.modG f).slot = s.slot := rfl
@[simp] theorem State.modG_others (s : State) (f : Group → Group) : (s.modG f).others = s.others := rfl
@[simp] theorem State.modG_launches (s : State) (f : Group → Group) : (s.modG f).launches = s.launches := rfl
@[simp] theorem State.modG_tenants (s : State) (f : Group → Group) : (s.modG f).tenants = s.tenants := rfl
@[simp] theorem State.modG_dies (s : State) (f : Group → Group) : (s.modG f).dies = s.dies := rfl
@[simp] theorem State.modG_regions (s : State) (f : Group → Group) : (s.modG f).regions = s.regions := rfl
@[simp] theorem State.modG_dev (s : State) (f : Group → Group) : (s.modG f).dev = s.dev := rfl
@[simp] theorem State.modG_mem (s : State) (f : Group → Group) : (s.modG f).mem = s.mem := rfl
@[simp] theorem State.modG_memTags (s : State) (f : Group → Group) : (s.modG f).memTags = s.memTags := rfl
@[simp] theorem State.modG_chans (s : State) (f : Group → Group) : (s.modG f).chans = s.chans := rfl
@[simp] theorem State.modG_rets (s : State) (f : Group → Group) : (s.modG f).rets = s.rets := rfl
@[simp] theorem State.modG_linkWords (s : State) (f : Group → Group) : (s.modG f).linkWords = s.linkWords := rfl
@[simp] theorem State.modG_pools (s : State) (f : Group → Group) : (s.modG f).pools = s.pools := rfl
@[simp] theorem State.modG_lastPool (s : State) (f : Group → Group) : (s.modG f).lastPool = s.lastPool := rfl
@[simp] theorem State.modG_takes (s : State) (f : Group → Group) : (s.modG f).takes = s.takes := rfl
@[simp] theorem State.modG_replies (s : State) (f : Group → Group) : (s.modG f).replies = s.replies := rfl
@[simp] theorem State.modG_leaseAcks (s : State) (f : Group → Group) : (s.modG f).leaseAcks = s.leaseAcks := rfl
@[simp] theorem State.modG_held (s : State) (f : Group → Group) : (s.modG f).held = s.held := rfl
@[simp] theorem State.modG_landed (s : State) (f : Group → Group) : (s.modG f).landed = s.landed := rfl
@[simp] theorem State.modG_blocks (s : State) (f : Group → Group) : (s.modG f).blocks = s.blocks := rfl
@[simp] theorem State.modG_msgAcks (s : State) (f : Group → Group) : (s.modG f).msgAcks = s.msgAcks := rfl
@[simp] theorem State.modG_oprobes (s : State) (f : Group → Group) : (s.modG f).oprobes = s.oprobes := rfl
@[simp] theorem State.modG_relayAcks (s : State) (f : Group → Group) : (s.modG f).relayAcks = s.relayAcks := rfl
@[simp] theorem State.modG_images (s : State) (f : Group → Group) : (s.modG f).images = s.images := rfl
@[simp] theorem State.modG_points (s : State) (f : Group → Group) : (s.modG f).points = s.points := rfl
@[simp] theorem State.modG_hostOut (s : State) (f : Group → Group) : (s.modG f).hostOut = s.hostOut := rfl
@[simp] theorem State.modG_dbg (s : State) (f : Group → Group) : (s.modG f).dbg = s.dbg := rfl
@[simp] theorem State.modG_objects (s : State) (f : Group → Group) : (s.modG f).objects = s.objects := rfl
@[simp] theorem State.modG_tools (s : State) (f : Group → Group) : (s.modG f).tools = s.tools := rfl
@[simp] theorem State.modG_steals (s : State) (f : Group → Group) : (s.modG f).steals = s.steals := rfl
@[simp] theorem State.modG_now (s : State) (f : Group → Group) : (s.modG f).now = s.now := rfl
@[simp] theorem State.modG_agenda (s : State) (f : Group → Group) : (s.modG f).agenda = s.agenda := rfl
@[simp] theorem State.modG_fresh (s : State) (f : Group → Group) : (s.modG f).fresh = s.fresh := rfl
@[simp] theorem State.modG_nextId (s : State) (f : Group → Group) : (s.modG f).nextId = s.nextId := rfl
@[simp] theorem State.modG_g (s : State) (f : Group → Group) : (s.modG f).g = f s.g := rfl
@[simp] theorem State.modDie_g (s : State) (v : Nat) (f : Die → Die) : (s.modDie v f).g = s.g := rfl
@[simp] theorem State.modDie_slot (s : State) (v : Nat) (f : Die → Die) : (s.modDie v f).slot = s.slot := rfl
@[simp] theorem State.modDie_others (s : State) (v : Nat) (f : Die → Die) : (s.modDie v f).others = s.others := rfl
@[simp] theorem State.modDie_launches (s : State) (v : Nat) (f : Die → Die) : (s.modDie v f).launches = s.launches := rfl
@[simp] theorem State.modDie_tenants (s : State) (v : Nat) (f : Die → Die) : (s.modDie v f).tenants = s.tenants := rfl
@[simp] theorem State.modDie_regions (s : State) (v : Nat) (f : Die → Die) : (s.modDie v f).regions = s.regions := rfl
@[simp] theorem State.modDie_dev (s : State) (v : Nat) (f : Die → Die) : (s.modDie v f).dev = s.dev := rfl
@[simp] theorem State.modDie_mem (s : State) (v : Nat) (f : Die → Die) : (s.modDie v f).mem = s.mem := rfl
@[simp] theorem State.modDie_memTags (s : State) (v : Nat) (f : Die → Die) : (s.modDie v f).memTags = s.memTags := rfl
@[simp] theorem State.modDie_chans (s : State) (v : Nat) (f : Die → Die) : (s.modDie v f).chans = s.chans := rfl
@[simp] theorem State.modDie_rets (s : State) (v : Nat) (f : Die → Die) : (s.modDie v f).rets = s.rets := rfl
@[simp] theorem State.modDie_linkWords (s : State) (v : Nat) (f : Die → Die) : (s.modDie v f).linkWords = s.linkWords := rfl
@[simp] theorem State.modDie_pools (s : State) (v : Nat) (f : Die → Die) : (s.modDie v f).pools = s.pools := rfl
@[simp] theorem State.modDie_lastPool (s : State) (v : Nat) (f : Die → Die) : (s.modDie v f).lastPool = s.lastPool := rfl
@[simp] theorem State.modDie_takes (s : State) (v : Nat) (f : Die → Die) : (s.modDie v f).takes = s.takes := rfl
@[simp] theorem State.modDie_replies (s : State) (v : Nat) (f : Die → Die) : (s.modDie v f).replies = s.replies := rfl
@[simp] theorem State.modDie_leaseAcks (s : State) (v : Nat) (f : Die → Die) : (s.modDie v f).leaseAcks = s.leaseAcks := rfl
@[simp] theorem State.modDie_held (s : State) (v : Nat) (f : Die → Die) : (s.modDie v f).held = s.held := rfl
@[simp] theorem State.modDie_landed (s : State) (v : Nat) (f : Die → Die) : (s.modDie v f).landed = s.landed := rfl
@[simp] theorem State.modDie_blocks (s : State) (v : Nat) (f : Die → Die) : (s.modDie v f).blocks = s.blocks := rfl
@[simp] theorem State.modDie_msgAcks (s : State) (v : Nat) (f : Die → Die) : (s.modDie v f).msgAcks = s.msgAcks := rfl
@[simp] theorem State.modDie_oprobes (s : State) (v : Nat) (f : Die → Die) : (s.modDie v f).oprobes = s.oprobes := rfl
@[simp] theorem State.modDie_relayAcks (s : State) (v : Nat) (f : Die → Die) : (s.modDie v f).relayAcks = s.relayAcks := rfl
@[simp] theorem State.modDie_images (s : State) (v : Nat) (f : Die → Die) : (s.modDie v f).images = s.images := rfl
@[simp] theorem State.modDie_points (s : State) (v : Nat) (f : Die → Die) : (s.modDie v f).points = s.points := rfl
@[simp] theorem State.modDie_hostOut (s : State) (v : Nat) (f : Die → Die) : (s.modDie v f).hostOut = s.hostOut := rfl
@[simp] theorem State.modDie_dbg (s : State) (v : Nat) (f : Die → Die) : (s.modDie v f).dbg = s.dbg := rfl
@[simp] theorem State.modDie_objects (s : State) (v : Nat) (f : Die → Die) : (s.modDie v f).objects = s.objects := rfl
@[simp] theorem State.modDie_tools (s : State) (v : Nat) (f : Die → Die) : (s.modDie v f).tools = s.tools := rfl
@[simp] theorem State.modDie_steals (s : State) (v : Nat) (f : Die → Die) : (s.modDie v f).steals = s.steals := rfl
@[simp] theorem State.modDie_now (s : State) (v : Nat) (f : Die → Die) : (s.modDie v f).now = s.now := rfl
@[simp] theorem State.modDie_agenda (s : State) (v : Nat) (f : Die → Die) : (s.modDie v f).agenda = s.agenda := rfl
@[simp] theorem State.modDie_fresh (s : State) (v : Nat) (f : Die → Die) : (s.modDie v f).fresh = s.fresh := rfl
@[simp] theorem State.modDie_nextId (s : State) (v : Nat) (f : Die → Die) : (s.modDie v f).nextId = s.nextId := rfl
@[simp] theorem State.modLaunch_g (s : State) (n : Nat) (f : Launch → Launch) : (s.modLaunch n f).g = s.g := rfl
@[simp] theorem State.modLaunch_slot (s : State) (n : Nat) (f : Launch → Launch) : (s.modLaunch n f).slot = s.slot := rfl
@[simp] theorem State.modLaunch_others (s : State) (n : Nat) (f : Launch → Launch) : (s.modLaunch n f).others = s.others := rfl
@[simp] theorem State.modLaunch_tenants (s : State) (n : Nat) (f : Launch → Launch) : (s.modLaunch n f).tenants = s.tenants := rfl
@[simp] theorem State.modLaunch_dies (s : State) (n : Nat) (f : Launch → Launch) : (s.modLaunch n f).dies = s.dies := rfl
@[simp] theorem State.modLaunch_regions (s : State) (n : Nat) (f : Launch → Launch) : (s.modLaunch n f).regions = s.regions := rfl
@[simp] theorem State.modLaunch_dev (s : State) (n : Nat) (f : Launch → Launch) : (s.modLaunch n f).dev = s.dev := rfl
@[simp] theorem State.modLaunch_mem (s : State) (n : Nat) (f : Launch → Launch) : (s.modLaunch n f).mem = s.mem := rfl
@[simp] theorem State.modLaunch_memTags (s : State) (n : Nat) (f : Launch → Launch) : (s.modLaunch n f).memTags = s.memTags := rfl
@[simp] theorem State.modLaunch_chans (s : State) (n : Nat) (f : Launch → Launch) : (s.modLaunch n f).chans = s.chans := rfl
@[simp] theorem State.modLaunch_rets (s : State) (n : Nat) (f : Launch → Launch) : (s.modLaunch n f).rets = s.rets := rfl
@[simp] theorem State.modLaunch_linkWords (s : State) (n : Nat) (f : Launch → Launch) : (s.modLaunch n f).linkWords = s.linkWords := rfl
@[simp] theorem State.modLaunch_pools (s : State) (n : Nat) (f : Launch → Launch) : (s.modLaunch n f).pools = s.pools := rfl
@[simp] theorem State.modLaunch_lastPool (s : State) (n : Nat) (f : Launch → Launch) : (s.modLaunch n f).lastPool = s.lastPool := rfl
@[simp] theorem State.modLaunch_takes (s : State) (n : Nat) (f : Launch → Launch) : (s.modLaunch n f).takes = s.takes := rfl
@[simp] theorem State.modLaunch_replies (s : State) (n : Nat) (f : Launch → Launch) : (s.modLaunch n f).replies = s.replies := rfl
@[simp] theorem State.modLaunch_leaseAcks (s : State) (n : Nat) (f : Launch → Launch) : (s.modLaunch n f).leaseAcks = s.leaseAcks := rfl
@[simp] theorem State.modLaunch_held (s : State) (n : Nat) (f : Launch → Launch) : (s.modLaunch n f).held = s.held := rfl
@[simp] theorem State.modLaunch_landed (s : State) (n : Nat) (f : Launch → Launch) : (s.modLaunch n f).landed = s.landed := rfl
@[simp] theorem State.modLaunch_blocks (s : State) (n : Nat) (f : Launch → Launch) : (s.modLaunch n f).blocks = s.blocks := rfl
@[simp] theorem State.modLaunch_msgAcks (s : State) (n : Nat) (f : Launch → Launch) : (s.modLaunch n f).msgAcks = s.msgAcks := rfl
@[simp] theorem State.modLaunch_oprobes (s : State) (n : Nat) (f : Launch → Launch) : (s.modLaunch n f).oprobes = s.oprobes := rfl
@[simp] theorem State.modLaunch_relayAcks (s : State) (n : Nat) (f : Launch → Launch) : (s.modLaunch n f).relayAcks = s.relayAcks := rfl
@[simp] theorem State.modLaunch_images (s : State) (n : Nat) (f : Launch → Launch) : (s.modLaunch n f).images = s.images := rfl
@[simp] theorem State.modLaunch_points (s : State) (n : Nat) (f : Launch → Launch) : (s.modLaunch n f).points = s.points := rfl
@[simp] theorem State.modLaunch_hostOut (s : State) (n : Nat) (f : Launch → Launch) : (s.modLaunch n f).hostOut = s.hostOut := rfl
@[simp] theorem State.modLaunch_dbg (s : State) (n : Nat) (f : Launch → Launch) : (s.modLaunch n f).dbg = s.dbg := rfl
@[simp] theorem State.modLaunch_objects (s : State) (n : Nat) (f : Launch → Launch) : (s.modLaunch n f).objects = s.objects := rfl
@[simp] theorem State.modLaunch_tools (s : State) (n : Nat) (f : Launch → Launch) : (s.modLaunch n f).tools = s.tools := rfl
@[simp] theorem State.modLaunch_steals (s : State) (n : Nat) (f : Launch → Launch) : (s.modLaunch n f).steals = s.steals := rfl
@[simp] theorem State.modLaunch_now (s : State) (n : Nat) (f : Launch → Launch) : (s.modLaunch n f).now = s.now := rfl
@[simp] theorem State.modLaunch_agenda (s : State) (n : Nat) (f : Launch → Launch) : (s.modLaunch n f).agenda = s.agenda := rfl
@[simp] theorem State.modLaunch_fresh (s : State) (n : Nat) (f : Launch → Launch) : (s.modLaunch n f).fresh = s.fresh := rfl
@[simp] theorem State.modLaunch_nextId (s : State) (n : Nat) (f : Launch → Launch) : (s.modLaunch n f).nextId = s.nextId := rfl
@[simp] theorem State.modTenant_g (s : State) (n : Nat) (f : Tenant → Tenant) : (s.modTenant n f).g = s.g := rfl
@[simp] theorem State.modTenant_slot (s : State) (n : Nat) (f : Tenant → Tenant) : (s.modTenant n f).slot = s.slot := rfl
@[simp] theorem State.modTenant_others (s : State) (n : Nat) (f : Tenant → Tenant) : (s.modTenant n f).others = s.others := rfl
@[simp] theorem State.modTenant_launches (s : State) (n : Nat) (f : Tenant → Tenant) : (s.modTenant n f).launches = s.launches := rfl
@[simp] theorem State.modTenant_dies (s : State) (n : Nat) (f : Tenant → Tenant) : (s.modTenant n f).dies = s.dies := rfl
@[simp] theorem State.modTenant_regions (s : State) (n : Nat) (f : Tenant → Tenant) : (s.modTenant n f).regions = s.regions := rfl
@[simp] theorem State.modTenant_dev (s : State) (n : Nat) (f : Tenant → Tenant) : (s.modTenant n f).dev = s.dev := rfl
@[simp] theorem State.modTenant_mem (s : State) (n : Nat) (f : Tenant → Tenant) : (s.modTenant n f).mem = s.mem := rfl
@[simp] theorem State.modTenant_memTags (s : State) (n : Nat) (f : Tenant → Tenant) : (s.modTenant n f).memTags = s.memTags := rfl
@[simp] theorem State.modTenant_chans (s : State) (n : Nat) (f : Tenant → Tenant) : (s.modTenant n f).chans = s.chans := rfl
@[simp] theorem State.modTenant_rets (s : State) (n : Nat) (f : Tenant → Tenant) : (s.modTenant n f).rets = s.rets := rfl
@[simp] theorem State.modTenant_linkWords (s : State) (n : Nat) (f : Tenant → Tenant) : (s.modTenant n f).linkWords = s.linkWords := rfl
@[simp] theorem State.modTenant_pools (s : State) (n : Nat) (f : Tenant → Tenant) : (s.modTenant n f).pools = s.pools := rfl
@[simp] theorem State.modTenant_lastPool (s : State) (n : Nat) (f : Tenant → Tenant) : (s.modTenant n f).lastPool = s.lastPool := rfl
@[simp] theorem State.modTenant_takes (s : State) (n : Nat) (f : Tenant → Tenant) : (s.modTenant n f).takes = s.takes := rfl
@[simp] theorem State.modTenant_replies (s : State) (n : Nat) (f : Tenant → Tenant) : (s.modTenant n f).replies = s.replies := rfl
@[simp] theorem State.modTenant_leaseAcks (s : State) (n : Nat) (f : Tenant → Tenant) : (s.modTenant n f).leaseAcks = s.leaseAcks := rfl
@[simp] theorem State.modTenant_held (s : State) (n : Nat) (f : Tenant → Tenant) : (s.modTenant n f).held = s.held := rfl
@[simp] theorem State.modTenant_landed (s : State) (n : Nat) (f : Tenant → Tenant) : (s.modTenant n f).landed = s.landed := rfl
@[simp] theorem State.modTenant_blocks (s : State) (n : Nat) (f : Tenant → Tenant) : (s.modTenant n f).blocks = s.blocks := rfl
@[simp] theorem State.modTenant_msgAcks (s : State) (n : Nat) (f : Tenant → Tenant) : (s.modTenant n f).msgAcks = s.msgAcks := rfl
@[simp] theorem State.modTenant_oprobes (s : State) (n : Nat) (f : Tenant → Tenant) : (s.modTenant n f).oprobes = s.oprobes := rfl
@[simp] theorem State.modTenant_relayAcks (s : State) (n : Nat) (f : Tenant → Tenant) : (s.modTenant n f).relayAcks = s.relayAcks := rfl
@[simp] theorem State.modTenant_images (s : State) (n : Nat) (f : Tenant → Tenant) : (s.modTenant n f).images = s.images := rfl
@[simp] theorem State.modTenant_points (s : State) (n : Nat) (f : Tenant → Tenant) : (s.modTenant n f).points = s.points := rfl
@[simp] theorem State.modTenant_hostOut (s : State) (n : Nat) (f : Tenant → Tenant) : (s.modTenant n f).hostOut = s.hostOut := rfl
@[simp] theorem State.modTenant_dbg (s : State) (n : Nat) (f : Tenant → Tenant) : (s.modTenant n f).dbg = s.dbg := rfl
@[simp] theorem State.modTenant_objects (s : State) (n : Nat) (f : Tenant → Tenant) : (s.modTenant n f).objects = s.objects := rfl
@[simp] theorem State.modTenant_tools (s : State) (n : Nat) (f : Tenant → Tenant) : (s.modTenant n f).tools = s.tools := rfl
@[simp] theorem State.modTenant_steals (s : State) (n : Nat) (f : Tenant → Tenant) : (s.modTenant n f).steals = s.steals := rfl
@[simp] theorem State.modTenant_now (s : State) (n : Nat) (f : Tenant → Tenant) : (s.modTenant n f).now = s.now := rfl
@[simp] theorem State.modTenant_agenda (s : State) (n : Nat) (f : Tenant → Tenant) : (s.modTenant n f).agenda = s.agenda := rfl
@[simp] theorem State.modTenant_fresh (s : State) (n : Nat) (f : Tenant → Tenant) : (s.modTenant n f).fresh = s.fresh := rfl
@[simp] theorem State.modTenant_nextId (s : State) (n : Nat) (f : Tenant → Tenant) : (s.modTenant n f).nextId = s.nextId := rfl
@[simp] theorem State.modRegion_g (s : State) (n : Nat) (f : Region → Region) : (s.modRegion n f).g = s.g := rfl
@[simp] theorem State.modRegion_slot (s : State) (n : Nat) (f : Region → Region) : (s.modRegion n f).slot = s.slot := rfl
@[simp] theorem State.modRegion_others (s : State) (n : Nat) (f : Region → Region) : (s.modRegion n f).others = s.others := rfl
@[simp] theorem State.modRegion_launches (s : State) (n : Nat) (f : Region → Region) : (s.modRegion n f).launches = s.launches := rfl
@[simp] theorem State.modRegion_tenants (s : State) (n : Nat) (f : Region → Region) : (s.modRegion n f).tenants = s.tenants := rfl
@[simp] theorem State.modRegion_dies (s : State) (n : Nat) (f : Region → Region) : (s.modRegion n f).dies = s.dies := rfl
@[simp] theorem State.modRegion_dev (s : State) (n : Nat) (f : Region → Region) : (s.modRegion n f).dev = s.dev := rfl
@[simp] theorem State.modRegion_mem (s : State) (n : Nat) (f : Region → Region) : (s.modRegion n f).mem = s.mem := rfl
@[simp] theorem State.modRegion_memTags (s : State) (n : Nat) (f : Region → Region) : (s.modRegion n f).memTags = s.memTags := rfl
@[simp] theorem State.modRegion_chans (s : State) (n : Nat) (f : Region → Region) : (s.modRegion n f).chans = s.chans := rfl
@[simp] theorem State.modRegion_rets (s : State) (n : Nat) (f : Region → Region) : (s.modRegion n f).rets = s.rets := rfl
@[simp] theorem State.modRegion_linkWords (s : State) (n : Nat) (f : Region → Region) : (s.modRegion n f).linkWords = s.linkWords := rfl
@[simp] theorem State.modRegion_pools (s : State) (n : Nat) (f : Region → Region) : (s.modRegion n f).pools = s.pools := rfl
@[simp] theorem State.modRegion_lastPool (s : State) (n : Nat) (f : Region → Region) : (s.modRegion n f).lastPool = s.lastPool := rfl
@[simp] theorem State.modRegion_takes (s : State) (n : Nat) (f : Region → Region) : (s.modRegion n f).takes = s.takes := rfl
@[simp] theorem State.modRegion_replies (s : State) (n : Nat) (f : Region → Region) : (s.modRegion n f).replies = s.replies := rfl
@[simp] theorem State.modRegion_leaseAcks (s : State) (n : Nat) (f : Region → Region) : (s.modRegion n f).leaseAcks = s.leaseAcks := rfl
@[simp] theorem State.modRegion_held (s : State) (n : Nat) (f : Region → Region) : (s.modRegion n f).held = s.held := rfl
@[simp] theorem State.modRegion_landed (s : State) (n : Nat) (f : Region → Region) : (s.modRegion n f).landed = s.landed := rfl
@[simp] theorem State.modRegion_blocks (s : State) (n : Nat) (f : Region → Region) : (s.modRegion n f).blocks = s.blocks := rfl
@[simp] theorem State.modRegion_msgAcks (s : State) (n : Nat) (f : Region → Region) : (s.modRegion n f).msgAcks = s.msgAcks := rfl
@[simp] theorem State.modRegion_oprobes (s : State) (n : Nat) (f : Region → Region) : (s.modRegion n f).oprobes = s.oprobes := rfl
@[simp] theorem State.modRegion_relayAcks (s : State) (n : Nat) (f : Region → Region) : (s.modRegion n f).relayAcks = s.relayAcks := rfl
@[simp] theorem State.modRegion_images (s : State) (n : Nat) (f : Region → Region) : (s.modRegion n f).images = s.images := rfl
@[simp] theorem State.modRegion_points (s : State) (n : Nat) (f : Region → Region) : (s.modRegion n f).points = s.points := rfl
@[simp] theorem State.modRegion_hostOut (s : State) (n : Nat) (f : Region → Region) : (s.modRegion n f).hostOut = s.hostOut := rfl
@[simp] theorem State.modRegion_dbg (s : State) (n : Nat) (f : Region → Region) : (s.modRegion n f).dbg = s.dbg := rfl
@[simp] theorem State.modRegion_objects (s : State) (n : Nat) (f : Region → Region) : (s.modRegion n f).objects = s.objects := rfl
@[simp] theorem State.modRegion_tools (s : State) (n : Nat) (f : Region → Region) : (s.modRegion n f).tools = s.tools := rfl
@[simp] theorem State.modRegion_steals (s : State) (n : Nat) (f : Region → Region) : (s.modRegion n f).steals = s.steals := rfl
@[simp] theorem State.modRegion_now (s : State) (n : Nat) (f : Region → Region) : (s.modRegion n f).now = s.now := rfl
@[simp] theorem State.modRegion_agenda (s : State) (n : Nat) (f : Region → Region) : (s.modRegion n f).agenda = s.agenda := rfl
@[simp] theorem State.modRegion_fresh (s : State) (n : Nat) (f : Region → Region) : (s.modRegion n f).fresh = s.fresh := rfl
@[simp] theorem State.modRegion_nextId (s : State) (n : Nat) (f : Region → Region) : (s.modRegion n f).nextId = s.nextId := rfl

/-! ### The group under an update of one strand -/

@[simp] theorem Group.setSt_gid (g : Group) (k : Fin 8) (t : Strand) : (g.setSt k t).gid = g.gid := rfl
@[simp] theorem Group.setSt_state (g : Group) (k : Fin 8) (t : Strand) : (g.setSt k t).state = g.state := rfl
@[simp] theorem Group.setSt_place (g : Group) (k : Fin 8) (t : Strand) : (g.setSt k t).place = g.place := rfl
@[simp] theorem Group.setSt_logical (g : Group) (k : Fin 8) (t : Strand) : (g.setSt k t).logical = g.logical := rfl
@[simp] theorem Group.setSt_homeDie (g : Group) (k : Fin 8) (t : Strand) : (g.setSt k t).homeDie = g.homeDie := rfl
@[simp] theorem Group.setSt_sr (g : Group) (k : Fin 8) (t : Strand) : (g.setSt k t).sr = g.sr := rfl
@[simp] theorem Group.setSt_swrites (g : Group) (k : Fin 8) (t : Strand) : (g.setSt k t).swrites = g.swrites := rfl
@[simp] theorem Group.setSt_late (g : Group) (k : Fin 8) (t : Strand) : (g.setSt k t).late = g.late := rfl
@[simp] theorem Group.setSt_acc (g : Group) (k : Fin 8) (t : Strand) : (g.setSt k t).acc = g.acc := rfl
@[simp] theorem Group.setSt_mx (g : Group) (k : Fin 8) (t : Strand) : (g.setSt k t).mx = g.mx := rfl
@[simp] theorem Group.setSt_mxLast (g : Group) (k : Fin 8) (t : Strand) : (g.setSt k t).mxLast = g.mxLast := rfl
@[simp] theorem Group.setSt_mxGap (g : Group) (k : Fin 8) (t : Strand) : (g.setSt k t).mxGap = g.mxGap := rfl
@[simp] theorem Group.setSt_mxDone (g : Group) (k : Fin 8) (t : Strand) : (g.setSt k t).mxDone = g.mxDone := rfl
@[simp] theorem Group.setSt_fmtA (g : Group) (k : Fin 8) (t : Strand) : (g.setSt k t).fmtA = g.fmtA := rfl
@[simp] theorem Group.setSt_fmtB (g : Group) (k : Fin 8) (t : Strand) : (g.setSt k t).fmtB = g.fmtB := rfl
@[simp] theorem Group.setSt_accW (g : Group) (k : Fin 8) (t : Strand) : (g.setSt k t).accW = g.accW := rfl
@[simp] theorem Group.setSt_saves (g : Group) (k : Fin 8) (t : Strand) : (g.setSt k t).saves = g.saves := rfl
@[simp] theorem Group.setSt_trig (g : Group) (k : Fin 8) (t : Strand) : (g.setSt k t).trig = g.trig := rfl
@[simp] theorem Group.setSt_resumed (g : Group) (k : Fin 8) (t : Strand) : (g.setSt k t).resumed = g.resumed := rfl
@[simp] theorem Group.setSt_frozen (g : Group) (k : Fin 8) (t : Strand) : (g.setSt k t).frozen = g.frozen := rfl
@[simp] theorem Group.setSt_dhalt (g : Group) (k : Fin 8) (t : Strand) : (g.setSt k t).dhalt = g.dhalt := rfl
@[simp] theorem Group.setSt_hitBreak (g : Group) (k : Fin 8) (t : Strand) : (g.setSt k t).hitBreak = g.hitBreak := rfl
@[simp] theorem Group.setSt_disc (g : Group) (k : Fin 8) (t : Strand) : (g.setSt k t).disc = g.disc := rfl
@[simp] theorem Group.setSt_tvec (g : Group) (k : Fin 8) (t : Strand) : (g.setSt k t).tvec = g.tvec := rfl
@[simp] theorem Group.setSt_log2 (g : Group) (k : Fin 8) (t : Strand) : (g.setSt k t).log2 = g.log2 := rfl
@[simp] theorem Group.setSt_discard (g : Group) (k : Fin 8) (t : Strand) : (g.setSt k t).discard = g.discard := rfl
@[simp] theorem Group.setSt_skips (g : Group) (k : Fin 8) (t : Strand) : (g.setSt k t).skips = g.skips := rfl
@[simp] theorem Group.setSt_swaps (g : Group) (k : Fin 8) (t : Strand) : (g.setSt k t).swaps = g.swaps := rfl
@[simp] theorem Group.setSt_instant (g : Group) (k : Fin 8) (t : Strand) : (g.setSt k t).instant = g.instant := rfl
@[simp] theorem Group.setSt_synclim (g : Group) (k : Fin 8) (t : Strand) : (g.setSt k t).synclim = g.synclim := rfl
@[simp] theorem Group.setSt_portCopies (g : Group) (k : Fin 8) (t : Strand) : (g.setSt k t).portCopies = g.portCopies := rfl
@[simp] theorem Group.setSt_cpsel (g : Group) (k : Fin 8) (t : Strand) : (g.setSt k t).cpsel = g.cpsel := rfl
@[simp] theorem Group.setSt_msgtim (g : Group) (k : Fin 8) (t : Strand) : (g.setSt k t).msgtim = g.msgtim := rfl
@[simp] theorem Group.setSt_dbgbp (g : Group) (k : Fin 8) (t : Strand) : (g.setSt k t).dbgbp = g.dbgbp := rfl
@[simp] theorem Group.setSt_csrWrites (g : Group) (k : Fin 8) (t : Strand) : (g.setSt k t).csrWrites = g.csrWrites := rfl
@[simp] theorem Group.setSt_spad (g : Group) (k : Fin 8) (t : Strand) : (g.setSt k t).spad = g.spad := rfl
@[simp] theorem Group.setSt_spTags (g : Group) (k : Fin 8) (t : Strand) : (g.setSt k t).spTags = g.spTags := rfl
@[simp] theorem Group.setSt_spEmpty (g : Group) (k : Fin 8) (t : Strand) : (g.setSt k t).spEmpty = g.spEmpty := rfl
@[simp] theorem Group.setSt_marks (g : Group) (k : Fin 8) (t : Strand) : (g.setSt k t).marks = g.marks := rfl
@[simp] theorem Group.setSt_wordClocks (g : Group) (k : Fin 8) (t : Strand) : (g.setSt k t).wordClocks = g.wordClocks := rfl
@[simp] theorem Group.setSt_badWords (g : Group) (k : Fin 8) (t : Strand) : (g.setSt k t).badWords = g.badWords := rfl
@[simp] theorem Group.setSt_barPend (g : Group) (k : Fin 8) (t : Strand) : (g.setSt k t).barPend = g.barPend := rfl
@[simp] theorem Group.setSt_barClocks (g : Group) (k : Fin 8) (t : Strand) : (g.setSt k t).barClocks = g.barClocks := rfl
@[simp] theorem Group.setSt_deque (g : Group) (k : Fin 8) (t : Strand) : (g.setSt k t).deque = g.deque := rfl
@[simp] theorem Group.setSt_store (g : Group) (k : Fin 8) (t : Strand) : (g.setSt k t).store = g.store := rfl
@[simp] theorem Group.setSt_routes (g : Group) (k : Fin 8) (t : Strand) : (g.setSt k t).routes = g.routes := rfl
@[simp] theorem Group.setSt_links (g : Group) (k : Fin 8) (t : Strand) : (g.setSt k t).links = g.links := rfl
@[simp] theorem Group.setSt_inbox (g : Group) (k : Fin 8) (t : Strand) : (g.setSt k t).inbox = g.inbox := rfl
@[simp] theorem Group.setSt_left (g : Group) (k : Fin 8) (t : Strand) : (g.setSt k t).left = g.left := rfl
@[simp] theorem Group.setSt_clockNote (g : Group) (k : Fin 8) (t : Strand) : (g.setSt k t).clockNote = g.clockNote := rfl
@[simp] theorem Group.setSt_arrivals (g : Group) (k : Fin 8) (t : Strand) : (g.setSt k t).arrivals = g.arrivals := rfl
@[simp] theorem Group.setSt_absent (g : Group) (k : Fin 8) (t : Strand) : (g.setSt k t).absent = g.absent := rfl
@[simp] theorem Group.setSt_inboxQ (g : Group) (k : Fin 8) (t : Strand) : (g.setSt k t).inboxQ = g.inboxQ := rfl
@[simp] theorem Group.setSt_refusals (g : Group) (k : Fin 8) (t : Strand) : (g.setSt k t).refusals = g.refusals := rfl
@[simp] theorem Group.setSt_streams (g : Group) (k : Fin 8) (t : Strand) : (g.setSt k t).streams = g.streams := rfl
@[simp] theorem Group.setSt_ops (g : Group) (k : Fin 8) (t : Strand) : (g.setSt k t).ops = g.ops := rfl
@[simp] theorem Group.setSt_em (g : Group) (k : Fin 8) (t : Strand) : (g.setSt k t).em = g.em := rfl
@[simp] theorem Group.setSt_emits (g : Group) (k : Fin 8) (t : Strand) : (g.setSt k t).emits = g.emits := rfl
@[simp] theorem Group.setSt_present (g : Group) (k : Fin 8) (t : Strand) : (g.setSt k t).present = g.present := rfl
@[simp] theorem Group.setSt_absentS (g : Group) (k : Fin 8) (t : Strand) : (g.setSt k t).absentS = g.absentS := rfl
@[simp] theorem Group.setSt_relSeen (g : Group) (k : Fin 8) (t : Strand) : (g.setSt k t).relSeen = g.relSeen := rfl
@[simp] theorem Group.setSt_prevEm (g : Group) (k : Fin 8) (t : Strand) : (g.setSt k t).prevEm = g.prevEm := rfl
@[simp] theorem Group.setSt_prevSlot (g : Group) (k : Fin 8) (t : Strand) : (g.setSt k t).prevSlot = g.prevSlot := rfl
@[simp] theorem Group.setSt_lastIssue (g : Group) (k : Fin 8) (t : Strand) : (g.setSt k t).lastIssue = g.lastIssue := rfl
@[simp] theorem Group.setSt_goneBars (g : Group) (k : Fin 8) (t : Strand) : (g.setSt k t).goneBars = g.goneBars := rfl
@[simp] theorem Group.setSt_turnEnds (g : Group) (k : Fin 8) (t : Strand) : (g.setSt k t).turnEnds = g.turnEnds := rfl
@[simp] theorem Group.setSt_stop (g : Group) (k : Fin 8) (t : Strand) : (g.setSt k t).stop = g.stop := rfl
@[simp] theorem Group.setSt_outWhy (g : Group) (k : Fin 8) (t : Strand) : (g.setSt k t).outWhy = g.outWhy := rfl
@[simp] theorem Group.setSt_begun (g : Group) (k : Fin 8) (t : Strand) : (g.setSt k t).begun = g.begun := rfl
@[simp] theorem Group.setSt_stealAt (g : Group) (k : Fin 8) (t : Strand) : (g.setSt k t).stealAt = g.stealAt := rfl
@[simp] theorem Group.setSt_stealing (g : Group) (k : Fin 8) (t : Strand) : (g.setSt k t).stealing = g.stealing := rfl
@[simp] theorem Group.setSt_inherit (g : Group) (k : Fin 8) (t : Strand) : (g.setSt k t).inherit = g.inherit := rfl
@[simp] theorem Group.setSt_handTile (g : Group) (k : Fin 8) (t : Strand) : (g.setSt k t).handTile = g.handTile := rfl
@[simp] theorem Group.modSt_gid (g : Group) (k : Fin 8) (f : Strand → Strand) : (g.modSt k f).gid = g.gid := rfl
@[simp] theorem Group.modSt_state (g : Group) (k : Fin 8) (f : Strand → Strand) : (g.modSt k f).state = g.state := rfl
@[simp] theorem Group.modSt_place (g : Group) (k : Fin 8) (f : Strand → Strand) : (g.modSt k f).place = g.place := rfl
@[simp] theorem Group.modSt_logical (g : Group) (k : Fin 8) (f : Strand → Strand) : (g.modSt k f).logical = g.logical := rfl
@[simp] theorem Group.modSt_homeDie (g : Group) (k : Fin 8) (f : Strand → Strand) : (g.modSt k f).homeDie = g.homeDie := rfl
@[simp] theorem Group.modSt_sr (g : Group) (k : Fin 8) (f : Strand → Strand) : (g.modSt k f).sr = g.sr := rfl
@[simp] theorem Group.modSt_swrites (g : Group) (k : Fin 8) (f : Strand → Strand) : (g.modSt k f).swrites = g.swrites := rfl
@[simp] theorem Group.modSt_late (g : Group) (k : Fin 8) (f : Strand → Strand) : (g.modSt k f).late = g.late := rfl
@[simp] theorem Group.modSt_acc (g : Group) (k : Fin 8) (f : Strand → Strand) : (g.modSt k f).acc = g.acc := rfl
@[simp] theorem Group.modSt_mx (g : Group) (k : Fin 8) (f : Strand → Strand) : (g.modSt k f).mx = g.mx := rfl
@[simp] theorem Group.modSt_mxLast (g : Group) (k : Fin 8) (f : Strand → Strand) : (g.modSt k f).mxLast = g.mxLast := rfl
@[simp] theorem Group.modSt_mxGap (g : Group) (k : Fin 8) (f : Strand → Strand) : (g.modSt k f).mxGap = g.mxGap := rfl
@[simp] theorem Group.modSt_mxDone (g : Group) (k : Fin 8) (f : Strand → Strand) : (g.modSt k f).mxDone = g.mxDone := rfl
@[simp] theorem Group.modSt_fmtA (g : Group) (k : Fin 8) (f : Strand → Strand) : (g.modSt k f).fmtA = g.fmtA := rfl
@[simp] theorem Group.modSt_fmtB (g : Group) (k : Fin 8) (f : Strand → Strand) : (g.modSt k f).fmtB = g.fmtB := rfl
@[simp] theorem Group.modSt_accW (g : Group) (k : Fin 8) (f : Strand → Strand) : (g.modSt k f).accW = g.accW := rfl
@[simp] theorem Group.modSt_saves (g : Group) (k : Fin 8) (f : Strand → Strand) : (g.modSt k f).saves = g.saves := rfl
@[simp] theorem Group.modSt_trig (g : Group) (k : Fin 8) (f : Strand → Strand) : (g.modSt k f).trig = g.trig := rfl
@[simp] theorem Group.modSt_resumed (g : Group) (k : Fin 8) (f : Strand → Strand) : (g.modSt k f).resumed = g.resumed := rfl
@[simp] theorem Group.modSt_frozen (g : Group) (k : Fin 8) (f : Strand → Strand) : (g.modSt k f).frozen = g.frozen := rfl
@[simp] theorem Group.modSt_dhalt (g : Group) (k : Fin 8) (f : Strand → Strand) : (g.modSt k f).dhalt = g.dhalt := rfl
@[simp] theorem Group.modSt_hitBreak (g : Group) (k : Fin 8) (f : Strand → Strand) : (g.modSt k f).hitBreak = g.hitBreak := rfl
@[simp] theorem Group.modSt_disc (g : Group) (k : Fin 8) (f : Strand → Strand) : (g.modSt k f).disc = g.disc := rfl
@[simp] theorem Group.modSt_tvec (g : Group) (k : Fin 8) (f : Strand → Strand) : (g.modSt k f).tvec = g.tvec := rfl
@[simp] theorem Group.modSt_log2 (g : Group) (k : Fin 8) (f : Strand → Strand) : (g.modSt k f).log2 = g.log2 := rfl
@[simp] theorem Group.modSt_discard (g : Group) (k : Fin 8) (f : Strand → Strand) : (g.modSt k f).discard = g.discard := rfl
@[simp] theorem Group.modSt_skips (g : Group) (k : Fin 8) (f : Strand → Strand) : (g.modSt k f).skips = g.skips := rfl
@[simp] theorem Group.modSt_swaps (g : Group) (k : Fin 8) (f : Strand → Strand) : (g.modSt k f).swaps = g.swaps := rfl
@[simp] theorem Group.modSt_instant (g : Group) (k : Fin 8) (f : Strand → Strand) : (g.modSt k f).instant = g.instant := rfl
@[simp] theorem Group.modSt_synclim (g : Group) (k : Fin 8) (f : Strand → Strand) : (g.modSt k f).synclim = g.synclim := rfl
@[simp] theorem Group.modSt_portCopies (g : Group) (k : Fin 8) (f : Strand → Strand) : (g.modSt k f).portCopies = g.portCopies := rfl
@[simp] theorem Group.modSt_cpsel (g : Group) (k : Fin 8) (f : Strand → Strand) : (g.modSt k f).cpsel = g.cpsel := rfl
@[simp] theorem Group.modSt_msgtim (g : Group) (k : Fin 8) (f : Strand → Strand) : (g.modSt k f).msgtim = g.msgtim := rfl
@[simp] theorem Group.modSt_dbgbp (g : Group) (k : Fin 8) (f : Strand → Strand) : (g.modSt k f).dbgbp = g.dbgbp := rfl
@[simp] theorem Group.modSt_csrWrites (g : Group) (k : Fin 8) (f : Strand → Strand) : (g.modSt k f).csrWrites = g.csrWrites := rfl
@[simp] theorem Group.modSt_spad (g : Group) (k : Fin 8) (f : Strand → Strand) : (g.modSt k f).spad = g.spad := rfl
@[simp] theorem Group.modSt_spTags (g : Group) (k : Fin 8) (f : Strand → Strand) : (g.modSt k f).spTags = g.spTags := rfl
@[simp] theorem Group.modSt_spEmpty (g : Group) (k : Fin 8) (f : Strand → Strand) : (g.modSt k f).spEmpty = g.spEmpty := rfl
@[simp] theorem Group.modSt_marks (g : Group) (k : Fin 8) (f : Strand → Strand) : (g.modSt k f).marks = g.marks := rfl
@[simp] theorem Group.modSt_wordClocks (g : Group) (k : Fin 8) (f : Strand → Strand) : (g.modSt k f).wordClocks = g.wordClocks := rfl
@[simp] theorem Group.modSt_badWords (g : Group) (k : Fin 8) (f : Strand → Strand) : (g.modSt k f).badWords = g.badWords := rfl
@[simp] theorem Group.modSt_barPend (g : Group) (k : Fin 8) (f : Strand → Strand) : (g.modSt k f).barPend = g.barPend := rfl
@[simp] theorem Group.modSt_barClocks (g : Group) (k : Fin 8) (f : Strand → Strand) : (g.modSt k f).barClocks = g.barClocks := rfl
@[simp] theorem Group.modSt_deque (g : Group) (k : Fin 8) (f : Strand → Strand) : (g.modSt k f).deque = g.deque := rfl
@[simp] theorem Group.modSt_store (g : Group) (k : Fin 8) (f : Strand → Strand) : (g.modSt k f).store = g.store := rfl
@[simp] theorem Group.modSt_routes (g : Group) (k : Fin 8) (f : Strand → Strand) : (g.modSt k f).routes = g.routes := rfl
@[simp] theorem Group.modSt_links (g : Group) (k : Fin 8) (f : Strand → Strand) : (g.modSt k f).links = g.links := rfl
@[simp] theorem Group.modSt_inbox (g : Group) (k : Fin 8) (f : Strand → Strand) : (g.modSt k f).inbox = g.inbox := rfl
@[simp] theorem Group.modSt_left (g : Group) (k : Fin 8) (f : Strand → Strand) : (g.modSt k f).left = g.left := rfl
@[simp] theorem Group.modSt_clockNote (g : Group) (k : Fin 8) (f : Strand → Strand) : (g.modSt k f).clockNote = g.clockNote := rfl
@[simp] theorem Group.modSt_arrivals (g : Group) (k : Fin 8) (f : Strand → Strand) : (g.modSt k f).arrivals = g.arrivals := rfl
@[simp] theorem Group.modSt_absent (g : Group) (k : Fin 8) (f : Strand → Strand) : (g.modSt k f).absent = g.absent := rfl
@[simp] theorem Group.modSt_inboxQ (g : Group) (k : Fin 8) (f : Strand → Strand) : (g.modSt k f).inboxQ = g.inboxQ := rfl
@[simp] theorem Group.modSt_refusals (g : Group) (k : Fin 8) (f : Strand → Strand) : (g.modSt k f).refusals = g.refusals := rfl
@[simp] theorem Group.modSt_streams (g : Group) (k : Fin 8) (f : Strand → Strand) : (g.modSt k f).streams = g.streams := rfl
@[simp] theorem Group.modSt_ops (g : Group) (k : Fin 8) (f : Strand → Strand) : (g.modSt k f).ops = g.ops := rfl
@[simp] theorem Group.modSt_em (g : Group) (k : Fin 8) (f : Strand → Strand) : (g.modSt k f).em = g.em := rfl
@[simp] theorem Group.modSt_emits (g : Group) (k : Fin 8) (f : Strand → Strand) : (g.modSt k f).emits = g.emits := rfl
@[simp] theorem Group.modSt_present (g : Group) (k : Fin 8) (f : Strand → Strand) : (g.modSt k f).present = g.present := rfl
@[simp] theorem Group.modSt_absentS (g : Group) (k : Fin 8) (f : Strand → Strand) : (g.modSt k f).absentS = g.absentS := rfl
@[simp] theorem Group.modSt_relSeen (g : Group) (k : Fin 8) (f : Strand → Strand) : (g.modSt k f).relSeen = g.relSeen := rfl
@[simp] theorem Group.modSt_prevEm (g : Group) (k : Fin 8) (f : Strand → Strand) : (g.modSt k f).prevEm = g.prevEm := rfl
@[simp] theorem Group.modSt_prevSlot (g : Group) (k : Fin 8) (f : Strand → Strand) : (g.modSt k f).prevSlot = g.prevSlot := rfl
@[simp] theorem Group.modSt_lastIssue (g : Group) (k : Fin 8) (f : Strand → Strand) : (g.modSt k f).lastIssue = g.lastIssue := rfl
@[simp] theorem Group.modSt_goneBars (g : Group) (k : Fin 8) (f : Strand → Strand) : (g.modSt k f).goneBars = g.goneBars := rfl
@[simp] theorem Group.modSt_turnEnds (g : Group) (k : Fin 8) (f : Strand → Strand) : (g.modSt k f).turnEnds = g.turnEnds := rfl
@[simp] theorem Group.modSt_stop (g : Group) (k : Fin 8) (f : Strand → Strand) : (g.modSt k f).stop = g.stop := rfl
@[simp] theorem Group.modSt_outWhy (g : Group) (k : Fin 8) (f : Strand → Strand) : (g.modSt k f).outWhy = g.outWhy := rfl
@[simp] theorem Group.modSt_begun (g : Group) (k : Fin 8) (f : Strand → Strand) : (g.modSt k f).begun = g.begun := rfl
@[simp] theorem Group.modSt_stealAt (g : Group) (k : Fin 8) (f : Strand → Strand) : (g.modSt k f).stealAt = g.stealAt := rfl
@[simp] theorem Group.modSt_stealing (g : Group) (k : Fin 8) (f : Strand → Strand) : (g.modSt k f).stealing = g.stealing := rfl
@[simp] theorem Group.modSt_inherit (g : Group) (k : Fin 8) (f : Strand → Strand) : (g.modSt k f).inherit = g.inherit := rfl
@[simp] theorem Group.modSt_handTile (g : Group) (k : Fin 8) (f : Strand → Strand) : (g.modSt k f).handTile = g.handTile := rfl
@[simp] theorem State.modSt_g_gid (s : State) (f : Strand → Strand) : (s.modSt f).g.gid = s.g.gid := rfl
@[simp] theorem State.modSt_g_state (s : State) (f : Strand → Strand) : (s.modSt f).g.state = s.g.state := rfl
@[simp] theorem State.modSt_g_place (s : State) (f : Strand → Strand) : (s.modSt f).g.place = s.g.place := rfl
@[simp] theorem State.modSt_g_logical (s : State) (f : Strand → Strand) : (s.modSt f).g.logical = s.g.logical := rfl
@[simp] theorem State.modSt_g_homeDie (s : State) (f : Strand → Strand) : (s.modSt f).g.homeDie = s.g.homeDie := rfl
@[simp] theorem State.modSt_g_sr (s : State) (f : Strand → Strand) : (s.modSt f).g.sr = s.g.sr := rfl
@[simp] theorem State.modSt_g_swrites (s : State) (f : Strand → Strand) : (s.modSt f).g.swrites = s.g.swrites := rfl
@[simp] theorem State.modSt_g_late (s : State) (f : Strand → Strand) : (s.modSt f).g.late = s.g.late := rfl
@[simp] theorem State.modSt_g_acc (s : State) (f : Strand → Strand) : (s.modSt f).g.acc = s.g.acc := rfl
@[simp] theorem State.modSt_g_mx (s : State) (f : Strand → Strand) : (s.modSt f).g.mx = s.g.mx := rfl
@[simp] theorem State.modSt_g_mxLast (s : State) (f : Strand → Strand) : (s.modSt f).g.mxLast = s.g.mxLast := rfl
@[simp] theorem State.modSt_g_mxGap (s : State) (f : Strand → Strand) : (s.modSt f).g.mxGap = s.g.mxGap := rfl
@[simp] theorem State.modSt_g_mxDone (s : State) (f : Strand → Strand) : (s.modSt f).g.mxDone = s.g.mxDone := rfl
@[simp] theorem State.modSt_g_fmtA (s : State) (f : Strand → Strand) : (s.modSt f).g.fmtA = s.g.fmtA := rfl
@[simp] theorem State.modSt_g_fmtB (s : State) (f : Strand → Strand) : (s.modSt f).g.fmtB = s.g.fmtB := rfl
@[simp] theorem State.modSt_g_accW (s : State) (f : Strand → Strand) : (s.modSt f).g.accW = s.g.accW := rfl
@[simp] theorem State.modSt_g_saves (s : State) (f : Strand → Strand) : (s.modSt f).g.saves = s.g.saves := rfl
@[simp] theorem State.modSt_g_trig (s : State) (f : Strand → Strand) : (s.modSt f).g.trig = s.g.trig := rfl
@[simp] theorem State.modSt_g_resumed (s : State) (f : Strand → Strand) : (s.modSt f).g.resumed = s.g.resumed := rfl
@[simp] theorem State.modSt_g_frozen (s : State) (f : Strand → Strand) : (s.modSt f).g.frozen = s.g.frozen := rfl
@[simp] theorem State.modSt_g_dhalt (s : State) (f : Strand → Strand) : (s.modSt f).g.dhalt = s.g.dhalt := rfl
@[simp] theorem State.modSt_g_hitBreak (s : State) (f : Strand → Strand) : (s.modSt f).g.hitBreak = s.g.hitBreak := rfl
@[simp] theorem State.modSt_g_disc (s : State) (f : Strand → Strand) : (s.modSt f).g.disc = s.g.disc := rfl
@[simp] theorem State.modSt_g_tvec (s : State) (f : Strand → Strand) : (s.modSt f).g.tvec = s.g.tvec := rfl
@[simp] theorem State.modSt_g_log2 (s : State) (f : Strand → Strand) : (s.modSt f).g.log2 = s.g.log2 := rfl
@[simp] theorem State.modSt_g_discard (s : State) (f : Strand → Strand) : (s.modSt f).g.discard = s.g.discard := rfl
@[simp] theorem State.modSt_g_skips (s : State) (f : Strand → Strand) : (s.modSt f).g.skips = s.g.skips := rfl
@[simp] theorem State.modSt_g_swaps (s : State) (f : Strand → Strand) : (s.modSt f).g.swaps = s.g.swaps := rfl
@[simp] theorem State.modSt_g_instant (s : State) (f : Strand → Strand) : (s.modSt f).g.instant = s.g.instant := rfl
@[simp] theorem State.modSt_g_synclim (s : State) (f : Strand → Strand) : (s.modSt f).g.synclim = s.g.synclim := rfl
@[simp] theorem State.modSt_g_portCopies (s : State) (f : Strand → Strand) : (s.modSt f).g.portCopies = s.g.portCopies := rfl
@[simp] theorem State.modSt_g_cpsel (s : State) (f : Strand → Strand) : (s.modSt f).g.cpsel = s.g.cpsel := rfl
@[simp] theorem State.modSt_g_msgtim (s : State) (f : Strand → Strand) : (s.modSt f).g.msgtim = s.g.msgtim := rfl
@[simp] theorem State.modSt_g_dbgbp (s : State) (f : Strand → Strand) : (s.modSt f).g.dbgbp = s.g.dbgbp := rfl
@[simp] theorem State.modSt_g_csrWrites (s : State) (f : Strand → Strand) : (s.modSt f).g.csrWrites = s.g.csrWrites := rfl
@[simp] theorem State.modSt_g_spad (s : State) (f : Strand → Strand) : (s.modSt f).g.spad = s.g.spad := rfl
@[simp] theorem State.modSt_g_spTags (s : State) (f : Strand → Strand) : (s.modSt f).g.spTags = s.g.spTags := rfl
@[simp] theorem State.modSt_g_spEmpty (s : State) (f : Strand → Strand) : (s.modSt f).g.spEmpty = s.g.spEmpty := rfl
@[simp] theorem State.modSt_g_marks (s : State) (f : Strand → Strand) : (s.modSt f).g.marks = s.g.marks := rfl
@[simp] theorem State.modSt_g_wordClocks (s : State) (f : Strand → Strand) : (s.modSt f).g.wordClocks = s.g.wordClocks := rfl
@[simp] theorem State.modSt_g_badWords (s : State) (f : Strand → Strand) : (s.modSt f).g.badWords = s.g.badWords := rfl
@[simp] theorem State.modSt_g_barPend (s : State) (f : Strand → Strand) : (s.modSt f).g.barPend = s.g.barPend := rfl
@[simp] theorem State.modSt_g_barClocks (s : State) (f : Strand → Strand) : (s.modSt f).g.barClocks = s.g.barClocks := rfl
@[simp] theorem State.modSt_g_deque (s : State) (f : Strand → Strand) : (s.modSt f).g.deque = s.g.deque := rfl
@[simp] theorem State.modSt_g_store (s : State) (f : Strand → Strand) : (s.modSt f).g.store = s.g.store := rfl
@[simp] theorem State.modSt_g_routes (s : State) (f : Strand → Strand) : (s.modSt f).g.routes = s.g.routes := rfl
@[simp] theorem State.modSt_g_links (s : State) (f : Strand → Strand) : (s.modSt f).g.links = s.g.links := rfl
@[simp] theorem State.modSt_g_inbox (s : State) (f : Strand → Strand) : (s.modSt f).g.inbox = s.g.inbox := rfl
@[simp] theorem State.modSt_g_left (s : State) (f : Strand → Strand) : (s.modSt f).g.left = s.g.left := rfl
@[simp] theorem State.modSt_g_clockNote (s : State) (f : Strand → Strand) : (s.modSt f).g.clockNote = s.g.clockNote := rfl
@[simp] theorem State.modSt_g_arrivals (s : State) (f : Strand → Strand) : (s.modSt f).g.arrivals = s.g.arrivals := rfl
@[simp] theorem State.modSt_g_absent (s : State) (f : Strand → Strand) : (s.modSt f).g.absent = s.g.absent := rfl
@[simp] theorem State.modSt_g_inboxQ (s : State) (f : Strand → Strand) : (s.modSt f).g.inboxQ = s.g.inboxQ := rfl
@[simp] theorem State.modSt_g_refusals (s : State) (f : Strand → Strand) : (s.modSt f).g.refusals = s.g.refusals := rfl
@[simp] theorem State.modSt_g_streams (s : State) (f : Strand → Strand) : (s.modSt f).g.streams = s.g.streams := rfl
@[simp] theorem State.modSt_g_ops (s : State) (f : Strand → Strand) : (s.modSt f).g.ops = s.g.ops := rfl
@[simp] theorem State.modSt_g_em (s : State) (f : Strand → Strand) : (s.modSt f).g.em = s.g.em := rfl
@[simp] theorem State.modSt_g_emits (s : State) (f : Strand → Strand) : (s.modSt f).g.emits = s.g.emits := rfl
@[simp] theorem State.modSt_g_present (s : State) (f : Strand → Strand) : (s.modSt f).g.present = s.g.present := rfl
@[simp] theorem State.modSt_g_absentS (s : State) (f : Strand → Strand) : (s.modSt f).g.absentS = s.g.absentS := rfl
@[simp] theorem State.modSt_g_relSeen (s : State) (f : Strand → Strand) : (s.modSt f).g.relSeen = s.g.relSeen := rfl
@[simp] theorem State.modSt_g_prevEm (s : State) (f : Strand → Strand) : (s.modSt f).g.prevEm = s.g.prevEm := rfl
@[simp] theorem State.modSt_g_prevSlot (s : State) (f : Strand → Strand) : (s.modSt f).g.prevSlot = s.g.prevSlot := rfl
@[simp] theorem State.modSt_g_lastIssue (s : State) (f : Strand → Strand) : (s.modSt f).g.lastIssue = s.g.lastIssue := rfl
@[simp] theorem State.modSt_g_goneBars (s : State) (f : Strand → Strand) : (s.modSt f).g.goneBars = s.g.goneBars := rfl
@[simp] theorem State.modSt_g_turnEnds (s : State) (f : Strand → Strand) : (s.modSt f).g.turnEnds = s.g.turnEnds := rfl
@[simp] theorem State.modSt_g_stop (s : State) (f : Strand → Strand) : (s.modSt f).g.stop = s.g.stop := rfl
@[simp] theorem State.modSt_g_outWhy (s : State) (f : Strand → Strand) : (s.modSt f).g.outWhy = s.g.outWhy := rfl
@[simp] theorem State.modSt_g_begun (s : State) (f : Strand → Strand) : (s.modSt f).g.begun = s.g.begun := rfl
@[simp] theorem State.modSt_g_stealAt (s : State) (f : Strand → Strand) : (s.modSt f).g.stealAt = s.g.stealAt := rfl
@[simp] theorem State.modSt_g_stealing (s : State) (f : Strand → Strand) : (s.modSt f).g.stealing = s.g.stealing := rfl
@[simp] theorem State.modSt_g_inherit (s : State) (f : Strand → Strand) : (s.modSt f).g.inherit = s.g.inherit := rfl
@[simp] theorem State.modSt_g_handTile (s : State) (f : Strand → Strand) : (s.modSt f).g.handTile = s.g.handTile := rfl

/-- The strand that issues, after a change of it. -/
@[simp] theorem State.st_modSt (s : State) (f : Strand → Strand) : (s.modSt f).st = f s.st := by
  simp [State.st, State.modSt, Group.modSt, Group.setSt]
/-- Two changes of the issuing strand are one. -/
@[simp] theorem State.modSt_modSt (s : State) (f g : Strand → Strand) : (s.modSt f).modSt g = s.modSt (fun t => g (f t)) := by
  simp [State.modSt, Group.modSt, Group.setSt]
/-- Another strand of the group stays as it is. -/
theorem State.modSt_other (s : State) (f : Strand → Strand) (k : Fin 8) (hk : k ≠ s.slot) :
    (s.modSt f).g.st[k] = s.g.st[k] := by
  have h : s.slot.val ≠ k.val := fun e => hk (Fin.ext e.symm)
  simp [State.modSt, Group.modSt, Group.setSt, h]
/-- A change of the group that keeps its strands keeps the issuing strand. -/
theorem State.st_modG (s : State) (f : Group → Group) (h : (f s.g).st = s.g.st) : (s.modG f).st = s.st := by
  simp [State.st, h]

/-! ### The strand under the moves of the issue -/

@[simp] theorem Strand.movePc_run (t : Strand) (d : Int) : (t.movePc d).run = t.run := rfl
@[simp] theorem Strand.movePc_prog (t : Strand) (d : Int) : (t.movePc d).prog = t.prog := rfl
@[simp] theorem Strand.movePc_consumed (t : Strand) (d : Int) : (t.movePc d).consumed = t.consumed := rfl
@[simp] theorem Strand.movePc_again (t : Strand) (d : Int) : (t.movePc d).again = t.again := rfl
@[simp] theorem Strand.movePc_spared (t : Strand) (d : Int) : (t.movePc d).spared = t.spared := rfl
@[simp] theorem Strand.movePc_took (t : Strand) (d : Int) : (t.movePc d).took = t.took := rfl
@[simp] theorem Strand.movePc_kept (t : Strand) (d : Int) : (t.movePc d).kept = t.kept := rfl
@[simp] theorem Strand.movePc_walkWant (t : Strand) (d : Int) : (t.movePc d).walkWant = t.walkWant := rfl
@[simp] theorem Strand.movePc_walkFault (t : Strand) (d : Int) : (t.movePc d).walkFault = t.walkFault := rfl
@[simp] theorem Strand.movePc_c (t : Strand) (d : Int) : (t.movePc d).c = t.c := rfl
@[simp] theorem Strand.movePc_sp (t : Strand) (d : Int) : (t.movePc d).sp = t.sp := rfl
@[simp] theorem Strand.movePc_ra (t : Strand) (d : Int) : (t.movePc d).ra = t.ra := rfl
@[simp] theorem Strand.movePc_p (t : Strand) (d : Int) : (t.movePc d).p = t.p := rfl
@[simp] theorem Strand.movePc_rcap (t : Strand) (d : Int) : (t.movePc d).rcap = t.rcap := rfl
@[simp] theorem Strand.movePc_kernel (t : Strand) (d : Int) : (t.movePc d).kernel = t.kernel := rfl
@[simp] theorem Strand.movePc_pl (t : Strand) (d : Int) : (t.movePc d).pl = t.pl := rfl
@[simp] theorem Strand.movePc_depth (t : Strand) (d : Int) : (t.movePc d).depth = t.depth := rfl
@[simp] theorem Strand.movePc_save (t : Strand) (d : Int) : (t.movePc d).save = t.save := rfl
@[simp] theorem Strand.movePc_fcsr (t : Strand) (d : Int) : (t.movePc d).fcsr = t.fcsr := rfl
@[simp] theorem Strand.movePc_tmask (t : Strand) (d : Int) : (t.movePc d).tmask = t.tmask := rfl
@[simp] theorem Strand.movePc_ae (t : Strand) (d : Int) : (t.movePc d).ae = t.ae := rfl
@[simp] theorem Strand.movePc_canemit (t : Strand) (d : Int) : (t.movePc d).canemit = t.canemit := rfl
@[simp] theorem Strand.movePc_canrld (t : Strand) (d : Int) : (t.movePc d).canrld = t.canrld := rfl
@[simp] theorem Strand.movePc_awaitSig (t : Strand) (d : Int) : (t.movePc d).awaitSig = t.awaitSig := rfl
@[simp] theorem Strand.movePc_wdepth (t : Strand) (d : Int) : (t.movePc d).wdepth = t.wdepth := rfl
@[simp] theorem Strand.movePc_watch (t : Strand) (d : Int) : (t.movePc d).watch = t.watch := rfl
@[simp] theorem Strand.movePc_trappc (t : Strand) (d : Int) : (t.movePc d).trappc = t.trappc := rfl
@[simp] theorem Strand.movePc_trapinfo (t : Strand) (d : Int) : (t.movePc d).trapinfo = t.trapinfo := rfl
@[simp] theorem Strand.movePc_trapval (t : Strand) (d : Int) : (t.movePc d).trapval = t.trapval := rfl
@[simp] theorem Strand.movePc_path (t : Strand) (d : Int) : (t.movePc d).path = t.path := rfl
@[simp] theorem Strand.movePc_mbox (t : Strand) (d : Int) : (t.movePc d).mbox = t.mbox := rfl
@[simp] theorem Strand.movePc_wdlim (t : Strand) (d : Int) : (t.movePc d).wdlim = t.wdlim := rfl
@[simp] theorem Strand.movePc_wdcount (t : Strand) (d : Int) : (t.movePc d).wdcount = t.wdcount := rfl
@[simp] theorem Strand.movePc_wdFrom (t : Strand) (d : Int) : (t.movePc d).wdFrom = t.wdFrom := rfl
@[simp] theorem Strand.movePc_whNext (t : Strand) (d : Int) : (t.movePc d).whNext = t.whNext := rfl
@[simp] theorem Strand.movePc_excused (t : Strand) (d : Int) : (t.movePc d).excused = t.excused := rfl
@[simp] theorem Strand.movePc_rejoin (t : Strand) (d : Int) : (t.movePc d).rejoin = t.rejoin := rfl
@[simp] theorem Strand.movePc_lease (t : Strand) (d : Int) : (t.movePc d).lease = t.lease := rfl
@[simp] theorem Strand.movePc_gen0 (t : Strand) (d : Int) : (t.movePc d).gen0 = t.gen0 := rfl
@[simp] theorem Strand.movePc_gen1 (t : Strand) (d : Int) : (t.movePc d).gen1 = t.gen1 := rfl
@[simp] theorem Strand.movePc_nchild (t : Strand) (d : Int) : (t.movePc d).nchild = t.nchild := rfl
@[simp] theorem Strand.movePc_outc (t : Strand) (d : Int) : (t.movePc d).outc = t.outc := rfl
@[simp] theorem Strand.movePc_task (t : Strand) (d : Int) : (t.movePc d).task = t.task := rfl
@[simp] theorem Strand.movePc_parent (t : Strand) (d : Int) : (t.movePc d).parent = t.parent := rfl
@[simp] theorem Strand.movePc_parentTag (t : Strand) (d : Int) : (t.movePc d).parentTag = t.parentTag := rfl
@[simp] theorem Strand.movePc_serial (t : Strand) (d : Int) : (t.movePc d).serial = t.serial := rfl
@[simp] theorem Strand.movePc_msgSeq (t : Strand) (d : Int) : (t.movePc d).msgSeq = t.msgSeq := rfl
@[simp] theorem Strand.movePc_outstanding (t : Strand) (d : Int) : (t.movePc d).outstanding = t.outstanding := rfl
@[simp] theorem Strand.movePc_lastMsg (t : Strand) (d : Int) : (t.movePc d).lastMsg = t.lastMsg := rfl
@[simp] theorem Strand.movePc_ackLost (t : Strand) (d : Int) : (t.movePc d).ackLost = t.ackLost := rfl
@[simp] theorem Strand.movePc_clock (t : Strand) (d : Int) : (t.movePc d).clock = t.clock := rfl
@[simp] theorem Strand.movePc_kidClock (t : Strand) (d : Int) : (t.movePc d).kidClock = t.kidClock := rfl
@[simp] theorem Strand.movePc_bars (t : Strand) (d : Int) : (t.movePc d).bars = t.bars := rfl
@[simp] theorem Strand.movePc_ofences (t : Strand) (d : Int) : (t.movePc d).ofences = t.ofences := rfl
@[simp] theorem Strand.movePc_nextIssue (t : Strand) (d : Int) : (t.movePc d).nextIssue = t.nextIssue := rfl
@[simp] theorem Strand.movePc_ringFrom (t : Strand) (d : Int) : (t.movePc d).ringFrom = t.ringFrom := rfl
@[simp] theorem Strand.movePc_stopped (t : Strand) (d : Int) : (t.movePc d).stopped = t.stopped := rfl
@[simp] theorem Strand.movePc_held (t : Strand) (d : Int) : (t.movePc d).held = t.held := rfl
@[simp] theorem Strand.movePc_passBreak (t : Strand) (d : Int) : (t.movePc d).passBreak = t.passBreak := rfl
@[simp] theorem Strand.movePc_brk (t : Strand) (d : Int) : (t.movePc d).brk = t.brk := rfl
@[simp] theorem Strand.movePc_joinDead (t : Strand) (d : Int) : (t.movePc d).joinDead = t.joinDead := rfl
@[simp] theorem Strand.movePc_poolFault (t : Strand) (d : Int) : (t.movePc d).poolFault = t.poolFault := rfl
@[simp] theorem Strand.movePc_cycleDue (t : Strand) (d : Int) : (t.movePc d).cycleDue = t.cycleDue := rfl
@[simp] theorem Strand.step12_walkWant (t : Strand) : (t.step12).walkWant = t.walkWant := rfl
@[simp] theorem Strand.step12_c (t : Strand) : (t.step12).c = t.c := rfl
@[simp] theorem Strand.step12_sp (t : Strand) : (t.step12).sp = t.sp := rfl
@[simp] theorem Strand.step12_ra (t : Strand) : (t.step12).ra = t.ra := rfl
@[simp] theorem Strand.step12_p (t : Strand) : (t.step12).p = t.p := rfl
@[simp] theorem Strand.step12_rcap (t : Strand) : (t.step12).rcap = t.rcap := rfl
@[simp] theorem Strand.step12_kernel (t : Strand) : (t.step12).kernel = t.kernel := rfl
@[simp] theorem Strand.step12_pl (t : Strand) : (t.step12).pl = t.pl := rfl
@[simp] theorem Strand.step12_depth (t : Strand) : (t.step12).depth = t.depth := rfl
@[simp] theorem Strand.step12_save (t : Strand) : (t.step12).save = t.save := rfl
@[simp] theorem Strand.step12_fcsr (t : Strand) : (t.step12).fcsr = t.fcsr := rfl
@[simp] theorem Strand.step12_tmask (t : Strand) : (t.step12).tmask = t.tmask := rfl
@[simp] theorem Strand.step12_ae (t : Strand) : (t.step12).ae = t.ae := rfl
@[simp] theorem Strand.step12_canemit (t : Strand) : (t.step12).canemit = t.canemit := rfl
@[simp] theorem Strand.step12_canrld (t : Strand) : (t.step12).canrld = t.canrld := rfl
@[simp] theorem Strand.step12_awaitSig (t : Strand) : (t.step12).awaitSig = t.awaitSig := rfl
@[simp] theorem Strand.step12_wdepth (t : Strand) : (t.step12).wdepth = t.wdepth := rfl
@[simp] theorem Strand.step12_watch (t : Strand) : (t.step12).watch = t.watch := rfl
@[simp] theorem Strand.step12_trappc (t : Strand) : (t.step12).trappc = t.trappc := rfl
@[simp] theorem Strand.step12_trapinfo (t : Strand) : (t.step12).trapinfo = t.trapinfo := rfl
@[simp] theorem Strand.step12_trapval (t : Strand) : (t.step12).trapval = t.trapval := rfl
@[simp] theorem Strand.step12_path (t : Strand) : (t.step12).path = t.path := rfl
@[simp] theorem Strand.step12_mbox (t : Strand) : (t.step12).mbox = t.mbox := rfl
@[simp] theorem Strand.step12_wdlim (t : Strand) : (t.step12).wdlim = t.wdlim := rfl
@[simp] theorem Strand.step12_wdcount (t : Strand) : (t.step12).wdcount = t.wdcount := rfl
@[simp] theorem Strand.step12_wdFrom (t : Strand) : (t.step12).wdFrom = t.wdFrom := rfl
@[simp] theorem Strand.step12_excused (t : Strand) : (t.step12).excused = t.excused := rfl
@[simp] theorem Strand.step12_rejoin (t : Strand) : (t.step12).rejoin = t.rejoin := rfl
@[simp] theorem Strand.step12_lease (t : Strand) : (t.step12).lease = t.lease := rfl
@[simp] theorem Strand.step12_gen0 (t : Strand) : (t.step12).gen0 = t.gen0 := rfl
@[simp] theorem Strand.step12_gen1 (t : Strand) : (t.step12).gen1 = t.gen1 := rfl
@[simp] theorem Strand.step12_nchild (t : Strand) : (t.step12).nchild = t.nchild := rfl
@[simp] theorem Strand.step12_outc (t : Strand) : (t.step12).outc = t.outc := rfl
@[simp] theorem Strand.step12_task (t : Strand) : (t.step12).task = t.task := rfl
@[simp] theorem Strand.step12_parent (t : Strand) : (t.step12).parent = t.parent := rfl
@[simp] theorem Strand.step12_parentTag (t : Strand) : (t.step12).parentTag = t.parentTag := rfl
@[simp] theorem Strand.step12_serial (t : Strand) : (t.step12).serial = t.serial := rfl
@[simp] theorem Strand.step12_msgSeq (t : Strand) : (t.step12).msgSeq = t.msgSeq := rfl
@[simp] theorem Strand.step12_outstanding (t : Strand) : (t.step12).outstanding = t.outstanding := rfl
@[simp] theorem Strand.step12_lastMsg (t : Strand) : (t.step12).lastMsg = t.lastMsg := rfl
@[simp] theorem Strand.step12_ackLost (t : Strand) : (t.step12).ackLost = t.ackLost := rfl
@[simp] theorem Strand.step12_clock (t : Strand) : (t.step12).clock = t.clock := rfl
@[simp] theorem Strand.step12_kidClock (t : Strand) : (t.step12).kidClock = t.kidClock := rfl
@[simp] theorem Strand.step12_bars (t : Strand) : (t.step12).bars = t.bars := rfl
@[simp] theorem Strand.step12_ofences (t : Strand) : (t.step12).ofences = t.ofences := rfl
@[simp] theorem Strand.step12_nextIssue (t : Strand) : (t.step12).nextIssue = t.nextIssue := rfl
@[simp] theorem Strand.step12_ringFrom (t : Strand) : (t.step12).ringFrom = t.ringFrom := rfl
@[simp] theorem Strand.step12_stopped (t : Strand) : (t.step12).stopped = t.stopped := rfl
@[simp] theorem Strand.step12_held (t : Strand) : (t.step12).held = t.held := rfl
@[simp] theorem Strand.step12_passBreak (t : Strand) : (t.step12).passBreak = t.passBreak := rfl
@[simp] theorem Strand.step12_brk (t : Strand) : (t.step12).brk = t.brk := rfl
@[simp] theorem Strand.step12_joinDead (t : Strand) : (t.step12).joinDead = t.joinDead := rfl
@[simp] theorem Strand.step12_poolFault (t : Strand) : (t.step12).poolFault = t.poolFault := rfl
@[simp] theorem Strand.step12_cycleDue (t : Strand) : (t.step12).cycleDue = t.cycleDue := rfl
@[simp] theorem Strand.stepGo_walkWant (t : Strand) : (t.stepGo).walkWant = t.walkWant := rfl
@[simp] theorem Strand.stepGo_c (t : Strand) : (t.stepGo).c = t.c := rfl
@[simp] theorem Strand.stepGo_sp (t : Strand) : (t.stepGo).sp = t.sp := rfl
@[simp] theorem Strand.stepGo_ra (t : Strand) : (t.stepGo).ra = t.ra := rfl
@[simp] theorem Strand.stepGo_p (t : Strand) : (t.stepGo).p = t.p := rfl
@[simp] theorem Strand.stepGo_fcap (t : Strand) : (t.stepGo).fcap = t.fcap := rfl
@[simp] theorem Strand.stepGo_rcap (t : Strand) : (t.stepGo).rcap = t.rcap := rfl
@[simp] theorem Strand.stepGo_kernel (t : Strand) : (t.stepGo).kernel = t.kernel := rfl
@[simp] theorem Strand.stepGo_pl (t : Strand) : (t.stepGo).pl = t.pl := rfl
@[simp] theorem Strand.stepGo_depth (t : Strand) : (t.stepGo).depth = t.depth := rfl
@[simp] theorem Strand.stepGo_save (t : Strand) : (t.stepGo).save = t.save := rfl
@[simp] theorem Strand.stepGo_fcsr (t : Strand) : (t.stepGo).fcsr = t.fcsr := rfl
@[simp] theorem Strand.stepGo_tmask (t : Strand) : (t.stepGo).tmask = t.tmask := rfl
@[simp] theorem Strand.stepGo_ae (t : Strand) : (t.stepGo).ae = t.ae := rfl
@[simp] theorem Strand.stepGo_canemit (t : Strand) : (t.stepGo).canemit = t.canemit := rfl
@[simp] theorem Strand.stepGo_canrld (t : Strand) : (t.stepGo).canrld = t.canrld := rfl
@[simp] theorem Strand.stepGo_awaitSig (t : Strand) : (t.stepGo).awaitSig = t.awaitSig := rfl
@[simp] theorem Strand.stepGo_wdepth (t : Strand) : (t.stepGo).wdepth = t.wdepth := rfl
@[simp] theorem Strand.stepGo_watch (t : Strand) : (t.stepGo).watch = t.watch := rfl
@[simp] theorem Strand.stepGo_trappc (t : Strand) : (t.stepGo).trappc = t.trappc := rfl
@[simp] theorem Strand.stepGo_trapinfo (t : Strand) : (t.stepGo).trapinfo = t.trapinfo := rfl
@[simp] theorem Strand.stepGo_trapval (t : Strand) : (t.stepGo).trapval = t.trapval := rfl
@[simp] theorem Strand.stepGo_path (t : Strand) : (t.stepGo).path = t.path := rfl
@[simp] theorem Strand.stepGo_mbox (t : Strand) : (t.stepGo).mbox = t.mbox := rfl
@[simp] theorem Strand.stepGo_wdlim (t : Strand) : (t.stepGo).wdlim = t.wdlim := rfl
@[simp] theorem Strand.stepGo_wdcount (t : Strand) : (t.stepGo).wdcount = t.wdcount := rfl
@[simp] theorem Strand.stepGo_wdFrom (t : Strand) : (t.stepGo).wdFrom = t.wdFrom := rfl
@[simp] theorem Strand.stepGo_excused (t : Strand) : (t.stepGo).excused = t.excused := rfl
@[simp] theorem Strand.stepGo_rejoin (t : Strand) : (t.stepGo).rejoin = t.rejoin := rfl
@[simp] theorem Strand.stepGo_lease (t : Strand) : (t.stepGo).lease = t.lease := rfl
@[simp] theorem Strand.stepGo_gen0 (t : Strand) : (t.stepGo).gen0 = t.gen0 := rfl
@[simp] theorem Strand.stepGo_gen1 (t : Strand) : (t.stepGo).gen1 = t.gen1 := rfl
@[simp] theorem Strand.stepGo_nchild (t : Strand) : (t.stepGo).nchild = t.nchild := rfl
@[simp] theorem Strand.stepGo_outc (t : Strand) : (t.stepGo).outc = t.outc := rfl
@[simp] theorem Strand.stepGo_task (t : Strand) : (t.stepGo).task = t.task := rfl
@[simp] theorem Strand.stepGo_parent (t : Strand) : (t.stepGo).parent = t.parent := rfl
@[simp] theorem Strand.stepGo_parentTag (t : Strand) : (t.stepGo).parentTag = t.parentTag := rfl
@[simp] theorem Strand.stepGo_serial (t : Strand) : (t.stepGo).serial = t.serial := rfl
@[simp] theorem Strand.stepGo_msgSeq (t : Strand) : (t.stepGo).msgSeq = t.msgSeq := rfl
@[simp] theorem Strand.stepGo_outstanding (t : Strand) : (t.stepGo).outstanding = t.outstanding := rfl
@[simp] theorem Strand.stepGo_lastMsg (t : Strand) : (t.stepGo).lastMsg = t.lastMsg := rfl
@[simp] theorem Strand.stepGo_ackLost (t : Strand) : (t.stepGo).ackLost = t.ackLost := rfl
@[simp] theorem Strand.stepGo_clock (t : Strand) : (t.stepGo).clock = t.clock := rfl
@[simp] theorem Strand.stepGo_kidClock (t : Strand) : (t.stepGo).kidClock = t.kidClock := rfl
@[simp] theorem Strand.stepGo_bars (t : Strand) : (t.stepGo).bars = t.bars := rfl
@[simp] theorem Strand.stepGo_ofences (t : Strand) : (t.stepGo).ofences = t.ofences := rfl
@[simp] theorem Strand.stepGo_nextIssue (t : Strand) : (t.stepGo).nextIssue = t.nextIssue := rfl
@[simp] theorem Strand.stepGo_ringFrom (t : Strand) : (t.stepGo).ringFrom = t.ringFrom := rfl
@[simp] theorem Strand.stepGo_stopped (t : Strand) : (t.stepGo).stopped = t.stopped := rfl
@[simp] theorem Strand.stepGo_held (t : Strand) : (t.stepGo).held = t.held := rfl
@[simp] theorem Strand.stepGo_passBreak (t : Strand) : (t.stepGo).passBreak = t.passBreak := rfl
@[simp] theorem Strand.stepGo_brk (t : Strand) : (t.stepGo).brk = t.brk := rfl
@[simp] theorem Strand.stepGo_joinDead (t : Strand) : (t.stepGo).joinDead = t.joinDead := rfl
@[simp] theorem Strand.stepGo_poolFault (t : Strand) : (t.stepGo).poolFault = t.poolFault := rfl
@[simp] theorem Strand.stepGo_cycleDue (t : Strand) : (t.stepGo).cycleDue = t.cycleDue := rfl
@[simp] theorem Strand.park_prog (t : Strand) (w : Why) (now cyc : Nat) : (t.park w now cyc).prog = t.prog := rfl
@[simp] theorem Strand.park_consumed (t : Strand) (w : Why) (now cyc : Nat) : (t.park w now cyc).consumed = t.consumed := rfl
@[simp] theorem Strand.park_walkWant (t : Strand) (w : Why) (now cyc : Nat) : (t.park w now cyc).walkWant = t.walkWant := rfl
@[simp] theorem Strand.park_walkFault (t : Strand) (w : Why) (now cyc : Nat) : (t.park w now cyc).walkFault = t.walkFault := rfl
@[simp] theorem Strand.park_c (t : Strand) (w : Why) (now cyc : Nat) : (t.park w now cyc).c = t.c := rfl
@[simp] theorem Strand.park_sp (t : Strand) (w : Why) (now cyc : Nat) : (t.park w now cyc).sp = t.sp := rfl
@[simp] theorem Strand.park_ra (t : Strand) (w : Why) (now cyc : Nat) : (t.park w now cyc).ra = t.ra := rfl
@[simp] theorem Strand.park_p (t : Strand) (w : Why) (now cyc : Nat) : (t.park w now cyc).p = t.p := rfl
@[simp] theorem Strand.park_fcap (t : Strand) (w : Why) (now cyc : Nat) : (t.park w now cyc).fcap = t.fcap := rfl
@[simp] theorem Strand.park_rcap (t : Strand) (w : Why) (now cyc : Nat) : (t.park w now cyc).rcap = t.rcap := rfl
@[simp] theorem Strand.park_kernel (t : Strand) (w : Why) (now cyc : Nat) : (t.park w now cyc).kernel = t.kernel := rfl
@[simp] theorem Strand.park_pl (t : Strand) (w : Why) (now cyc : Nat) : (t.park w now cyc).pl = t.pl := rfl
@[simp] theorem Strand.park_depth (t : Strand) (w : Why) (now cyc : Nat) : (t.park w now cyc).depth = t.depth := rfl
@[simp] theorem Strand.park_save (t : Strand) (w : Why) (now cyc : Nat) : (t.park w now cyc).save = t.save := rfl
@[simp] theorem Strand.park_fcsr (t : Strand) (w : Why) (now cyc : Nat) : (t.park w now cyc).fcsr = t.fcsr := rfl
@[simp] theorem Strand.park_tmask (t : Strand) (w : Why) (now cyc : Nat) : (t.park w now cyc).tmask = t.tmask := rfl
@[simp] theorem Strand.park_ae (t : Strand) (w : Why) (now cyc : Nat) : (t.park w now cyc).ae = t.ae := rfl
@[simp] theorem Strand.park_canemit (t : Strand) (w : Why) (now cyc : Nat) : (t.park w now cyc).canemit = t.canemit := rfl
@[simp] theorem Strand.park_canrld (t : Strand) (w : Why) (now cyc : Nat) : (t.park w now cyc).canrld = t.canrld := rfl
@[simp] theorem Strand.park_awaitSig (t : Strand) (w : Why) (now cyc : Nat) : (t.park w now cyc).awaitSig = t.awaitSig := rfl
@[simp] theorem Strand.park_wdepth (t : Strand) (w : Why) (now cyc : Nat) : (t.park w now cyc).wdepth = t.wdepth := rfl
@[simp] theorem Strand.park_watch (t : Strand) (w : Why) (now cyc : Nat) : (t.park w now cyc).watch = t.watch := rfl
@[simp] theorem Strand.park_trappc (t : Strand) (w : Why) (now cyc : Nat) : (t.park w now cyc).trappc = t.trappc := rfl
@[simp] theorem Strand.park_trapinfo (t : Strand) (w : Why) (now cyc : Nat) : (t.park w now cyc).trapinfo = t.trapinfo := rfl
@[simp] theorem Strand.park_trapval (t : Strand) (w : Why) (now cyc : Nat) : (t.park w now cyc).trapval = t.trapval := rfl
@[simp] theorem Strand.park_path (t : Strand) (w : Why) (now cyc : Nat) : (t.park w now cyc).path = t.path := rfl
@[simp] theorem Strand.park_mbox (t : Strand) (w : Why) (now cyc : Nat) : (t.park w now cyc).mbox = t.mbox := rfl
@[simp] theorem Strand.park_wdlim (t : Strand) (w : Why) (now cyc : Nat) : (t.park w now cyc).wdlim = t.wdlim := rfl
@[simp] theorem Strand.park_whNext (t : Strand) (w : Why) (now cyc : Nat) : (t.park w now cyc).whNext = t.whNext := rfl
@[simp] theorem Strand.park_excused (t : Strand) (w : Why) (now cyc : Nat) : (t.park w now cyc).excused = t.excused := rfl
@[simp] theorem Strand.park_rejoin (t : Strand) (w : Why) (now cyc : Nat) : (t.park w now cyc).rejoin = t.rejoin := rfl
@[simp] theorem Strand.park_lease (t : Strand) (w : Why) (now cyc : Nat) : (t.park w now cyc).lease = t.lease := rfl
@[simp] theorem Strand.park_gen0 (t : Strand) (w : Why) (now cyc : Nat) : (t.park w now cyc).gen0 = t.gen0 := rfl
@[simp] theorem Strand.park_gen1 (t : Strand) (w : Why) (now cyc : Nat) : (t.park w now cyc).gen1 = t.gen1 := rfl
@[simp] theorem Strand.park_nchild (t : Strand) (w : Why) (now cyc : Nat) : (t.park w now cyc).nchild = t.nchild := rfl
@[simp] theorem Strand.park_outc (t : Strand) (w : Why) (now cyc : Nat) : (t.park w now cyc).outc = t.outc := rfl
@[simp] theorem Strand.park_task (t : Strand) (w : Why) (now cyc : Nat) : (t.park w now cyc).task = t.task := rfl
@[simp] theorem Strand.park_parent (t : Strand) (w : Why) (now cyc : Nat) : (t.park w now cyc).parent = t.parent := rfl
@[simp] theorem Strand.park_parentTag (t : Strand) (w : Why) (now cyc : Nat) : (t.park w now cyc).parentTag = t.parentTag := rfl
@[simp] theorem Strand.park_serial (t : Strand) (w : Why) (now cyc : Nat) : (t.park w now cyc).serial = t.serial := rfl
@[simp] theorem Strand.park_msgSeq (t : Strand) (w : Why) (now cyc : Nat) : (t.park w now cyc).msgSeq = t.msgSeq := rfl
@[simp] theorem Strand.park_outstanding (t : Strand) (w : Why) (now cyc : Nat) : (t.park w now cyc).outstanding = t.outstanding := rfl
@[simp] theorem Strand.park_lastMsg (t : Strand) (w : Why) (now cyc : Nat) : (t.park w now cyc).lastMsg = t.lastMsg := rfl
@[simp] theorem Strand.park_ackLost (t : Strand) (w : Why) (now cyc : Nat) : (t.park w now cyc).ackLost = t.ackLost := rfl
@[simp] theorem Strand.park_clock (t : Strand) (w : Why) (now cyc : Nat) : (t.park w now cyc).clock = t.clock := rfl
@[simp] theorem Strand.park_kidClock (t : Strand) (w : Why) (now cyc : Nat) : (t.park w now cyc).kidClock = t.kidClock := rfl
@[simp] theorem Strand.park_bars (t : Strand) (w : Why) (now cyc : Nat) : (t.park w now cyc).bars = t.bars := rfl
@[simp] theorem Strand.park_ofences (t : Strand) (w : Why) (now cyc : Nat) : (t.park w now cyc).ofences = t.ofences := rfl
@[simp] theorem Strand.park_nextIssue (t : Strand) (w : Why) (now cyc : Nat) : (t.park w now cyc).nextIssue = t.nextIssue := rfl
@[simp] theorem Strand.park_ringFrom (t : Strand) (w : Why) (now cyc : Nat) : (t.park w now cyc).ringFrom = t.ringFrom := rfl
@[simp] theorem Strand.park_stopped (t : Strand) (w : Why) (now cyc : Nat) : (t.park w now cyc).stopped = t.stopped := rfl
@[simp] theorem Strand.park_held (t : Strand) (w : Why) (now cyc : Nat) : (t.park w now cyc).held = t.held := rfl
@[simp] theorem Strand.park_passBreak (t : Strand) (w : Why) (now cyc : Nat) : (t.park w now cyc).passBreak = t.passBreak := rfl
@[simp] theorem Strand.park_brk (t : Strand) (w : Why) (now cyc : Nat) : (t.park w now cyc).brk = t.brk := rfl
@[simp] theorem Strand.park_joinDead (t : Strand) (w : Why) (now cyc : Nat) : (t.park w now cyc).joinDead = t.joinDead := rfl
@[simp] theorem Strand.park_poolFault (t : Strand) (w : Why) (now cyc : Nat) : (t.park w now cyc).poolFault = t.poolFault := rfl
@[simp] theorem Strand.park_cycleDue (t : Strand) (w : Why) (now cyc : Nat) : (t.park w now cyc).cycleDue = t.cycleDue := rfl
@[simp] theorem Strand.step12_prog (t : Strand) : (t.step12).prog = .none := rfl
@[simp] theorem Strand.stepGo_prog (t : Strand) : (t.stepGo).prog = .none := rfl
@[simp] theorem Strand.step12_consumed (t : Strand) : (t.step12).consumed = false := rfl
@[simp] theorem Strand.stepGo_consumed (t : Strand) : (t.stepGo).consumed = false := rfl
@[simp] theorem Strand.step12_again (t : Strand) : (t.step12).again = none := rfl
@[simp] theorem Strand.step12_spared (t : Strand) : (t.step12).spared = none := rfl
@[simp] theorem Strand.step12_took (t : Strand) : (t.step12).took = [] := rfl
@[simp] theorem Strand.step12_kept (t : Strand) : (t.step12).kept = [] := rfl
@[simp] theorem Strand.stepGo_again (t : Strand) : (t.stepGo).again = none := rfl
@[simp] theorem Strand.stepGo_spared (t : Strand) : (t.stepGo).spared = none := rfl
@[simp] theorem Strand.stepGo_took (t : Strand) : (t.stepGo).took = [] := rfl
@[simp] theorem Strand.stepGo_kept (t : Strand) : (t.stepGo).kept = [] := rfl
@[simp] theorem Strand.step12_run (t : Strand) : (t.step12).run = .ready := rfl
@[simp] theorem Strand.stepGo_run (t : Strand) : (t.stepGo).run = .ready := rfl
@[simp] theorem Strand.step12_whNext (t : Strand) : (t.step12).whNext = false := rfl
@[simp] theorem Strand.stepGo_whNext (t : Strand) : (t.stepGo).whNext = false := rfl
@[simp] theorem Strand.step12_walkFault (t : Strand) : (t.step12).walkFault = none := rfl
@[simp] theorem Strand.stepGo_walkFault (t : Strand) : (t.stepGo).walkFault = none := rfl
@[simp] theorem Strand.park_run (t : Strand) (w : Why) (now cyc : Nat) : (t.park w now cyc).run = .parked w := rfl
@[simp] theorem Strand.park_again (t : Strand) (w : Why) (now cyc : Nat) : (t.park w now cyc).again = some w := rfl
@[simp] theorem Strand.park_spared (t : Strand) (w : Why) (now cyc : Nat) : (t.park w now cyc).spared = t.spared := rfl
@[simp] theorem Strand.park_took (t : Strand) (w : Why) (now cyc : Nat) : (t.park w now cyc).took = t.took := rfl
@[simp] theorem Strand.park_kept (t : Strand) (w : Why) (now cyc : Nat) : (t.park w now cyc).kept = t.kept := rfl
@[simp] theorem Strand.enter_c (t : Strand) (x : Trap) (pcv : Lane) (code : Quad) : (t.enter x pcv code).c = t.c := rfl
@[simp] theorem Strand.enter_sp (t : Strand) (x : Trap) (pcv : Lane) (code : Quad) : (t.enter x pcv code).sp = t.sp := rfl
@[simp] theorem Strand.enter_ra (t : Strand) (x : Trap) (pcv : Lane) (code : Quad) : (t.enter x pcv code).ra = t.ra := rfl
@[simp] theorem Strand.enter_p (t : Strand) (x : Trap) (pcv : Lane) (code : Quad) : (t.enter x pcv code).p = t.p := rfl
@[simp] theorem Strand.enter_fcsr (t : Strand) (x : Trap) (pcv : Lane) (code : Quad) : (t.enter x pcv code).fcsr = t.fcsr := rfl
@[simp] theorem Strand.enter_tmask (t : Strand) (x : Trap) (pcv : Lane) (code : Quad) : (t.enter x pcv code).tmask = t.tmask := rfl
@[simp] theorem Strand.enter_ae (t : Strand) (x : Trap) (pcv : Lane) (code : Quad) : (t.enter x pcv code).ae = t.ae := rfl
@[simp] theorem Strand.enter_canemit (t : Strand) (x : Trap) (pcv : Lane) (code : Quad) : (t.enter x pcv code).canemit = t.canemit := rfl
@[simp] theorem Strand.enter_canrld (t : Strand) (x : Trap) (pcv : Lane) (code : Quad) : (t.enter x pcv code).canrld = t.canrld := rfl
@[simp] theorem Strand.enter_wdepth (t : Strand) (x : Trap) (pcv : Lane) (code : Quad) : (t.enter x pcv code).wdepth = t.wdepth := rfl
@[simp] theorem Strand.enter_watch (t : Strand) (x : Trap) (pcv : Lane) (code : Quad) : (t.enter x pcv code).watch = t.watch := rfl
@[simp] theorem Strand.enter_path (t : Strand) (x : Trap) (pcv : Lane) (code : Quad) : (t.enter x pcv code).path = t.path := rfl
@[simp] theorem Strand.enter_mbox (t : Strand) (x : Trap) (pcv : Lane) (code : Quad) : (t.enter x pcv code).mbox = t.mbox := rfl
@[simp] theorem Strand.enter_wdlim (t : Strand) (x : Trap) (pcv : Lane) (code : Quad) : (t.enter x pcv code).wdlim = t.wdlim := rfl
@[simp] theorem Strand.enter_excused (t : Strand) (x : Trap) (pcv : Lane) (code : Quad) : (t.enter x pcv code).excused = t.excused := rfl
@[simp] theorem Strand.enter_rejoin (t : Strand) (x : Trap) (pcv : Lane) (code : Quad) : (t.enter x pcv code).rejoin = t.rejoin := rfl
@[simp] theorem Strand.enter_lease (t : Strand) (x : Trap) (pcv : Lane) (code : Quad) : (t.enter x pcv code).lease = t.lease := rfl
@[simp] theorem Strand.enter_gen0 (t : Strand) (x : Trap) (pcv : Lane) (code : Quad) : (t.enter x pcv code).gen0 = t.gen0 := rfl
@[simp] theorem Strand.enter_gen1 (t : Strand) (x : Trap) (pcv : Lane) (code : Quad) : (t.enter x pcv code).gen1 = t.gen1 := rfl
@[simp] theorem Strand.enter_nchild (t : Strand) (x : Trap) (pcv : Lane) (code : Quad) : (t.enter x pcv code).nchild = t.nchild := rfl
@[simp] theorem Strand.enter_outc (t : Strand) (x : Trap) (pcv : Lane) (code : Quad) : (t.enter x pcv code).outc = t.outc := rfl
@[simp] theorem Strand.enter_task (t : Strand) (x : Trap) (pcv : Lane) (code : Quad) : (t.enter x pcv code).task = t.task := rfl
@[simp] theorem Strand.enter_parent (t : Strand) (x : Trap) (pcv : Lane) (code : Quad) : (t.enter x pcv code).parent = t.parent := rfl
@[simp] theorem Strand.enter_parentTag (t : Strand) (x : Trap) (pcv : Lane) (code : Quad) : (t.enter x pcv code).parentTag = t.parentTag := rfl
@[simp] theorem Strand.enter_serial (t : Strand) (x : Trap) (pcv : Lane) (code : Quad) : (t.enter x pcv code).serial = t.serial := rfl
@[simp] theorem Strand.enter_msgSeq (t : Strand) (x : Trap) (pcv : Lane) (code : Quad) : (t.enter x pcv code).msgSeq = t.msgSeq := rfl
@[simp] theorem Strand.enter_outstanding (t : Strand) (x : Trap) (pcv : Lane) (code : Quad) : (t.enter x pcv code).outstanding = t.outstanding := rfl
@[simp] theorem Strand.enter_lastMsg (t : Strand) (x : Trap) (pcv : Lane) (code : Quad) : (t.enter x pcv code).lastMsg = t.lastMsg := rfl
@[simp] theorem Strand.enter_ackLost (t : Strand) (x : Trap) (pcv : Lane) (code : Quad) : (t.enter x pcv code).ackLost = t.ackLost := rfl
@[simp] theorem Strand.enter_clock (t : Strand) (x : Trap) (pcv : Lane) (code : Quad) : (t.enter x pcv code).clock = t.clock := rfl
@[simp] theorem Strand.enter_kidClock (t : Strand) (x : Trap) (pcv : Lane) (code : Quad) : (t.enter x pcv code).kidClock = t.kidClock := rfl
@[simp] theorem Strand.enter_bars (t : Strand) (x : Trap) (pcv : Lane) (code : Quad) : (t.enter x pcv code).bars = t.bars := rfl
@[simp] theorem Strand.enter_ofences (t : Strand) (x : Trap) (pcv : Lane) (code : Quad) : (t.enter x pcv code).ofences = t.ofences := rfl
@[simp] theorem Strand.enter_nextIssue (t : Strand) (x : Trap) (pcv : Lane) (code : Quad) : (t.enter x pcv code).nextIssue = t.nextIssue := rfl
@[simp] theorem Strand.enter_ringFrom (t : Strand) (x : Trap) (pcv : Lane) (code : Quad) : (t.enter x pcv code).ringFrom = t.ringFrom := rfl
@[simp] theorem Strand.enter_stopped (t : Strand) (x : Trap) (pcv : Lane) (code : Quad) : (t.enter x pcv code).stopped = t.stopped := rfl
@[simp] theorem Strand.enter_held (t : Strand) (x : Trap) (pcv : Lane) (code : Quad) : (t.enter x pcv code).held = t.held := rfl
@[simp] theorem Strand.enter_passBreak (t : Strand) (x : Trap) (pcv : Lane) (code : Quad) : (t.enter x pcv code).passBreak = t.passBreak := rfl
@[simp] theorem Strand.enter_brk (t : Strand) (x : Trap) (pcv : Lane) (code : Quad) : (t.enter x pcv code).brk = t.brk := rfl
@[simp] theorem Strand.enter_joinDead (t : Strand) (x : Trap) (pcv : Lane) (code : Quad) : (t.enter x pcv code).joinDead = t.joinDead := rfl
@[simp] theorem Strand.enter_poolFault (t : Strand) (x : Trap) (pcv : Lane) (code : Quad) : (t.enter x pcv code).poolFault = t.poolFault := rfl

@[simp] theorem Strand.enter_cycleDue (t : Strand) (x : Trap) (pcv : Lane) (code : Quad) : (t.enter x pcv code).cycleDue = t.cycleDue := rfl

end Sys2Proof.Machine
end

