-- ==== Sys2Proof/Laws/Issue.lean ====
section
/-! SUPPORT. The issue of an instruction (02 R45, R46): every word of the program issues by `State.issue` with the needs of
its row, and what that does when nothing holds the instruction back, when its guard is false, when its level is not
enough, when it is illegal, when a source is empty under the trap policy, and when it must wait. -/

namespace Sys2Proof.Machine

/-- No source is held up, in the forms in which the issue asks. -/
theorem readies_yes : ∀ (l : List (Opnd × Ready)), (∀ x ∈ l, x.2 = .yes) →
    firstEmpty l = none ∧ badSources l = [] ∧ anyNo l = false
  | [], _ => ⟨rfl, rfl, rfl⟩
  | (o, r) :: l, h => by
    have hr : r = .yes := h (o, r) (List.mem_cons_self ..)
    have ih := readies_yes l (fun x hx => h x (List.mem_cons_of_mem _ hx))
    subst hr
    simp only [firstEmpty, badSources, anyNo, List.findSome?_cons, List.filterMap_cons, List.any_cons, Bool.false_or] at ih ⊢
    exact ih

/-- An instruction that nothing holds back reads its sources and executes. -/
theorem State.issue_met (n : Needs) (s : State) (body : List RegCell → State → Res) (h : n.Met s) :
    s.issue n.h n.o n.srcs n.dsts body = s.finish n.srcs (body (n.values s) (n.after s)) := by
  have hk : (n.o.konly && !s.st.kernel) = false := by
    cases hk : n.o.konly
    · rfl
    · simp [h.level hk]
  have hs := readies_yes _ h.srcs
  have hd : n.dsts.any (fun r => s.dstBusy r n.o.dwords) = false := by
    simp only [List.any_eq_false]
    intro r hr
    simp [(h.dsts r hr).1]
  have hb : n.dsts.filterMap s.dstBad = [] := by
    simp only [List.filterMap_eq_nil_iff]
    exact fun r hr => (h.dsts r hr).2
  by_cases hc : s.st.prog.came = true <;>
    simp [State.issue, hk, h.guard, h.begins, h.legal, hc, hs, hd, hb, h.fwd, h.unit, worst, Res.defer, Needs.values,
      Needs.after]

/-- An annulled instruction does nothing but move on (R36). -/
theorem State.issue_annulled (n : Needs) (s : State) (body : List RegCell → State → Res)
    (hk : n.o.konly = true → s.st.kernel = true) (hg : s.st.guard n.h = false) :
    s.issue n.h n.o n.srcs n.dsts body = s.modSt Strand.step12 := by
  have hk : (n.o.konly && !s.st.kernel) = false := by
    cases h : n.o.konly
    · rfl
    · simp [hk h]
  simp [State.issue, hk, hg]

/-- A kernel instruction at user level traps, whatever its guard (R46). -/
theorem State.issue_priv (n : Needs) (s : State) (body : List RegCell → State → Res)
    (hk : n.o.konly = true) (hu : s.st.kernel = false) :
    s.issue n.h n.o n.srcs n.dsts body = s.trap ⟨.priv, 0, 0, 0⟩ := by
  simp [State.issue, hk, hu]

/-- The tests that precede the operands, at an instruction that is not under way. -/
structure Needs.Begins (n : Needs) (s : State) : Prop where
  level : n.o.konly = true → s.st.kernel = true
  guard : s.st.guard n.h = true
  begins : s.st.consumed = false
  fresh : s.st.prog.came = false

/-- An instruction that the state makes ILLEGAL (R43). -/
theorem State.issue_illegal (n : Needs) (s : State) (body : List RegCell → State → Res) (h : n.Begins s) (d : Nat)
    (hi : n.o.ill s = some d) : s.issue n.h n.o n.srcs n.dsts body = s.trap ⟨.illegal, 0, d, 0⟩ := by
  have hk : (n.o.konly && !s.st.kernel) = false := by
    cases hk : n.o.konly
    · rfl
    · simp [h.level hk]
  simp [State.issue, hk, h.guard, h.begins, h.fresh, hi]

/-- The first source that is not ready under the trap policy (R37). -/
theorem State.issue_empty (n : Needs) (s : State) (body : List RegCell → State → Res) (h : n.Begins s) (t : Trap)
    (hl : n.o.ill s = none) (he : firstEmpty (s.readies [] n.srcs) = some t) :
    s.issue n.h n.o n.srcs n.dsts body = s.trap t := by
  have hk : (n.o.konly && !s.st.kernel) = false := by
    cases hk : n.o.konly
    · rfl
    · simp [h.level hk]
  simp [State.issue, hk, h.guard, h.begins, h.fresh, hl, he]

/-- A source or destination that is not ready: the strand parks and nothing is read (R37, R45). -/
theorem State.issue_parks (n : Needs) (s : State) (body : List RegCell → State → Res) (h : n.Begins s)
    (hl : n.o.ill s = none) (he : firstEmpty (s.readies [] n.srcs) = none)
    (hw : (anyNo (s.readies [] n.srcs) || n.dsts.any (fun r => s.dstBusy r n.o.dwords) || s.fwdBusy n.srcs n.dsts n.o.dwords || n.o.busy s) = true) :
    s.issue n.h n.o n.srcs n.dsts body = s.modSt (fun st => st.park .operands s.now s.cyc) := by
  have hk : (n.o.konly && !s.st.kernel) = false := by
    cases hk : n.o.konly
    · rfl
    · simp [h.level hk]
  simp only [State.issue, hk, h.guard, h.begins, h.fresh, hl, he]
  simp [hw]

/-- Every word of the program issues with the needs of its row. -/
theorem exec_issues (i : Instr) (n : Needs) (hn : needs i = some n) :
    ∃ body : List RegCell → State → Res, ∀ s, exec i s = .next (s.issue n.h n.o n.srcs n.dsts body) := by
  cases i <;> simp only [needs, Option.some.injEq, reduceCtorEq] at hn <;>
    first
      | exact absurd hn (by simp)
      | (subst hn; exact ⟨_, fun s => rfl⟩)

/-! ### The check of a concrete state -/

/-- The conditions of `Needs.Met` as one Boolean. -/
def Needs.check (n : Needs) (s : State) : Bool :=
  (!n.o.konly || s.st.kernel) && s.st.guard n.h && !s.st.consumed && (n.o.ill s).isNone
    && (s.readies [] n.srcs).all (fun x => match x.2 with | .yes => true | _ => false)
    && n.dsts.all (fun r => !s.dstBusy r n.o.dwords && (s.dstBad r).isNone)
    && !s.fwdBusy n.srcs n.dsts n.o.dwords && (s.fwdBad n.srcs).isEmpty && !n.o.busy s

theorem Needs.met_of_check (n : Needs) (s : State) (h : n.check s = true) : n.Met s := by
  simp only [Needs.check, Bool.and_eq_true, Bool.or_eq_true, Bool.not_eq_true', Option.isNone_iff_eq_none, List.all_eq_true,
    List.isEmpty_iff] at h
  obtain ⟨⟨⟨⟨⟨⟨⟨⟨hl, hg⟩, hb⟩, hi⟩, hs⟩, hd⟩, hf⟩, hw⟩, hu⟩ := h
  refine ⟨fun hk => ?_, hg, hb, hi, fun x hx => ?_, fun r hr => hd r hr, ⟨hf, hw⟩, hu⟩
  · rcases hl with hl | hl
    · simp [hk] at hl
    · exact hl
  · have := hs x hx
    revert this
    cases x.2 <;> simp

/-- The word has needs, and they are met. -/
def Instr.readyIn (i : Instr) (s : State) : Bool := match needs i with | some n => n.check s | none => false

theorem ready_of_readyIn (i : Instr) (s : State) (h : Instr.readyIn i s = true) : ∃ n, ReadyFor i n s := by
  unfold Instr.readyIn at h
  split at h
  · exact ⟨_, ‹_›, Needs.met_of_check _ _ h⟩
  · simp at h

end Sys2Proof.Machine
end

