-- ==== Sys2Proof/Laws/Lanes.lean ====
section
/-! SUPPORT. The lanes of a register that was packed from lanes (02 R39). -/

namespace Sys2Proof.Machine

/-- A bit of a packed register is a bit of its lane. -/
theorem packLanes_bit (w : Nat) (hw : 0 < w) : ∀ (l : List (BitVec w)) (j : Nat), w * l.length ≤ 128 → j < 128 →
    (packLanes w l).getLsbD j = (l.getD (j / w) 0).getLsbD (j % w)
  | [], j, _, _ => by simp [packLanes]
  | x :: r, j, hl, hj => by
    have hr : w * r.length + w ≤ 128 := by simpa [Nat.mul_add] using hl
    simp only [packLanes, BitVec.getLsbD_or, BitVec.getLsbD_setWidth, BitVec.getLsbD_shiftLeft, hj, decide_true,
      Bool.true_and]
    by_cases h : j < w
    · simp [h, Nat.div_eq_of_lt h, Nat.mod_eq_of_lt h]
    · have hx : x.getLsbD j = false := BitVec.getLsbD_of_ge x j (by omega)
      have hd : j / w = (j - w) / w + 1 := by
        rw [Nat.div_eq_sub_div hw (by omega)]
      have hm : j % w = (j - w) % w := by rw [Nat.mod_eq_sub_mod (by omega)]
      rw [packLanes_bit w hw r (j - w) (by omega) (by omega), hx, hd, hm]
      simp [h]

/-- A lane of a packed register. -/
theorem laneAt_packLanes (w : Nat) (hw : 0 < w) (l : List (BitVec w)) (hl : w * l.length ≤ 128) (k : Nat)
    (hk : w * k + w ≤ 128) : laneAt w (packLanes w l) k = l.getD k 0 := by
  apply BitVec.eq_of_getLsbD_eq
  intro i hi
  have h1 : (w * k + i) / w = k := by
    rw [Nat.mul_add_div hw, Nat.div_eq_of_lt hi, Nat.add_zero]
  have h2 : (w * k + i) % w = i := by
    rw [Nat.mul_add_mod, Nat.mod_eq_of_lt hi]
  simp [laneAt, hi, packLanes_bit w hw l (w * k + i) hl (by omega), h1, h2]

/-- The widths of R39. -/
theorem width_pos (t : Ty) : 0 < t.width := by cases t <;> decide
theorem width_lanes (t : Ty) : t.width * (128 / t.width) = 128 := by cases t <;> decide
theorem width_lane (t : Ty) (k : Nat) (hk : k < 128 / t.width) : t.width * k + t.width ≤ 128 := by
  have h := width_lanes t
  have h2 : t.width * (k + 1) ≤ t.width * (128 / t.width) := Nat.mul_le_mul_left _ hk
  rw [Nat.mul_add] at h2
  omega

/-- A lane of a lane function over one register. -/
theorem laneAt_mapLanes (t : Ty) (f : BitVec t.width → BitVec t.width) (a : Quad) (k : Nat) (hk : k < 128 / t.width) :
    laneAt t.width (mapLanes t.width f a) k = f (laneAt t.width a k) := by
  rw [mapLanes, laneAt_packLanes _ (width_pos t) _ (by simp [lanesOf, width_lanes]) _ (width_lane t k hk)]
  simp [lanesOf, List.getD_eq_getElem?_getD, hk]

/-- A lane of a lane function over two registers. -/
theorem laneAt_mapLanes2 (t : Ty) (f : BitVec t.width → BitVec t.width → BitVec t.width) (a b : Quad) (k : Nat)
    (hk : k < 128 / t.width) :
    laneAt t.width (mapLanes2 t.width f a b) k = f (laneAt t.width a k) (laneAt t.width b k) := by
  rw [mapLanes2, laneAt_packLanes _ (width_pos t) _ (by simp [width_lanes]) _ (width_lane t k hk)]
  simp [List.getD_eq_getElem?_getD, hk]

/-- A lane of a register of equal lanes. -/
theorem laneAt_fill (t : Ty) (v : BitVec t.width) (k : Nat) (hk : k < 128 / t.width) :
    laneAt t.width (fill t.width v) k = v := by
  rw [fill, laneAt_packLanes _ (width_pos t) _ (by simp [width_lanes]) _ (width_lane t k hk)]
  simp [List.getD_eq_getElem?_getD, hk]

/-- A lane of a register in which one lane was replaced. -/
theorem laneAt_setLane (w : Nat) (q : Quad) (j k : Nat) (v : BitVec w) (hj : w * j + w ≤ 128) (hk : w * k + w ≤ 128) :
    laneAt w (setLane w q j v) k = if k = j then v else laneAt w q k := by
  apply BitVec.eq_of_getLsbD_eq
  intro i hi
  by_cases h : k = j
  · subst h
    simp [laneAt, setLane, hi]
    have h1 : w * k + i < 128 := by omega
    have h3 : i < 128 := by omega
    have h4 : ¬ (w * k + i < w * k) := by omega
    simp [h1, h3, h4]
  · have hne : w * k + i < w * j ∨ w * j + w ≤ w * k + i := by
      rcases Nat.lt_or_gt_of_ne h with hlt | hlt
      · have : w * (k + 1) ≤ w * j := Nat.mul_le_mul_left _ hlt
        rw [Nat.mul_add] at this; omega
      · have : w * (j + 1) ≤ w * k := Nat.mul_le_mul_left _ hlt
        rw [Nat.mul_add] at this; omega
    have h1 : w * k + i < 128 := by omega
    simp [laneAt, setLane, hi, h, h1]
    rcases hne with hne | hne
    · simp [hne]
    · have h4 : ¬ (w * k + i < w * j) := by omega
      have h5 : ¬ (w * k + i - w * j < w) := by omega
      simp [h4, h5, BitVec.getLsbD_of_ge v (w * k + i - w * j) (by omega)]

end Sys2Proof.Machine
end

