-- ==== Sys2Proof/Laws/Memory.lean ====
section
/-! SUPPORT. Memory: reading what was written, and the canonical form that every write keeps (log entry 5). -/

namespace Sys2Proof.Machine

/-- A key below every listed key reads as an unlisted byte. -/
theorem Memory.read_below : ∀ (m : Memory) (lo a : Nat), m.sortedFrom lo = true → a < lo → m.read a = unlisted
  | [], _, _, _, _ => rfl
  | (k, b) :: r, lo, a, h, ha => by
    simp only [Memory.sortedFrom, Bool.and_eq_true, decide_eq_true_eq] at h
    have hk : k ≠ a := by omega
    simp only [Memory.read, hk, if_false]
    exact Memory.read_below r (k + 1) a h.2 (by omega)

/-- A weaker bound. -/
theorem Memory.sortedFrom_le : ∀ (m : Memory) (lo hi : Nat), m.sortedFrom hi = true → lo ≤ hi → m.sortedFrom lo = true
  | [], _, _, _, _ => rfl
  | (k, b) :: r, lo, hi, h, hl => by
    simp only [Memory.sortedFrom, Bool.and_eq_true, decide_eq_true_eq] at h ⊢
    exact ⟨⟨by omega, h.1.2⟩, h.2⟩

/-- A write keeps the keys rising above a bound below the address. -/
theorem Memory.write_sorted : ∀ (m : Memory) (lo a : Nat) (v : Byte), m.sortedFrom lo = true → lo ≤ a →
    (m.write a v).sortedFrom lo = true
  | [], lo, a, v, _, ha => by
    by_cases hv : v = unlisted <;> simp [Memory.write, Memory.sortedFrom, hv, ha]
  | (k, b) :: r, lo, a, v, h, ha => by
    simp only [Memory.sortedFrom, Bool.and_eq_true, decide_eq_true_eq] at h
    simp only [Memory.write]
    split
    · next hak =>
      by_cases hv : v = unlisted
      · simp [hv, Memory.sortedFrom, h.1.1, h.1.2, h.2]
      · simp [hv, Memory.sortedFrom, ha, h.1.2, h.2]; omega
    · next hak =>
      split
      · next he =>
        by_cases hv : v = unlisted
        · simp only [hv, if_true]; exact Memory.sortedFrom_le r lo (k + 1) h.2 (by omega)
        · subst he; simp [hv, Memory.sortedFrom, ha, h.2]
      · next he =>
        simp only [Memory.sortedFrom, Bool.and_eq_true, decide_eq_true_eq]
        exact ⟨h.1, Memory.write_sorted r (k + 1) a v h.2 (by omega)⟩

/-- A write keeps the canonical form. -/
theorem Memory.write_wf (m : Memory) (a : Nat) (v : Byte) (h : m.wf = true) : (m.write a v).wf = true :=
  Memory.write_sorted m 0 a v h (Nat.zero_le a)

/-- A run of writes keeps the canonical form. -/
theorem Memory.writes_wf : ∀ (l : List Byte) (m : Memory) (a : Nat), m.wf = true → (m.writes a l).wf = true
  | [], _, _, h => h
  | b :: r, m, a, h => Memory.writes_wf r (m.write a b) (a + 1) (Memory.write_wf m a b h)

/-- Leaving entries out keeps the canonical form. -/
theorem Memory.filter_sorted (p : Host.Cell → Bool) : ∀ (m : Memory) (lo : Nat), m.sortedFrom lo = true →
    Memory.sortedFrom lo (m.filter p) = true
  | [], _, _ => rfl
  | (k, b) :: r, lo, h => by
    simp only [Memory.sortedFrom, Bool.and_eq_true, decide_eq_true_eq] at h
    have hr := Memory.filter_sorted p r (k + 1) h.2
    by_cases hp : p (k, b) = true
    · simp only [List.filter_cons, hp, if_true, Memory.sortedFrom, Bool.and_eq_true, decide_eq_true_eq]
      exact ⟨h.1, hr⟩
    · simp only [List.filter_cons, hp]
      exact Memory.sortedFrom_le _ lo (k + 1) hr (by omega)
theorem Memory.filter_wf (p : Host.Cell → Bool) (m : Memory) (h : m.wf = true) : Memory.wf (m.filter p) = true :=
  Memory.filter_sorted p m 0 h

/-- Reading after a write, above a bound. -/
theorem Memory.read_write_from : ∀ (m : Memory) (lo a b : Nat) (v : Byte), m.sortedFrom lo = true → lo ≤ a →
    (m.write a v).read b = if b = a then v else m.read b
  | [], lo, a, b, v, _, _ => by
    by_cases hb : b = a
    · by_cases hv : v = unlisted <;> simp [Memory.write, Memory.read, hv, hb]
    · by_cases hv : v = unlisted <;> simp [Memory.write, Memory.read, hv, hb, Ne.symm hb]
  | (k, c) :: r, lo, a, b, v, h, ha => by
    simp only [Memory.sortedFrom, Bool.and_eq_true, decide_eq_true_eq] at h
    have below := fun x (hx : x < k + 1) => Memory.read_below r (k + 1) x h.2 hx
    simp only [Memory.write]
    split
    · next hak =>
      by_cases hv : v = unlisted <;> by_cases hb : b = a
      · subst hb; simp [hv, Memory.read, below b (by omega)]; omega
      · simp [hv, hb]
      · subst hb; simp [hv, Memory.read]
      · simp [hv, hb, Memory.read, Ne.symm hb]
    · next hak =>
      split
      · next he =>
        subst he
        by_cases hv : v = unlisted <;> by_cases hb : b = a
        · subst hb; simp [hv, below b (by omega)]
        · simp [hv, hb, Memory.read, Ne.symm hb]
        · subst hb; simp [hv, Memory.read]
        · simp [hv, hb, Memory.read, Ne.symm hb]
      · next he =>
        have ih := Memory.read_write_from r (k + 1) a b v h.2 (by omega)
        simp only [Memory.read]
        by_cases hk : k = b
        · subst hk; simp [Ne.symm he]
        · simp [hk, ih]

/-- Reading after a write: the value at its address, and every other address as before. -/
theorem Memory.read_write (m : Memory) (a b : Nat) (v : Byte) (h : m.wf = true) :
    (m.write a v).read b = if b = a then v else m.read b :=
  Memory.read_write_from m 0 a b v h (Nat.zero_le a)

/-- Reading after a run of writes. -/
theorem Memory.read_writes : ∀ (l : List Byte) (m : Memory) (a b : Nat), m.wf = true →
    (m.writes a l).read b = if a ≤ b ∧ b < a + l.length then l.getD (b - a) 0 else m.read b
  | [], m, a, b, _ => by simp [Memory.writes] <;> omega
  | v :: r, m, a, b, h => by
    have ih := Memory.read_writes r (m.write a v) (a + 1) b (Memory.write_wf m a v h)
    simp only [Memory.writes, ih, Memory.read_write m a b v h, List.length_cons]
    by_cases hb : b = a
    · subst hb; simp <;> omega
    · by_cases hin : a + 1 ≤ b ∧ b < a + 1 + r.length
      · have : b - a = (b - (a + 1)) + 1 := by omega
        simp only [hin, and_self, if_true, this, List.getD_cons_succ]
        rw [if_pos (by omega)]
      · rw [if_neg hin, if_neg (by omega), if_neg (by omega)]

/-- Reset memory is canonical. -/
theorem Memory.reset_wf : State.reset.mem.wf = true := rfl

end Sys2Proof.Machine
end

