-- ==== Sys2Proof/Laws/PerInstr.lean ====
section
/-! SUPPORT. The families of statements that are made for each instruction. WordsIssue (R33, R45): an instruction has a word
exactly where it has the needs of an issue; the other rows of the table are moves of the machine and its tools. -/

namespace Sys2Proof.Laws

/-- An instruction has a word exactly where it issues. -/
def WordsIssue.Statement (i : Instr) : Prop := (Machine.needs i).isSome = (encode i).isSome

theorem WordsIssue.nop (h : Head) : WordsIssue.Statement (.nop h) := rfl
theorem WordsIssue.br (h : Head) (off : BitVec 32) : WordsIssue.Statement (.br h off) := rfl
theorem WordsIssue.bri (h : Head) (a : PSrc) : WordsIssue.Statement (.bri h a) := rfl
theorem WordsIssue.call (h : Head) (off : BitVec 32) : WordsIssue.Statement (.call h off) := rfl
theorem WordsIssue.calli (h : Head) (a : PSrc) : WordsIssue.Statement (.calli h a) := rfl
theorem WordsIssue.ret (h : Head) (a : PSrc) : WordsIssue.Statement (.ret h a) := rfl
theorem WordsIssue.loop (h : Head) (d : Reg) (off : BitVec 32) : WordsIssue.Statement (.loop h d off) := rfl
theorem WordsIssue.pand (h : Head) (p q r : Pred) : WordsIssue.Statement (.pand h p q r) := rfl
theorem WordsIssue.por (h : Head) (p q r : Pred) : WordsIssue.Statement (.por h p q r) := rfl
theorem WordsIssue.pxor (h : Head) (p q r : Pred) : WordsIssue.Statement (.pxor h p q r) := rfl
theorem WordsIssue.pandn (h : Head) (p q r : Pred) : WordsIssue.Statement (.pandn h p q r) := rfl
theorem WordsIssue.pget (h : Head) (d : Reg) : WordsIssue.Statement (.pget h d) := rfl
theorem WordsIssue.psetm (h : Head) (a : PSrc) (mask : BitVec 8) : WordsIssue.Statement (.psetm h a mask) := rfl
theorem WordsIssue.pset (h : Head) (p : Pred) (v : Bool) : WordsIssue.Statement (.pset h p v) := rfl
theorem WordsIssue.add (h : Head) (t : Ty) (d : Reg) (a b : Src) : WordsIssue.Statement (.add h t d a b) := rfl
theorem WordsIssue.addi (h : Head) (t : Ty) (d : Reg) (a : Src) (i : BitVec 32) : WordsIssue.Statement (.addi h t d a i) := rfl
theorem WordsIssue.sub (h : Head) (t : Ty) (d : Reg) (a b : Src) : WordsIssue.Statement (.sub h t d a b) := rfl
theorem WordsIssue.adds (h : Head) (t : Ty) (d : Reg) (a b : Src) : WordsIssue.Statement (.adds h t d a b) := rfl
theorem WordsIssue.subs (h : Head) (t : Ty) (d : Reg) (a b : Src) : WordsIssue.Statement (.subs h t d a b) := rfl
theorem WordsIssue.mul (h : Head) (t : Ty) (d : Reg) (a b : Src) : WordsIssue.Statement (.mul h t d a b) := rfl
theorem WordsIssue.muli (h : Head) (t : Ty) (d : Reg) (a : Src) (i : BitVec 32) : WordsIssue.Statement (.muli h t d a i) := rfl
theorem WordsIssue.mulh (h : Head) (t : Ty) (d : Reg) (a b : Src) : WordsIssue.Statement (.mulh h t d a b) := rfl
theorem WordsIssue.div (h : Head) (t : Ty) (d : Reg) (a b : Src) : WordsIssue.Statement (.div h t d a b) := rfl
theorem WordsIssue.rem (h : Head) (t : Ty) (d : Reg) (a b : Src) : WordsIssue.Statement (.rem h t d a b) := rfl
theorem WordsIssue.neg (h : Head) (t : Ty) (d : Reg) (a : Src) : WordsIssue.Statement (.neg h t d a) := rfl
theorem WordsIssue.abs (h : Head) (t : Ty) (d : Reg) (a : Src) : WordsIssue.Statement (.abs h t d a) := rfl
theorem WordsIssue.min (h : Head) (t : Ty) (d : Reg) (a b : Src) : WordsIssue.Statement (.min h t d a b) := rfl
theorem WordsIssue.max (h : Head) (t : Ty) (d : Reg) (a b : Src) : WordsIssue.Statement (.max h t d a b) := rfl
theorem WordsIssue.and (h : Head) (t : Ty) (d : Reg) (a b : Src) : WordsIssue.Statement (.and h t d a b) := rfl
theorem WordsIssue.andi (h : Head) (t : Ty) (d : Reg) (a : Src) (i : BitVec 32) : WordsIssue.Statement (.andi h t d a i) := rfl
theorem WordsIssue.or (h : Head) (t : Ty) (d : Reg) (a b : Src) : WordsIssue.Statement (.or h t d a b) := rfl
theorem WordsIssue.ori (h : Head) (t : Ty) (d : Reg) (a : Src) (i : BitVec 32) : WordsIssue.Statement (.ori h t d a i) := rfl
theorem WordsIssue.xor (h : Head) (t : Ty) (d : Reg) (a b : Src) : WordsIssue.Statement (.xor h t d a b) := rfl
theorem WordsIssue.xori (h : Head) (t : Ty) (d : Reg) (a : Src) (i : BitVec 32) : WordsIssue.Statement (.xori h t d a i) := rfl
theorem WordsIssue.andn (h : Head) (t : Ty) (d : Reg) (a b : Src) : WordsIssue.Statement (.andn h t d a b) := rfl
theorem WordsIssue.shl (h : Head) (t : Ty) (d : Reg) (a b : Src) : WordsIssue.Statement (.shl h t d a b) := rfl
theorem WordsIssue.shli (h : Head) (t : Ty) (d : Reg) (a : Src) (n : BitVec 6) : WordsIssue.Statement (.shli h t d a n) := rfl
theorem WordsIssue.shr (h : Head) (t : Ty) (d : Reg) (a b : Src) : WordsIssue.Statement (.shr h t d a b) := rfl
theorem WordsIssue.shri (h : Head) (t : Ty) (d : Reg) (a : Src) (n : BitVec 6) : WordsIssue.Statement (.shri h t d a n) := rfl
theorem WordsIssue.rot (h : Head) (t : Ty) (d : Reg) (a b : Src) : WordsIssue.Statement (.rot h t d a b) := rfl
theorem WordsIssue.roti (h : Head) (t : Ty) (d : Reg) (a : Src) (n : BitVec 6) : WordsIssue.Statement (.roti h t d a n) := rfl
theorem WordsIssue.clz (h : Head) (t : Ty) (d : Reg) (a : Src) : WordsIssue.Statement (.clz h t d a) := rfl
theorem WordsIssue.popc (h : Head) (t : Ty) (d : Reg) (a : Src) : WordsIssue.Statement (.popc h t d a) := rfl
theorem WordsIssue.brev (h : Head) (t : Ty) (d : Reg) (a : Src) : WordsIssue.Statement (.brev h t d a) := rfl
theorem WordsIssue.bfx (h : Head) (t : Ty) (d : Reg) (a : Src) (pos : BitVec 6) (len : BitVec 7) : WordsIssue.Statement (.bfx h t d a pos len) := rfl
theorem WordsIssue.bfi (h : Head) (t : Ty) (d : Reg) (a : Src) (pos : BitVec 6) (len : BitVec 7) : WordsIssue.Statement (.bfi h t d a pos len) := rfl
theorem WordsIssue.cmp (h : Head) (t : Ty) (cc : ICond) (comb : Comb) (p : Pred) (a b : Src) : WordsIssue.Statement (.cmp h t cc comb p a b) := rfl
theorem WordsIssue.cmpi (h : Head) (t : Ty) (cc : ICond) (comb : Comb) (p : Pred) (a : Src) (i : BitVec 32) : WordsIssue.Statement (.cmpi h t cc comb p a i) := rfl
theorem WordsIssue.sel (h : Head) (d : Reg) (a b : Src) (p : Pred) : WordsIssue.Statement (.sel h d a b p) := rfl
theorem WordsIssue.movi (h : Head) (t : Ty) (d : Reg) (i : BitVec 32) : WordsIssue.Statement (.movi h t d i) := rfl
theorem WordsIssue.movhi (h : Head) (d : Reg) (i : BitVec 32) : WordsIssue.Statement (.movhi h d i) := rfl
theorem WordsIssue.mov (h : Head) (t : Ty) (d : Reg) (a : Src) : WordsIssue.Statement (.mov h t d a) := rfl
theorem WordsIssue.shuf (h : Head) (t : Ty) (d : Reg) (a b : Src) : WordsIssue.Statement (.shuf h t d a b) := rfl
theorem WordsIssue.laneget (h : Head) (t : Ty) (d : Reg) (a : Src) (k : BitVec 4) : WordsIssue.Statement (.laneget h t d a k) := rfl
theorem WordsIssue.laneset (h : Head) (t : Ty) (d : Reg) (a : Src) (k : BitVec 4) : WordsIssue.Statement (.laneset h t d a k) := rfl
theorem WordsIssue.bcast (h : Head) (t : Ty) (d : Reg) (a : Src) (k : BitVec 4) : WordsIssue.Statement (.bcast h t d a k) := rfl
theorem WordsIssue.capsub (h : Head) (d : Reg) (a b : PSrc) : WordsIssue.Statement (.capsub h d a b) := rfl
theorem WordsIssue.caplen (h : Head) (d : Reg) (a : PSrc) : WordsIssue.Statement (.caplen h d a) := rfl
theorem WordsIssue.capperm (h : Head) (d : Reg) (a : PSrc) (mask : BitVec 8) : WordsIssue.Statement (.capperm h d a mask) := rfl
theorem WordsIssue.capadd (h : Head) (d : Reg) (a b : PSrc) : WordsIssue.Statement (.capadd h d a b) := rfl
theorem WordsIssue.capaddi (h : Head) (d : Reg) (a : PSrc) (delta : BitVec 32) : WordsIssue.Statement (.capaddi h d a delta) := rfl
theorem WordsIssue.capset (h : Head) (d : Reg) (a b : PSrc) : WordsIssue.Statement (.capset h d a b) := rfl
theorem WordsIssue.capget (h : Head) (d : Reg) (a : PSrc) (field : BitVec 4) (pol : BitVec 2) : WordsIssue.Statement (.capget h d a field pol) := rfl
theorem WordsIssue.captst (h : Head) (p : Pred) (a b : PSrc) (perm : BitVec 8) : WordsIssue.Statement (.captst h p a b perm) := rfl
theorem WordsIssue.capclr (h : Head) (d : Reg) (a : PSrc) : WordsIssue.Statement (.capclr h d a) := rfl
theorem WordsIssue.cvt (h : Head) (rm : RMode) (sat : Bool) (part : BitVec 4) (src dst : Fmt) (d : Reg) (a : Src) : WordsIssue.Statement (.cvt h rm sat part src dst d a) := rfl
theorem WordsIssue.ftoi (h : Head) (t : FTy) (rm : RMode) (signed sat : Bool) (d : Reg) (a : Src) : WordsIssue.Statement (.ftoi h t rm signed sat d a) := rfl
theorem WordsIssue.itof (h : Head) (t : FTy) (rm : RMode) (signed : Bool) (d : Reg) (a : Src) : WordsIssue.Statement (.itof h t rm signed d a) := rfl
theorem WordsIssue.blkset (h : Head) (rm : RMode) (f : BFmt) (d : Reg) (a : Src) : WordsIssue.Statement (.blkset h rm f d a) := rfl
theorem WordsIssue.blkput (h : Head) (t : FTy) (rm : RMode) (sat : Bool) (q : Fin 12) (a : Src) (part : BitVec 6) : WordsIssue.Statement (.blkput h t rm sat q a part) := rfl
theorem WordsIssue.blkget (h : Head) (t : FTy) (rm : RMode) (d : Reg) (q : Fin 12) (trapEmpty : Bool) (part : BitVec 6) : WordsIssue.Statement (.blkget h t rm d q trapEmpty part) := rfl
theorem WordsIssue.blkfit (h : Head) (t : FTy) (f : BFmt) (d : Reg) (a : Src) : WordsIssue.Statement (.blkfit h t f d a) := rfl
theorem WordsIssue.fadd (h : Head) (t : FTy) (rm : RMode) (d : Reg) (a b : Src) : WordsIssue.Statement (.fadd h t rm d a b) := rfl
theorem WordsIssue.fsub (h : Head) (t : FTy) (rm : RMode) (d : Reg) (a b : Src) : WordsIssue.Statement (.fsub h t rm d a b) := rfl
theorem WordsIssue.fmul (h : Head) (t : FTy) (rm : RMode) (d : Reg) (a b : Src) : WordsIssue.Statement (.fmul h t rm d a b) := rfl
theorem WordsIssue.ffma (h : Head) (t : FTy) (rm : RMode) (d : Reg) (a b : Src) : WordsIssue.Statement (.ffma h t rm d a b) := rfl
theorem WordsIssue.ffms (h : Head) (t : FTy) (rm : RMode) (d : Reg) (a b : Src) : WordsIssue.Statement (.ffms h t rm d a b) := rfl
theorem WordsIssue.fnfma (h : Head) (t : FTy) (rm : RMode) (d : Reg) (a b : Src) : WordsIssue.Statement (.fnfma h t rm d a b) := rfl
theorem WordsIssue.fdiv (h : Head) (t : FTy) (rm : RMode) (d : Reg) (a b : Src) : WordsIssue.Statement (.fdiv h t rm d a b) := rfl
theorem WordsIssue.fsqrt (h : Head) (t : FTy) (rm : RMode) (d : Reg) (a : Src) : WordsIssue.Statement (.fsqrt h t rm d a) := rfl
theorem WordsIssue.fmin (h : Head) (t : FTy) (d : Reg) (a b : Src) : WordsIssue.Statement (.fmin h t d a b) := rfl
theorem WordsIssue.fmax (h : Head) (t : FTy) (d : Reg) (a b : Src) : WordsIssue.Statement (.fmax h t d a b) := rfl
theorem WordsIssue.fabs (h : Head) (t : FTy) (d : Reg) (a : Src) : WordsIssue.Statement (.fabs h t d a) := rfl
theorem WordsIssue.fneg (h : Head) (t : FTy) (d : Reg) (a : Src) : WordsIssue.Statement (.fneg h t d a) := rfl
theorem WordsIssue.fcmp (h : Head) (t : FTy) (cc : FCond) (comb : Comb) (p : Pred) (a b : Src) : WordsIssue.Statement (.fcmp h t cc comb p a b) := rfl
theorem WordsIssue.fclass (h : Head) (t : FTy) (d : Reg) (a : Src) : WordsIssue.Statement (.fclass h t d a) := rfl
theorem WordsIssue.frint (h : Head) (t : FTy) (rm : RMode) (exact : Bool) (d : Reg) (a : Src) : WordsIssue.Statement (.frint h t rm exact d a) := rfl
theorem WordsIssue.fscale (h : Head) (t : FTy) (rm : RMode) (d : Reg) (a b : Src) : WordsIssue.Statement (.fscale h t rm d a b) := rfl
theorem WordsIssue.freduce (h : Head) (t : FTy) (rm : RMode) (d : Reg) (a : Src) : WordsIssue.Statement (.freduce h t rm d a) := rfl
theorem WordsIssue.fexp (h : Head) (t : FTy) (rm : RMode) (d : Reg) (a : Src) : WordsIssue.Statement (.fexp h t rm d a) := rfl
theorem WordsIssue.fexp2 (h : Head) (t : FTy) (rm : RMode) (d : Reg) (a : Src) : WordsIssue.Statement (.fexp2 h t rm d a) := rfl
theorem WordsIssue.fexpm1 (h : Head) (t : FTy) (rm : RMode) (d : Reg) (a : Src) : WordsIssue.Statement (.fexpm1 h t rm d a) := rfl
theorem WordsIssue.flog (h : Head) (t : FTy) (rm : RMode) (d : Reg) (a : Src) : WordsIssue.Statement (.flog h t rm d a) := rfl
theorem WordsIssue.flog2 (h : Head) (t : FTy) (rm : RMode) (d : Reg) (a : Src) : WordsIssue.Statement (.flog2 h t rm d a) := rfl
theorem WordsIssue.flog1p (h : Head) (t : FTy) (rm : RMode) (d : Reg) (a : Src) : WordsIssue.Statement (.flog1p h t rm d a) := rfl
theorem WordsIssue.ferf (h : Head) (t : FTy) (rm : RMode) (d : Reg) (a : Src) : WordsIssue.Statement (.ferf h t rm d a) := rfl
theorem WordsIssue.ferfc (h : Head) (t : FTy) (rm : RMode) (d : Reg) (a : Src) : WordsIssue.Statement (.ferfc h t rm d a) := rfl
theorem WordsIssue.frcp (h : Head) (t : FTy) (rm : RMode) (d : Reg) (a : Src) : WordsIssue.Statement (.frcp h t rm d a) := rfl
theorem WordsIssue.frsqrt (h : Head) (t : FTy) (rm : RMode) (d : Reg) (a : Src) : WordsIssue.Statement (.frsqrt h t rm d a) := rfl
theorem WordsIssue.fcsrget (h : Head) (d : Reg) : WordsIssue.Statement (.fcsrget h d) := rfl
theorem WordsIssue.fcsrset (h : Head) (d : Reg) (a : Src) (mask : BitVec 32) : WordsIssue.Statement (.fcsrset h d a mask) := rfl
theorem WordsIssue.fflagclr (h : Head) (d : Reg) (mask : BitVec 5) : WordsIssue.Statement (.fflagclr h d mask) := rfl
theorem WordsIssue.rnd (h : Head) (d : Reg) : WordsIssue.Statement (.rnd h d) := rfl
theorem WordsIssue.rndstate (h : Head) (d : Reg) : WordsIssue.Statement (.rndstate h d) := rfl
theorem WordsIssue.rndstateW (h : Head) (d : Reg) (a : Src) : WordsIssue.Statement (.rndstateW h d a) := rfl
theorem WordsIssue.mzero (h : Head) (ad : Fin 4) : WordsIssue.Statement (.mzero h ad) := rfl
theorem WordsIssue.mdot (h : Head) (inca incb : Bool) (ad : Fin 4) (a b : MOperand) : WordsIssue.Statement (.mdot h inca incb ad a b) := rfl
theorem WordsIssue.mrd (h : Head) (col : Bool) (d : Fin 24) (as : Fin 4) (k : BitVec 3) : WordsIssue.Statement (.mrd h col d as k) := rfl
theorem WordsIssue.mwr (h : Head) (col : Bool) (ad : Fin 4) (a : Fin 24) (trapEmpty : Bool) (k : BitVec 3) : WordsIssue.Statement (.mwr h col ad a trapEmpty k) := rfl
theorem WordsIssue.madd (h : Head) (rm : RMode) (ad as : Fin 4) : WordsIssue.Statement (.madd h rm ad as) := rfl
theorem WordsIssue.mscl (h : Head) (rm : RMode) (ad : Fin 4) (a : Src) : WordsIssue.Statement (.mscl h rm ad a) := rfl
theorem WordsIssue.mstat (h : Head) (d : Reg) : WordsIssue.Statement (.mstat h d) := rfl
theorem WordsIssue.ld (h : Head) (t : Ty) (pol : PolMod) (d : Reg) (a : PSrc) (off : BitVec 32) : WordsIssue.Statement (.ld h t pol d a off) := rfl
theorem WordsIssue.st (h : Head) (t : Ty) (pol : PolMod) (a : PSrc) (b : Src) (off : BitVec 32) : WordsIssue.Statement (.st h t pol a b off) := rfl
theorem WordsIssue.ldx (h : Head) (t : Ty) (pol : PolMod) (d : Reg) (a b : PSrc) : WordsIssue.Statement (.ldx h t pol d a b) := rfl
theorem WordsIssue.stx (h : Head) (t : Ty) (pol : PolMod) (d : Reg) (a b : PSrc) : WordsIssue.Statement (.stx h t pol d a b) := rfl
theorem WordsIssue.ldc (h : Head) (pol : PolMod) (d : Reg) (a : PSrc) (off : BitVec 32) : WordsIssue.Statement (.ldc h pol d a off) := rfl
theorem WordsIssue.stc (h : Head) (pol : PolMod) (a : PSrc) (b : Src) (off : BitVec 32) : WordsIssue.Statement (.stc h pol a b off) := rfl
theorem WordsIssue.lde (h : Head) (d : Reg) (a : PSrc) (off : BitVec 32) : WordsIssue.Statement (.lde h d a off) := rfl
theorem WordsIssue.ldf (h : Head) (d : Reg) (a : PSrc) (off : BitVec 32) : WordsIssue.Statement (.ldf h d a off) := rfl
theorem WordsIssue.stf (h : Head) (a : PSrc) (b : Src) (off : BitVec 32) : WordsIssue.Statement (.stf h a b off) := rfl
theorem WordsIssue.feset (h : Head) (full : Bool) (a : PSrc) (off : BitVec 32) : WordsIssue.Statement (.feset h full a off) := rfl
theorem WordsIssue.amo (h : Head) (t : Ty) (fn : AmoFn) (d : Reg) (a : PSrc) (b : Src) (off : BitVec 32) : WordsIssue.Statement (.amo h t fn d a b off) := rfl
theorem WordsIssue.cas (h : Head) (t : Ty) (d : Reg) (a : PSrc) (b : Src) (off : BitVec 32) : WordsIssue.Statement (.cas h t d a b off) := rfl
theorem WordsIssue.pref (h : Head) (a : PSrc) (off : BitVec 32) : WordsIssue.Statement (.pref h a off) := rfl
theorem WordsIssue.linewb (h : Head) (a : PSrc) (off : BitVec 32) : WordsIssue.Statement (.linewb h a off) := rfl
theorem WordsIssue.lineinv (h : Head) (a : PSrc) (off : BitVec 32) : WordsIssue.Statement (.lineinv h a off) := rfl
theorem WordsIssue.fence (h : Head) (sc : Scope) (k : FKind) : WordsIssue.Statement (.fence h sc k) := rfl
theorem WordsIssue.tmget (h : Head) (d : Reg) : WordsIssue.Statement (.tmget h d) := rfl
theorem WordsIssue.tmclr (h : Head) : WordsIssue.Statement (.tmclr h) := rfl
theorem WordsIssue.fenceh (h : Head) (sc : Scope) (k : FKind) (a : Src) : WordsIssue.Statement (.fenceh h sc k a) := rfl
theorem WordsIssue.strm (h : Head) (out : Bool) (d : Reg) (a b : PSrc) : WordsIssue.Statement (.strm h out d a b) := rfl
theorem WordsIssue.strmend (h : Head) (d : Reg) : WordsIssue.Statement (.strmend h d) := rfl
theorem WordsIssue.strmq (h : Head) (d : Reg) (a : Reg) : WordsIssue.Statement (.strmq h d a) := rfl
theorem WordsIssue.copy (h : Head) (exp : Bool) (d : Reg) (a b : PSrc) : WordsIssue.Statement (.copy h exp d a b) := rfl
theorem WordsIssue.copyc (h : Head) (rm : RMode) (sat exp : Bool) (src dst : BFmt) (d : Reg) (a b : PSrc) : WordsIssue.Statement (.copyc h rm sat exp src dst d a b) := rfl
theorem WordsIssue.gather (h : Head) (t : Ty) (exp : Bool) (d : Fin 24) (a b : PSrc) : WordsIssue.Statement (.gather h t exp d a b) := rfl
theorem WordsIssue.scatter (h : Head) (t : Ty) (exp : Bool) (d : Fin 24) (a b : PSrc) : WordsIssue.Statement (.scatter h t exp d a b) := rfl
theorem WordsIssue.txbinit (h : Head) (a : PSrc) (n : BitVec 20) : WordsIssue.Statement (.txbinit h a n) := rfl
theorem WordsIssue.txbarr (h : Head) (d : Reg) (a : PSrc) : WordsIssue.Statement (.txbarr h d a) := rfl
theorem WordsIssue.txbexp (h : Head) (a : PSrc) (n : BitVec 32) : WordsIssue.Statement (.txbexp h a n) := rfl
theorem WordsIssue.txbwait (h : Head) (d : Reg) (a b : PSrc) : WordsIssue.Statement (.txbwait h d a b) := rfl
theorem WordsIssue.txbtest (h : Head) (p : Pred) (a b : PSrc) : WordsIssue.Statement (.txbtest h p a b) := rfl
theorem WordsIssue.send (h : Head) (route : Option (BitVec 6)) (a : PSrc) (b : Src) : WordsIssue.Statement (.send h route a b) := rfl
theorem WordsIssue.sendi (h : Head) (route : Option (BitVec 6)) (a : PSrc) (imm : BitVec 32) : WordsIssue.Statement (.sendi h route a imm) := rfl
theorem WordsIssue.inpop (h : Head) (d : Reg) : WordsIssue.Statement (.inpop h d) := rfl
theorem WordsIssue.inpeek (h : Head) (d : Reg) : WordsIssue.Statement (.inpeek h d) := rfl
theorem WordsIssue.rtlat (h : Head) (d : Reg) : WordsIssue.Statement (.rtlat h d) := rfl
theorem WordsIssue.rtload (h : Head) (a : PSrc) : WordsIssue.Statement (.rtload h a) := rfl
theorem WordsIssue.linkclr (h : Head) (d : Reg) (mask : BitVec 4) : WordsIssue.Statement (.linkclr h d mask) := rfl
theorem WordsIssue.osend (h : Head) (unordered : Bool) (d : Reg) (a b : PSrc) : WordsIssue.Statement (.osend h unordered d a b) := rfl
theorem WordsIssue.oslot (h : Head) (d : Reg) : WordsIssue.Statement (.oslot h d) := rfl
theorem WordsIssue.ofence (h : Head) : WordsIssue.Statement (.ofence h) := rfl
theorem WordsIssue.pause (h : Head) : WordsIssue.Statement (.pause h) := rfl
theorem WordsIssue.emit (h : Head) (rel : Bool) (sig : Sig) : WordsIssue.Statement (.emit h rel sig) := rfl
theorem WordsIssue.present (h : Head) (p : Pred) (sig : Sig) : WordsIssue.Statement (.present h p sig) := rfl
theorem WordsIssue.prev (h : Head) (p : Pred) (sig : Sig) : WordsIssue.Statement (.prev h p sig) := rfl
theorem WordsIssue.watch (h : Head) (k : WKind) (sig : Sig) (off : BitVec 32) : WordsIssue.Statement (.watch h k sig off) := rfl
theorem WordsIssue.unwatch (h : Head) : WordsIssue.Statement (.unwatch h) := rfl
theorem WordsIssue.canemit (h : Head) (d : Reg) (a : Src) : WordsIssue.Statement (.canemit h d a) := rfl
theorem WordsIssue.disclaim (h : Head) (a : Src) : WordsIssue.Statement (.disclaim h a) := rfl
theorem WordsIssue.instant (h : Head) (d : Reg) : WordsIssue.Statement (.instant h d) := rfl
theorem WordsIssue.rbar (h : Head) : WordsIssue.Statement (.rbar h) := rfl
theorem WordsIssue.rexcuseOn (h : Head) (d : Reg) : WordsIssue.Statement (.rexcuseOn h d) := rfl
theorem WordsIssue.rexcuseOff (h : Head) (d : Reg) : WordsIssue.Statement (.rexcuseOff h d) := rfl
theorem WordsIssue.await (h : Head) (sig : Sig) : WordsIssue.Statement (.await h sig) := rfl
theorem WordsIssue.fork (h : Head) (p : Pred) (a b : PSrc) (off : BitVec 32) : WordsIssue.Statement (.fork h p a b off) := rfl
theorem WordsIssue.join (h : Head) : WordsIssue.Statement (.join h) := rfl
theorem WordsIssue.yield (h : Head) : WordsIssue.Statement (.yield h) := rfl
theorem WordsIssue.halt (h : Head) (retain : Option (BitVec 16)) : WordsIssue.Statement (.halt h retain) := by cases retain <;> rfl
theorem WordsIssue.launch (h : Head) (d : Reg) (a : PSrc) : WordsIssue.Statement (.launch h d a) := rfl
theorem WordsIssue.trigger (h : Head) : WordsIssue.Statement (.trigger h) := rfl
theorem WordsIssue.who (h : Head) (d : Reg) (field : BitVec 4) : WordsIssue.Statement (.who h d field) := rfl
theorem WordsIssue.lwait (h : Head) (d : Reg) (a : PSrc) : WordsIssue.Statement (.lwait h d a) := rfl
theorem WordsIssue.gbar (h : Head) : WordsIssue.Statement (.gbar h) := rfl
theorem WordsIssue.pinit (h : Head) (d : Reg) (a b : PSrc) : WordsIssue.Statement (.pinit h d a b) := rfl
theorem WordsIssue.pput (h : Head) (a : PSrc) (b : Src) : WordsIssue.Statement (.pput h a b) := rfl
theorem WordsIssue.ptakeWait (h : Head) (p : Pred) (d : Fin 24) (a : PSrc) : WordsIssue.Statement (.ptakeWait h p d a) := rfl
theorem WordsIssue.ptakeTry (h : Head) (p : Pred) (d : Fin 24) (a : PSrc) : WordsIssue.Statement (.ptakeTry h p d a) := rfl
theorem WordsIssue.ptakeX (h : Head) (p : Pred) (d : Fin 24) (a : PSrc) : WordsIssue.Statement (.ptakeX h p d a) := rfl
theorem WordsIssue.pbound (h : Head) (d : Reg) (a : PSrc) : WordsIssue.Statement (.pbound h d a) := rfl
theorem WordsIssue.psize (h : Head) (d : Reg) (a : PSrc) : WordsIssue.Statement (.psize h d a) := rfl
theorem WordsIssue.pfree (h : Head) (d : Reg) (a : PSrc) : WordsIssue.Statement (.pfree h d a) := rfl
theorem WordsIssue.psync (h : Head) (a : PSrc) : WordsIssue.Statement (.psync h a) := rfl
theorem WordsIssue.trap (h : Head) (code : BitVec 8) (a : PSrc) : WordsIssue.Statement (.trap h code a) := rfl
theorem WordsIssue.eret (h : Head) (skip : Bool) : WordsIssue.Statement (.eret h skip) := rfl
theorem WordsIssue.csrget (h : Head) (d : Reg) (csr : BitVec 12) : WordsIssue.Statement (.csrget h d csr) := rfl
theorem WordsIssue.csrset (h : Head) (d : Reg) (a : PSrc) (csr : BitVec 12) : WordsIssue.Statement (.csrset h d a csr) := rfl
theorem WordsIssue.brk (h : Head) (code : BitVec 16) : WordsIssue.Statement (.brk h code) := rfl
theorem WordsIssue.ckpt (h : Head) (d : Reg) : WordsIssue.Statement (.ckpt h d) := rfl
theorem WordsIssue.tlbinvAll (h : Head) : WordsIssue.Statement (.tlbinvAll h) := rfl
theorem WordsIssue.tlbinvPage (h : Head) (a : PSrc) : WordsIssue.Statement (.tlbinvPage h a) := rfl
theorem WordsIssue.ctxsave (h : Head) (d : Reg) (a : PSrc) : WordsIssue.Statement (.ctxsave h d a) := rfl
theorem WordsIssue.ctxload (h : Head) (d : Reg) (a : PSrc) : WordsIssue.Statement (.ctxload h d a) := rfl
theorem WordsIssue.notify (h : Head) (d : Reg) (a : PSrc) (vec : BitVec 8) : WordsIssue.Statement (.notify h d a vec) := rfl
theorem WordsIssue.mboxWrite (h : Head) (d : Reg) (a : PSrc) : WordsIssue.Statement (.mboxWrite h d a) := rfl
theorem WordsIssue.canrldWrite (h : Head) (d : Reg) (a : PSrc) : WordsIssue.Statement (.canrldWrite h d a) := rfl
theorem WordsIssue.watchstWrite (h : Head) (d : Reg) (a : PSrc) : WordsIssue.Statement (.watchstWrite h d a) := rfl
theorem WordsIssue.fcsrWrite (h : Head) (d : Reg) (a : PSrc) : WordsIssue.Statement (.fcsrWrite h d a) := rfl
theorem WordsIssue.cpauseResume (h : Head) (d : Reg) (a : PSrc) : WordsIssue.Statement (.cpauseResume h d a) := rfl
theorem WordsIssue.cpauseAbandon (h : Head) (d : Reg) (a : PSrc) : WordsIssue.Statement (.cpauseAbandon h d a) := rfl
theorem WordsIssue.gstatDiscClear (h : Head) (d : Reg) (a : PSrc) : WordsIssue.Statement (.gstatDiscClear h d a) := rfl
theorem WordsIssue.strandWake (w : StrandId) : WordsIssue.Statement (.strandWake w) := rfl
theorem WordsIssue.resultArrival (g : GroupId) : WordsIssue.Statement (.resultArrival g) := rfl
theorem WordsIssue.longCommit (w : StrandId) : WordsIssue.Statement (.longCommit w) := rfl
theorem WordsIssue.perform (ch : ChanId) : WordsIssue.Statement (.perform ch) := rfl
theorem WordsIssue.returnValue (k : Nat) : WordsIssue.Statement (.returnValue k) := rfl
theorem WordsIssue.echo (ch : ChanId) : WordsIssue.Statement (.echo ch) := rfl
theorem WordsIssue.evict (die line : Nat) : WordsIssue.Statement (.evict die line) := rfl
theorem WordsIssue.syncResend (w : StrandId) : WordsIssue.Statement (.syncResend w) := rfl
theorem WordsIssue.tlbWalkDone (w : StrandId) : WordsIssue.Statement (.tlbWalkDone w) := rfl
theorem WordsIssue.linkWordArrival (k : Nat) : WordsIssue.Statement (.linkWordArrival k) := rfl
theorem WordsIssue.mdotCommit (g : GroupId) : WordsIssue.Statement (.mdotCommit g) := rfl
theorem WordsIssue.accumulatorCommit (g : GroupId) : WordsIssue.Statement (.accumulatorCommit g) := rfl
theorem WordsIssue.copyUnitEnter (g : GroupId) (op : Fin 48) : WordsIssue.Statement (.copyUnitEnter g op) := rfl
theorem WordsIssue.streamDelivery (k : Nat) : WordsIssue.Statement (.streamDelivery k) := rfl
theorem WordsIssue.copyUnitLanding (k : Nat) : WordsIssue.Statement (.copyUnitLanding k) := rfl
theorem WordsIssue.messageArrival (k : Nat) : WordsIssue.Statement (.messageArrival k) := rfl
theorem WordsIssue.messageAck (k : Nat) : WordsIssue.Statement (.messageAck k) := rfl
theorem WordsIssue.msglost (w : StrandId) (seq : Nat) : WordsIssue.Statement (.msglost w seq) := rfl
theorem WordsIssue.headerResend (k : Nat) (again : Bool) : WordsIssue.Statement (.headerResend k again) := rfl
theorem WordsIssue.subnetworkOn (die k : Nat) : WordsIssue.Statement (.subnetworkOn die k) := rfl
theorem WordsIssue.subnetworkOff (die k : Nat) : WordsIssue.Statement (.subnetworkOff die k) := rfl
theorem WordsIssue.omcWindow (die plane : Nat) : WordsIssue.Statement (.omcWindow die plane) := rfl
theorem WordsIssue.relayAck (k : Nat) : WordsIssue.Statement (.relayAck k) := rfl
theorem WordsIssue.waveSample (launch : Nat) : WordsIssue.Statement (.waveSample launch) := rfl
theorem WordsIssue.waveRelease (g : GroupId) : WordsIssue.Statement (.waveRelease g) := rfl
theorem WordsIssue.exactTakeService (launch : Nat) : WordsIssue.Statement (.exactTakeService launch) := rfl
theorem WordsIssue.groupSaveOut (g : GroupId) : WordsIssue.Statement (.groupSaveOut g) := rfl
theorem WordsIssue.launchQueue (tenant : Nat) (desc : BitVec 512) (codeBase codeLen : Nat) (dataRoot : Option (Nat × Nat))
    (sdata : List Byte) : WordsIssue.Statement (.launchQueue tenant desc codeBase codeLen dataRoot sdata) := rfl
theorem WordsIssue.priorityAgeing (launch : Nat) : WordsIssue.Statement (.priorityAgeing launch) := rfl
theorem WordsIssue.groupPlacement (g : GroupId) (tile : Nat) : WordsIssue.Statement (.groupPlacement g tile) := rfl
theorem WordsIssue.taskStart (w : StrandId) : WordsIssue.Statement (.taskStart w) := rfl
theorem WordsIssue.stealRequest (g : GroupId) : WordsIssue.Statement (.stealRequest g) := rfl
theorem WordsIssue.stealReply (g : GroupId) : WordsIssue.Statement (.stealReply g) := rfl
theorem WordsIssue.joinStoreReturn (g : GroupId) : WordsIssue.Statement (.joinStoreReturn g) := rfl
theorem WordsIssue.joinDeadlock (g : GroupId) : WordsIssue.Statement (.joinDeadlock g) := rfl
theorem WordsIssue.watchdog (w : StrandId) : WordsIssue.Statement (.watchdog w) := rfl
theorem WordsIssue.groupRetire (g : GroupId) : WordsIssue.Statement (.groupRetire g) := rfl
theorem WordsIssue.dependentLaunchRelease (launch : Nat) : WordsIssue.Statement (.dependentLaunchRelease launch) := rfl
theorem WordsIssue.launchCancel (launch : Nat) : WordsIssue.Statement (.launchCancel launch) := rfl
theorem WordsIssue.rotationInterval (die : Nat) : WordsIssue.Statement (.rotationInterval die) := rfl
theorem WordsIssue.swap (die k : Nat) : WordsIssue.Statement (.swap die k) := rfl
theorem WordsIssue.done (die k : Nat) : WordsIssue.Statement (.done die k) := rfl
theorem WordsIssue.skip (die k : Nat) : WordsIssue.Statement (.skip die k) := rfl
theorem WordsIssue.poolExchangeRound (pool : Nat) : WordsIssue.Statement (.poolExchangeRound pool) := rfl
theorem WordsIssue.poolSummaryArrival (pool src dst : Nat) : WordsIssue.Statement (.poolSummaryArrival pool src dst) := rfl
theorem WordsIssue.forwardedTakeArrival (k : Nat) : WordsIssue.Statement (.forwardedTakeArrival k) := rfl
theorem WordsIssue.takeReplyArrival (k : Nat) : WordsIssue.Statement (.takeReplyArrival k) := rfl
theorem WordsIssue.leaseAck (k : Nat) : WordsIssue.Statement (.leaseAck k) := rfl
theorem WordsIssue.stopRequest (g : GroupId) (why : StopWhy) : WordsIssue.Statement (.stopRequest g why) := rfl
theorem WordsIssue.stopDeadline (g : GroupId) : WordsIssue.Statement (.stopDeadline g) := rfl
theorem WordsIssue.groupResume (g : GroupId) (tile : Nat) : WordsIssue.Statement (.groupResume g tile) := rfl
theorem WordsIssue.errorDetected (e : ErrorAt) (recurs : Bool) : WordsIssue.Statement (.errorDetected e recurs) := rfl
theorem WordsIssue.debugHalt (g : GroupId) : WordsIssue.Statement (.debugHalt g) := rfl
theorem WordsIssue.freeze (g : GroupId) : WordsIssue.Statement (.freeze g) := rfl
theorem WordsIssue.freezeRelease (g : GroupId) : WordsIssue.Statement (.freezeRelease g) := rfl
theorem WordsIssue.recoveryPoint (launch : Nat) : WordsIssue.Statement (.recoveryPoint launch) := rfl
theorem WordsIssue.drainPoint (launch : Nat) : WordsIssue.Statement (.drainPoint launch) := rfl
theorem WordsIssue.rollback (launch : Nat) : WordsIssue.Statement (.rollback launch) := rfl
theorem WordsIssue.regionDrain (region : Nat) (retire : List Part) : WordsIssue.Statement (.regionDrain region retire) := rfl
theorem WordsIssue.governorStep (region : Nat) : WordsIssue.Statement (.governorStep region) := rfl
theorem WordsIssue.powerCheck : WordsIssue.Statement (.powerCheck) := rfl
theorem WordsIssue.floorLower : WordsIssue.Statement (.floorLower) := rfl
theorem WordsIssue.droopAlarm (region : Nat) : WordsIssue.Statement (.droopAlarm region) := rfl
theorem WordsIssue.throttleEnd (region : Nat) : WordsIssue.Statement (.throttleEnd region) := rfl
theorem WordsIssue.powerGood : WordsIssue.Statement (.powerGood) := rfl
theorem WordsIssue.stage1 : WordsIssue.Statement (.stage1) := rfl
theorem WordsIssue.regionJoin (region : Nat) (passes : Bool) : WordsIssue.Statement (.regionJoin region passes) := rfl
theorem WordsIssue.stage3 : WordsIssue.Statement (.stage3) := rfl
theorem WordsIssue.spdmMeasurement (tenant index : Nat) : WordsIssue.Statement (.spdmMeasurement tenant index) := rfl
theorem WordsIssue.hostRead (tenant space addr n : Nat) : WordsIssue.Statement (.hostRead tenant space addr n) := rfl
theorem WordsIssue.hostWrite (tenant space addr : Nat) (bytes : List Byte) : WordsIssue.Statement (.hostWrite tenant space addr bytes) := rfl
theorem WordsIssue.dmaAccess (fn : Nat) (k : XferKind) (space addr : Nat) (bytes : List Byte) : WordsIssue.Statement (.dmaAccess fn k space addr bytes) := rfl
theorem WordsIssue.notifyTake (tenant : Nat) : WordsIssue.Statement (.notifyTake tenant) := rfl
theorem WordsIssue.ndbgLoad (tenant : Nat) (object : Nat) : WordsIssue.Statement (.ndbgLoad tenant object) := rfl
theorem WordsIssue.break_ (addr : Nat) : WordsIssue.Statement (.break_ addr) := rfl
theorem WordsIssue.istop (n : Nat) : WordsIssue.Statement (.istop n) := rfl
theorem WordsIssue.run (dataRoot : Bool) : WordsIssue.Statement (.run dataRoot) := rfl
theorem WordsIssue.cont : WordsIssue.Statement (.cont) := rfl
theorem WordsIssue.regs (slot : Fin 8) (names : List RegName) (preds : Bool) : WordsIssue.Statement (.regs slot names preds) := rfl
theorem WordsIssue.csr (slot : Fin 8) (csrs : List Nat) : WordsIssue.Statement (.csr slot csrs) := rfl
theorem WordsIssue.tree : WordsIssue.Statement (.tree) := rfl
theorem WordsIssue.group (g : Nat) : WordsIssue.Statement (.group g) := rfl
theorem WordsIssue.mem (off n : Nat) : WordsIssue.Statement (.mem off n) := rfl
theorem WordsIssue.memf (off n : Nat) : WordsIssue.Statement (.memf off n) := rfl
theorem WordsIssue.ptrace : WordsIssue.Statement (.ptrace) := rfl
theorem WordsIssue.ptracePrint (a b : Nat) : WordsIssue.Statement (.ptracePrint a b) := rfl
theorem WordsIssue.rounds (a b : Nat) : WordsIssue.Statement (.rounds a b) := rfl
theorem WordsIssue.dmem (label : String) (n : Nat) : WordsIssue.Statement (.dmem label n) := rfl
theorem WordsIssue.wavetrace : WordsIssue.Statement (.wavetrace) := rfl
theorem WordsIssue.streams (g : Nat) : WordsIssue.Statement (.streams g) := rfl
theorem WordsIssue.streamsPrint : WordsIssue.Statement (.streamsPrint) := rfl
theorem WordsIssue.regions : WordsIssue.Statement (.regions) := rfl
theorem WordsIssue.rbarPrint (n : Nat) : WordsIssue.Statement (.rbarPrint n) := rfl
theorem WordsIssue.where_ : WordsIssue.Statement (.where_) := rfl
theorem WordsIssue.acc (a : Fin 4) : WordsIssue.Statement (.acc a) := rfl
theorem WordsIssue.accmatch (a : Fin 4) (x : BitVec 32) : WordsIssue.Statement (.accmatch a x) := rfl
theorem WordsIssue.ndas (options : List String) (files : UserFiles) : WordsIssue.Statement (.ndas options files) := rfl
theorem WordsIssue.ndld (objects : List Nat) : WordsIssue.Statement (.ndld objects) := rfl
theorem WordsIssue.managementMessage (t : MgmtTarget) (v : Lane) : WordsIssue.Statement (.managementMessage t v) := rfl
theorem WordsIssue.tenantRectangle (tenant vx0 vy0 width height : Nat) : WordsIssue.Statement (.tenantRectangle tenant vx0 vy0 width height) := rfl
theorem WordsIssue.hotPlug (port : Nat) (present : Bool) : WordsIssue.Statement (.hotPlug port present) := rfl
theorem WordsIssue.aerError (fn code : Nat) : WordsIssue.Statement (.aerError fn code) := rfl
theorem WordsIssue.descriptorCopied (w : StrandId) : WordsIssue.Statement (.descriptorCopied w) := rfl
theorem WordsIssue.portCopyDone (w : StrandId) : WordsIssue.Statement (.portCopyDone w) := rfl

end Sys2Proof.Laws
end

