-- ==== Sys2Proof/Laws/Pop.lean ====
section
/-! SUPPORT. What reading the sources of an instruction can change (R45, R52, R53, R263): the issuing strand's c registers
(a mailbox falls empty) and order clock, the group's link FIFOs and streams, and the words on their way between tiles. -/

namespace Sys2Proof.Machine

/-- A state in which only what a source read can change has changed. -/
def State.popped (s : State) (c : Vector RegCell 48) (clock : OrderClock) (links : Vector (List Quad) 4)
    (streams : List StreamD) (lw : List LinkFly) : State :=
  { s with
    linkWords := lw
    g := { s.g with
      links := links
      streams := streams
      st := s.g.st.set s.slot.val { s.st with c := c, clock := clock } s.slot.isLt } }

/-- The strands with the issuing strand put back. -/
theorem State.set_st (s : State) : s.g.st.set s.slot.val s.st s.slot.isLt = s.g.st := by
  simp [State.st]
/-- The state itself is one. -/
theorem State.popped_self (s : State) : s.popped s.st.c s.st.clock s.g.links s.g.streams s.linkWords = s := by
  have h := s.set_st
  change { s with g := { s.g with st := s.g.st.set s.slot.val s.st s.slot.isLt } } = s
  rw [h]

/-- A change of the group's FIFOs and streams and of the words on their way. -/
theorem State.popped_fifos (s : State) (links : Vector (List Quad) 4) (streams : List StreamD) (lw : List LinkFly) :
    { s with linkWords := lw, g := { s.g with links := links, streams := streams } }
      = s.popped s.st.c s.st.clock links streams lw := by
  have h := s.set_st
  change _ = { s with linkWords := lw, g := { s.g with links := links, streams := streams, st := s.g.st.set s.slot.val s.st s.slot.isLt } }
  rw [h]

/-- Two reads are one. -/
theorem State.popped_popped (s : State) (c c' k k' l l' d d' w w') :
    (s.popped c k l d w).popped c' k' l' d' w' = s.popped c' k' l' d' w' := by
  simp [State.popped, State.st]

/-- A change of the c registers. -/
theorem State.modSt_setCell (s : State) (r : Reg) (x : RegCell) (h : ∀ p, r ≠ .sp ∧ r ≠ .ra ∧ r ≠ .link p) :
    ∃ c, s.modSt (fun t => t.setCell r x) = s.popped c s.st.clock s.g.links s.g.streams s.linkWords := by
  cases r with
  | c n =>
    by_cases hn : n.val = 0
    · refine ⟨s.st.c, ?_⟩
      rw [State.popped_self]
      have h : (fun t : Strand => t.setCell (.c n) x) = id := by funext t; simp [Strand.setCell, hn]
      rw [h]
      exact State.popped_self s
    · exact ⟨s.st.c.set n.val x n.isLt, by simp [State.modSt, Group.modSt, Group.setSt, State.popped, Strand.setCell, hn, State.st]⟩
  | s n => exact ⟨s.st.c, rfl⟩
  | sp => exact absurd rfl (h .north).1
  | ra => exact absurd rfl (h .north).2.1
  | link p => exact absurd rfl (h p).2.2

/-- Pushing words out of a port changes only the words on their way. -/
theorem State.pushPort_eq (s : State) (p : Port) (ws : List Quad) (i : Option (GroupId × Nat × Nat)) :
    ∃ w, s.pushPort p ws i = s.popped s.st.c s.st.clock s.g.links s.g.streams w := by
  simp only [State.pushPort]
  split
  · exact ⟨s.linkWords, (State.popped_self s).symm⟩
  · exact ⟨_, State.popped_fifos s s.g.links s.g.streams _⟩

/-- Everything that the read of one source can do. -/
theorem State.pop_eq (s : State) (o : Opnd) : ∃ c k l d w, (s.pop o).2 = s.popped c k l d w := by
  have self : ∃ c k l d w, s = s.popped c k l d w := ⟨_, _, _, _, _, (State.popped_self s).symm⟩
  unfold State.pop
  split
  · next p _ =>
    have h1 : s.modG (fun g => { g with links := g.links.set (portIdx p).val ((s.g.links[portIdx p]).drop o.words) (portIdx p).isLt })
        = s.popped s.st.c s.st.clock (s.g.links.set (portIdx p).val ((s.g.links[portIdx p]).drop o.words) (portIdx p).isLt)
          s.g.streams s.linkWords := State.popped_fifos s _ s.g.streams s.linkWords
    split
    · obtain ⟨w, hw⟩ := State.pushPort_eq (s.modG (fun g => { g with links := g.links.set (portIdx p).val ((s.g.links[portIdx p]).drop o.words) (portIdx p).isLt })) (oppPort p) ((s.g.links[portIdx p]).take o.words) (some (s.g.gid, s.st.serial, s.now))
      simp only [hw]
      rw [h1, State.popped_popped]
      exact ⟨_, _, _, _, _, rfl⟩
    · simp only [h1]
      exact ⟨_, _, _, _, _, rfl⟩
  · next n hr =>
    have hc : ∀ p, o.r ≠ .sp ∧ o.r ≠ .ra ∧ o.r ≠ .link p := by intro p; simp [hr]
    simp only
    split
    · split
      · exact self
      · split
        · exact self
        · next d _ _ =>
          simp only
          split
          · exact ⟨s.st.c, _, s.g.links, _, s.linkWords, rfl⟩
          · exact ⟨s.st.c, s.st.clock, s.g.links, _, s.linkWords, State.popped_fifos s s.g.links _ s.linkWords⟩
    · split
      · obtain ⟨c, hc'⟩ := State.modSt_setCell s o.r { s.cell o.r with full := false } hc
        exact ⟨_, _, _, _, _, hc'⟩
      · exact self
  · exact self

/-- Everything that the reads of the sources can do. -/
theorem State.pops_eq : ∀ (ops : List Opnd) (s : State), ∃ c k l d w, (s.pops ops).2 = s.popped c k l d w
  | [], s => ⟨_, _, _, _, _, (State.popped_self s).symm⟩
  | o :: r, s => by
    obtain ⟨c, k, l, d, w, h⟩ := State.pop_eq s o
    obtain ⟨c', k', l', d', w', h'⟩ := State.pops_eq r (s.pop o).2
    refine ⟨c', k', l', d', w', ?_⟩
    simp only [State.pops, h']
    rw [h, State.popped_popped]

end Sys2Proof.Machine
end

