-- ==== Sys2Proof/Laws/Write.lean ====
section
/-! SUPPORT. What writing a register, or marking one outstanding, can change (R47 to R52, R116, R263), and the fields that
reading and writing registers keep, one lemma each. -/

namespace Sys2Proof.Machine

/-- A state in which only what a register write can change has changed. -/
def State.written (s : State) (c : Vector RegCell 48) (sp ra : RegCell) (sr : Vector RegCell 8) (sw : List SWrite)
    (streams : List StreamD) (lw : List LinkFly) : State :=
  { s with
    linkWords := lw
    g := { s.g with
      sr := sr
      swrites := sw
      streams := streams
      st := s.g.st.set s.slot.val { s.st with c := c, sp := sp, ra := ra } s.slot.isLt } }

/-- A change outside the strand. -/
theorem State.written_group (s : State) (sr : Vector RegCell 8) (sw : List SWrite) (streams : List StreamD)
    (lw : List LinkFly) :
    { s with linkWords := lw, g := { s.g with sr := sr, swrites := sw, streams := streams } }
      = s.written s.st.c s.st.sp s.st.ra sr sw streams lw := by
  have h := s.set_st
  change _ = { s with linkWords := lw, g := { s.g with sr := sr, swrites := sw, streams := streams, st := s.g.st.set s.slot.val s.st s.slot.isLt } }
  rw [h]
/-- The state itself is one. -/
theorem State.written_self (s : State) : s = s.written s.st.c s.st.sp s.st.ra s.g.sr s.g.swrites s.g.streams s.linkWords :=
  s.written_group s.g.sr s.g.swrites s.g.streams s.linkWords

/-- Setting a c register. -/
theorem State.written_cell (s : State) (n : Fin 48) (x : RegCell) :
    ∃ c, s.modSt (fun t => t.setCell (.c n) x) = s.written c s.st.sp s.st.ra s.g.sr s.g.swrites s.g.streams s.linkWords := by
  by_cases hn : n.val = 0
  · refine ⟨s.st.c, ?_⟩
    have h : (fun t : Strand => t.setCell (.c n) x) = id := by funext t; simp [Strand.setCell, hn]
    rw [h, ← State.written_self]
    have h := s.set_st
    change { s with g := { s.g with st := s.g.st.set s.slot.val s.st s.slot.isLt } } = s
    rw [h]
  · exact ⟨s.st.c.set n.val x n.isLt, by simp [State.modSt, Group.modSt, Group.setSt, State.written, Strand.setCell, hn, State.st]⟩

/-- Everything that a register write can do. -/
theorem State.writeReg_eq (s : State) (r : Reg) (v : Quad) (tag : Bool) :
    ∃ c sp ra sr sw d w, s.writeReg r v tag = s.written c sp ra sr sw d w := by
  cases r with
  | c n =>
    simp only [State.writeReg]
    split
    · exact ⟨_, _, _, _, _, _, _, State.written_self s⟩
    · split
      · exact ⟨_, _, _, _, _, _, _, State.written_group s s.g.sr s.g.swrites _ s.linkWords⟩
      · next hn _ =>
        exact ⟨s.st.c.set n.val _ n.isLt, s.st.sp, s.st.ra, s.g.sr, s.g.swrites, s.g.streams, s.linkWords,
          by simp [State.modSt, Group.modSt, Group.setSt, State.written, Strand.setCell, hn, State.st]; rfl⟩
  | s n => exact ⟨_, _, _, _, _, _, _, State.written_group s _ _ s.g.streams s.linkWords⟩
  | sp => exact ⟨s.st.c, _, s.st.ra, s.g.sr, s.g.swrites, s.g.streams, s.linkWords, rfl⟩
  | ra => exact ⟨s.st.c, s.st.sp, _, s.g.sr, s.g.swrites, s.g.streams, s.linkWords, rfl⟩
  | link p =>
    obtain ⟨w, h⟩ := State.pushPort_eq s p [v] none
    refine ⟨s.st.c, s.st.sp, s.st.ra, s.g.sr, s.g.swrites, s.g.streams, w, ?_⟩
    rw [← State.written_group s s.g.sr s.g.swrites s.g.streams w]
    simp only [State.writeReg, h]
    exact (State.popped_fifos s s.g.links s.g.streams w).symm

/-- Everything that marking a register outstanding can do. -/
theorem State.markOut_eq (s : State) (r : Reg) : ∃ c sp ra sr sw d w, s.markOut r = s.written c sp ra sr sw d w := by
  cases r with
  | c n =>
    simp only [State.markOut]
    split
    · exact ⟨_, _, _, _, _, _, _, State.written_self s⟩
    · next hn =>
      have hn : ¬ n.val = 0 := fun h => by simp [h] at hn
      exact ⟨s.st.c.set n.val _ n.isLt, s.st.sp, s.st.ra, s.g.sr, s.g.swrites, s.g.streams, s.linkWords,
        by simp [State.modSt, Group.modSt, Group.setSt, State.written, Strand.setCell, hn, State.st]; rfl⟩
  | s n => exact ⟨_, _, _, _, _, _, _, State.written_group s _ _ s.g.streams s.linkWords⟩
  | sp => exact ⟨s.st.c, _, s.st.ra, s.g.sr, s.g.swrites, s.g.streams, s.linkWords, rfl⟩
  | ra => exact ⟨s.st.c, s.st.sp, _, s.g.sr, s.g.swrites, s.g.streams, s.linkWords, rfl⟩
  | link p => exact ⟨_, _, _, _, _, _, _, State.written_self s⟩

/-- Everything that the reads of an instruction can do. -/
theorem Needs.after_eq (n : Needs) (s : State) : ∃ c k l d w, n.after s = s.popped c k l d w := State.pops_eq n.srcs s

@[simp] theorem State.popped_st (s : State) (c k l d w) : (s.popped c k l d w).st = { s.st with c := c, clock := k } := by
  simp [State.popped, State.st]
@[simp] theorem State.written_st (s : State) (c sp ra sr sw d w) :
    (s.written c sp ra sr sw d w).st = { s.st with c := c, sp := sp, ra := ra } := by
  simp [State.written, State.st]


/-! ### After the reads of an instruction -/

@[simp] theorem Needs.after_slot (n : Needs) (s : State) : (n.after s).slot = s.slot := by
  obtain ⟨_, _, _, _, _, h⟩ := n.after_eq s; rw [h]; rfl
@[simp] theorem Needs.after_others (n : Needs) (s : State) : (n.after s).others = s.others := by
  obtain ⟨_, _, _, _, _, h⟩ := n.after_eq s; rw [h]; rfl
@[simp] theorem Needs.after_launches (n : Needs) (s : State) : (n.after s).launches = s.launches := by
  obtain ⟨_, _, _, _, _, h⟩ := n.after_eq s; rw [h]; rfl
@[simp] theorem Needs.after_tenants (n : Needs) (s : State) : (n.after s).tenants = s.tenants := by
  obtain ⟨_, _, _, _, _, h⟩ := n.after_eq s; rw [h]; rfl
@[simp] theorem Needs.after_dies (n : Needs) (s : State) : (n.after s).dies = s.dies := by
  obtain ⟨_, _, _, _, _, h⟩ := n.after_eq s; rw [h]; rfl
@[simp] theorem Needs.after_regions (n : Needs) (s : State) : (n.after s).regions = s.regions := by
  obtain ⟨_, _, _, _, _, h⟩ := n.after_eq s; rw [h]; rfl
@[simp] theorem Needs.after_dev (n : Needs) (s : State) : (n.after s).dev = s.dev := by
  obtain ⟨_, _, _, _, _, h⟩ := n.after_eq s; rw [h]; rfl
@[simp] theorem Needs.after_mem (n : Needs) (s : State) : (n.after s).mem = s.mem := by
  obtain ⟨_, _, _, _, _, h⟩ := n.after_eq s; rw [h]; rfl
@[simp] theorem Needs.after_memTags (n : Needs) (s : State) : (n.after s).memTags = s.memTags := by
  obtain ⟨_, _, _, _, _, h⟩ := n.after_eq s; rw [h]; rfl
@[simp] theorem Needs.after_chans (n : Needs) (s : State) : (n.after s).chans = s.chans := by
  obtain ⟨_, _, _, _, _, h⟩ := n.after_eq s; rw [h]; rfl
@[simp] theorem Needs.after_rets (n : Needs) (s : State) : (n.after s).rets = s.rets := by
  obtain ⟨_, _, _, _, _, h⟩ := n.after_eq s; rw [h]; rfl
@[simp] theorem Needs.after_pools (n : Needs) (s : State) : (n.after s).pools = s.pools := by
  obtain ⟨_, _, _, _, _, h⟩ := n.after_eq s; rw [h]; rfl
@[simp] theorem Needs.after_lastPool (n : Needs) (s : State) : (n.after s).lastPool = s.lastPool := by
  obtain ⟨_, _, _, _, _, h⟩ := n.after_eq s; rw [h]; rfl
@[simp] theorem Needs.after_takes (n : Needs) (s : State) : (n.after s).takes = s.takes := by
  obtain ⟨_, _, _, _, _, h⟩ := n.after_eq s; rw [h]; rfl
@[simp] theorem Needs.after_replies (n : Needs) (s : State) : (n.after s).replies = s.replies := by
  obtain ⟨_, _, _, _, _, h⟩ := n.after_eq s; rw [h]; rfl
@[simp] theorem Needs.after_leaseAcks (n : Needs) (s : State) : (n.after s).leaseAcks = s.leaseAcks := by
  obtain ⟨_, _, _, _, _, h⟩ := n.after_eq s; rw [h]; rfl
@[simp] theorem Needs.after_held (n : Needs) (s : State) : (n.after s).held = s.held := by
  obtain ⟨_, _, _, _, _, h⟩ := n.after_eq s; rw [h]; rfl
@[simp] theorem Needs.after_landed (n : Needs) (s : State) : (n.after s).landed = s.landed := by
  obtain ⟨_, _, _, _, _, h⟩ := n.after_eq s; rw [h]; rfl
@[simp] theorem Needs.after_blocks (n : Needs) (s : State) : (n.after s).blocks = s.blocks := by
  obtain ⟨_, _, _, _, _, h⟩ := n.after_eq s; rw [h]; rfl
@[simp] theorem Needs.after_msgAcks (n : Needs) (s : State) : (n.after s).msgAcks = s.msgAcks := by
  obtain ⟨_, _, _, _, _, h⟩ := n.after_eq s; rw [h]; rfl
@[simp] theorem Needs.after_oprobes (n : Needs) (s : State) : (n.after s).oprobes = s.oprobes := by
  obtain ⟨_, _, _, _, _, h⟩ := n.after_eq s; rw [h]; rfl
@[simp] theorem Needs.after_relayAcks (n : Needs) (s : State) : (n.after s).relayAcks = s.relayAcks := by
  obtain ⟨_, _, _, _, _, h⟩ := n.after_eq s; rw [h]; rfl
@[simp] theorem Needs.after_images (n : Needs) (s : State) : (n.after s).images = s.images := by
  obtain ⟨_, _, _, _, _, h⟩ := n.after_eq s; rw [h]; rfl
@[simp] theorem Needs.after_points (n : Needs) (s : State) : (n.after s).points = s.points := by
  obtain ⟨_, _, _, _, _, h⟩ := n.after_eq s; rw [h]; rfl
@[simp] theorem Needs.after_hostOut (n : Needs) (s : State) : (n.after s).hostOut = s.hostOut := by
  obtain ⟨_, _, _, _, _, h⟩ := n.after_eq s; rw [h]; rfl
@[simp] theorem Needs.after_dbg (n : Needs) (s : State) : (n.after s).dbg = s.dbg := by
  obtain ⟨_, _, _, _, _, h⟩ := n.after_eq s; rw [h]; rfl
@[simp] theorem Needs.after_objects (n : Needs) (s : State) : (n.after s).objects = s.objects := by
  obtain ⟨_, _, _, _, _, h⟩ := n.after_eq s; rw [h]; rfl
@[simp] theorem Needs.after_tools (n : Needs) (s : State) : (n.after s).tools = s.tools := by
  obtain ⟨_, _, _, _, _, h⟩ := n.after_eq s; rw [h]; rfl
@[simp] theorem Needs.after_steals (n : Needs) (s : State) : (n.after s).steals = s.steals := by
  obtain ⟨_, _, _, _, _, h⟩ := n.after_eq s; rw [h]; rfl
@[simp] theorem Needs.after_now (n : Needs) (s : State) : (n.after s).now = s.now := by
  obtain ⟨_, _, _, _, _, h⟩ := n.after_eq s; rw [h]; rfl
@[simp] theorem Needs.after_agenda (n : Needs) (s : State) : (n.after s).agenda = s.agenda := by
  obtain ⟨_, _, _, _, _, h⟩ := n.after_eq s; rw [h]; rfl
@[simp] theorem Needs.after_fresh (n : Needs) (s : State) : (n.after s).fresh = s.fresh := by
  obtain ⟨_, _, _, _, _, h⟩ := n.after_eq s; rw [h]; rfl
@[simp] theorem Needs.after_nextId (n : Needs) (s : State) : (n.after s).nextId = s.nextId := by
  obtain ⟨_, _, _, _, _, h⟩ := n.after_eq s; rw [h]; rfl
@[simp] theorem Needs.after_g_gid (n : Needs) (s : State) : (n.after s).g.gid = s.g.gid := by
  obtain ⟨_, _, _, _, _, h⟩ := n.after_eq s; rw [h]; rfl
@[simp] theorem Needs.after_g_state (n : Needs) (s : State) : (n.after s).g.state = s.g.state := by
  obtain ⟨_, _, _, _, _, h⟩ := n.after_eq s; rw [h]; rfl
@[simp] theorem Needs.after_g_place (n : Needs) (s : State) : (n.after s).g.place = s.g.place := by
  obtain ⟨_, _, _, _, _, h⟩ := n.after_eq s; rw [h]; rfl
@[simp] theorem Needs.after_g_logical (n : Needs) (s : State) : (n.after s).g.logical = s.g.logical := by
  obtain ⟨_, _, _, _, _, h⟩ := n.after_eq s; rw [h]; rfl
@[simp] theorem Needs.after_g_homeDie (n : Needs) (s : State) : (n.after s).g.homeDie = s.g.homeDie := by
  obtain ⟨_, _, _, _, _, h⟩ := n.after_eq s; rw [h]; rfl
@[simp] theorem Needs.after_g_sr (n : Needs) (s : State) : (n.after s).g.sr = s.g.sr := by
  obtain ⟨_, _, _, _, _, h⟩ := n.after_eq s; rw [h]; rfl
@[simp] theorem Needs.after_g_swrites (n : Needs) (s : State) : (n.after s).g.swrites = s.g.swrites := by
  obtain ⟨_, _, _, _, _, h⟩ := n.after_eq s; rw [h]; rfl
@[simp] theorem Needs.after_g_late (n : Needs) (s : State) : (n.after s).g.late = s.g.late := by
  obtain ⟨_, _, _, _, _, h⟩ := n.after_eq s; rw [h]; rfl
@[simp] theorem Needs.after_g_acc (n : Needs) (s : State) : (n.after s).g.acc = s.g.acc := by
  obtain ⟨_, _, _, _, _, h⟩ := n.after_eq s; rw [h]; rfl
@[simp] theorem Needs.after_g_mx (n : Needs) (s : State) : (n.after s).g.mx = s.g.mx := by
  obtain ⟨_, _, _, _, _, h⟩ := n.after_eq s; rw [h]; rfl
@[simp] theorem Needs.after_g_mxLast (n : Needs) (s : State) : (n.after s).g.mxLast = s.g.mxLast := by
  obtain ⟨_, _, _, _, _, h⟩ := n.after_eq s; rw [h]; rfl
@[simp] theorem Needs.after_g_mxGap (n : Needs) (s : State) : (n.after s).g.mxGap = s.g.mxGap := by
  obtain ⟨_, _, _, _, _, h⟩ := n.after_eq s; rw [h]; rfl
@[simp] theorem Needs.after_g_mxDone (n : Needs) (s : State) : (n.after s).g.mxDone = s.g.mxDone := by
  obtain ⟨_, _, _, _, _, h⟩ := n.after_eq s; rw [h]; rfl
@[simp] theorem Needs.after_g_fmtA (n : Needs) (s : State) : (n.after s).g.fmtA = s.g.fmtA := by
  obtain ⟨_, _, _, _, _, h⟩ := n.after_eq s; rw [h]; rfl
@[simp] theorem Needs.after_g_fmtB (n : Needs) (s : State) : (n.after s).g.fmtB = s.g.fmtB := by
  obtain ⟨_, _, _, _, _, h⟩ := n.after_eq s; rw [h]; rfl
@[simp] theorem Needs.after_g_accW (n : Needs) (s : State) : (n.after s).g.accW = s.g.accW := by
  obtain ⟨_, _, _, _, _, h⟩ := n.after_eq s; rw [h]; rfl
@[simp] theorem Needs.after_g_saves (n : Needs) (s : State) : (n.after s).g.saves = s.g.saves := by
  obtain ⟨_, _, _, _, _, h⟩ := n.after_eq s; rw [h]; rfl
@[simp] theorem Needs.after_g_trig (n : Needs) (s : State) : (n.after s).g.trig = s.g.trig := by
  obtain ⟨_, _, _, _, _, h⟩ := n.after_eq s; rw [h]; rfl
@[simp] theorem Needs.after_g_resumed (n : Needs) (s : State) : (n.after s).g.resumed = s.g.resumed := by
  obtain ⟨_, _, _, _, _, h⟩ := n.after_eq s; rw [h]; rfl
@[simp] theorem Needs.after_g_frozen (n : Needs) (s : State) : (n.after s).g.frozen = s.g.frozen := by
  obtain ⟨_, _, _, _, _, h⟩ := n.after_eq s; rw [h]; rfl
@[simp] theorem Needs.after_g_dhalt (n : Needs) (s : State) : (n.after s).g.dhalt = s.g.dhalt := by
  obtain ⟨_, _, _, _, _, h⟩ := n.after_eq s; rw [h]; rfl
@[simp] theorem Needs.after_g_hitBreak (n : Needs) (s : State) : (n.after s).g.hitBreak = s.g.hitBreak := by
  obtain ⟨_, _, _, _, _, h⟩ := n.after_eq s; rw [h]; rfl
@[simp] theorem Needs.after_g_disc (n : Needs) (s : State) : (n.after s).g.disc = s.g.disc := by
  obtain ⟨_, _, _, _, _, h⟩ := n.after_eq s; rw [h]; rfl
@[simp] theorem Needs.after_g_tvec (n : Needs) (s : State) : (n.after s).g.tvec = s.g.tvec := by
  obtain ⟨_, _, _, _, _, h⟩ := n.after_eq s; rw [h]; rfl
@[simp] theorem Needs.after_g_log2 (n : Needs) (s : State) : (n.after s).g.log2 = s.g.log2 := by
  obtain ⟨_, _, _, _, _, h⟩ := n.after_eq s; rw [h]; rfl
@[simp] theorem Needs.after_g_discard (n : Needs) (s : State) : (n.after s).g.discard = s.g.discard := by
  obtain ⟨_, _, _, _, _, h⟩ := n.after_eq s; rw [h]; rfl
@[simp] theorem Needs.after_g_skips (n : Needs) (s : State) : (n.after s).g.skips = s.g.skips := by
  obtain ⟨_, _, _, _, _, h⟩ := n.after_eq s; rw [h]; rfl
@[simp] theorem Needs.after_g_swaps (n : Needs) (s : State) : (n.after s).g.swaps = s.g.swaps := by
  obtain ⟨_, _, _, _, _, h⟩ := n.after_eq s; rw [h]; rfl
@[simp] theorem Needs.after_g_instant (n : Needs) (s : State) : (n.after s).g.instant = s.g.instant := by
  obtain ⟨_, _, _, _, _, h⟩ := n.after_eq s; rw [h]; rfl
@[simp] theorem Needs.after_g_synclim (n : Needs) (s : State) : (n.after s).g.synclim = s.g.synclim := by
  obtain ⟨_, _, _, _, _, h⟩ := n.after_eq s; rw [h]; rfl
@[simp] theorem Needs.after_g_portCopies (n : Needs) (s : State) : (n.after s).g.portCopies = s.g.portCopies := by
  obtain ⟨_, _, _, _, _, h⟩ := n.after_eq s; rw [h]; rfl
@[simp] theorem Needs.after_g_cpsel (n : Needs) (s : State) : (n.after s).g.cpsel = s.g.cpsel := by
  obtain ⟨_, _, _, _, _, h⟩ := n.after_eq s; rw [h]; rfl
@[simp] theorem Needs.after_g_msgtim (n : Needs) (s : State) : (n.after s).g.msgtim = s.g.msgtim := by
  obtain ⟨_, _, _, _, _, h⟩ := n.after_eq s; rw [h]; rfl
@[simp] theorem Needs.after_g_dbgbp (n : Needs) (s : State) : (n.after s).g.dbgbp = s.g.dbgbp := by
  obtain ⟨_, _, _, _, _, h⟩ := n.after_eq s; rw [h]; rfl
@[simp] theorem Needs.after_g_csrWrites (n : Needs) (s : State) : (n.after s).g.csrWrites = s.g.csrWrites := by
  obtain ⟨_, _, _, _, _, h⟩ := n.after_eq s; rw [h]; rfl
@[simp] theorem Needs.after_g_spad (n : Needs) (s : State) : (n.after s).g.spad = s.g.spad := by
  obtain ⟨_, _, _, _, _, h⟩ := n.after_eq s; rw [h]; rfl
@[simp] theorem Needs.after_g_spTags (n : Needs) (s : State) : (n.after s).g.spTags = s.g.spTags := by
  obtain ⟨_, _, _, _, _, h⟩ := n.after_eq s; rw [h]; rfl
@[simp] theorem Needs.after_g_spEmpty (n : Needs) (s : State) : (n.after s).g.spEmpty = s.g.spEmpty := by
  obtain ⟨_, _, _, _, _, h⟩ := n.after_eq s; rw [h]; rfl
@[simp] theorem Needs.after_g_marks (n : Needs) (s : State) : (n.after s).g.marks = s.g.marks := by
  obtain ⟨_, _, _, _, _, h⟩ := n.after_eq s; rw [h]; rfl
@[simp] theorem Needs.after_g_wordClocks (n : Needs) (s : State) : (n.after s).g.wordClocks = s.g.wordClocks := by
  obtain ⟨_, _, _, _, _, h⟩ := n.after_eq s; rw [h]; rfl
@[simp] theorem Needs.after_g_badWords (n : Needs) (s : State) : (n.after s).g.badWords = s.g.badWords := by
  obtain ⟨_, _, _, _, _, h⟩ := n.after_eq s; rw [h]; rfl
@[simp] theorem Needs.after_g_barPend (n : Needs) (s : State) : (n.after s).g.barPend = s.g.barPend := by
  obtain ⟨_, _, _, _, _, h⟩ := n.after_eq s; rw [h]; rfl
@[simp] theorem Needs.after_g_barClocks (n : Needs) (s : State) : (n.after s).g.barClocks = s.g.barClocks := by
  obtain ⟨_, _, _, _, _, h⟩ := n.after_eq s; rw [h]; rfl
@[simp] theorem Needs.after_g_deque (n : Needs) (s : State) : (n.after s).g.deque = s.g.deque := by
  obtain ⟨_, _, _, _, _, h⟩ := n.after_eq s; rw [h]; rfl
@[simp] theorem Needs.after_g_store (n : Needs) (s : State) : (n.after s).g.store = s.g.store := by
  obtain ⟨_, _, _, _, _, h⟩ := n.after_eq s; rw [h]; rfl
@[simp] theorem Needs.after_g_routes (n : Needs) (s : State) : (n.after s).g.routes = s.g.routes := by
  obtain ⟨_, _, _, _, _, h⟩ := n.after_eq s; rw [h]; rfl
@[simp] theorem Needs.after_g_inbox (n : Needs) (s : State) : (n.after s).g.inbox = s.g.inbox := by
  obtain ⟨_, _, _, _, _, h⟩ := n.after_eq s; rw [h]; rfl
@[simp] theorem Needs.after_g_left (n : Needs) (s : State) : (n.after s).g.left = s.g.left := by
  obtain ⟨_, _, _, _, _, h⟩ := n.after_eq s; rw [h]; rfl
@[simp] theorem Needs.after_g_clockNote (n : Needs) (s : State) : (n.after s).g.clockNote = s.g.clockNote := by
  obtain ⟨_, _, _, _, _, h⟩ := n.after_eq s; rw [h]; rfl
@[simp] theorem Needs.after_g_arrivals (n : Needs) (s : State) : (n.after s).g.arrivals = s.g.arrivals := by
  obtain ⟨_, _, _, _, _, h⟩ := n.after_eq s; rw [h]; rfl
@[simp] theorem Needs.after_g_absent (n : Needs) (s : State) : (n.after s).g.absent = s.g.absent := by
  obtain ⟨_, _, _, _, _, h⟩ := n.after_eq s; rw [h]; rfl
@[simp] theorem Needs.after_g_inboxQ (n : Needs) (s : State) : (n.after s).g.inboxQ = s.g.inboxQ := by
  obtain ⟨_, _, _, _, _, h⟩ := n.after_eq s; rw [h]; rfl
@[simp] theorem Needs.after_g_refusals (n : Needs) (s : State) : (n.after s).g.refusals = s.g.refusals := by
  obtain ⟨_, _, _, _, _, h⟩ := n.after_eq s; rw [h]; rfl
@[simp] theorem Needs.after_g_ops (n : Needs) (s : State) : (n.after s).g.ops = s.g.ops := by
  obtain ⟨_, _, _, _, _, h⟩ := n.after_eq s; rw [h]; rfl
@[simp] theorem Needs.after_g_em (n : Needs) (s : State) : (n.after s).g.em = s.g.em := by
  obtain ⟨_, _, _, _, _, h⟩ := n.after_eq s; rw [h]; rfl
@[simp] theorem Needs.after_g_emits (n : Needs) (s : State) : (n.after s).g.emits = s.g.emits := by
  obtain ⟨_, _, _, _, _, h⟩ := n.after_eq s; rw [h]; rfl
@[simp] theorem Needs.after_g_present (n : Needs) (s : State) : (n.after s).g.present = s.g.present := by
  obtain ⟨_, _, _, _, _, h⟩ := n.after_eq s; rw [h]; rfl
@[simp] theorem Needs.after_g_absentS (n : Needs) (s : State) : (n.after s).g.absentS = s.g.absentS := by
  obtain ⟨_, _, _, _, _, h⟩ := n.after_eq s; rw [h]; rfl
@[simp] theorem Needs.after_g_relSeen (n : Needs) (s : State) : (n.after s).g.relSeen = s.g.relSeen := by
  obtain ⟨_, _, _, _, _, h⟩ := n.after_eq s; rw [h]; rfl
@[simp] theorem Needs.after_g_prevEm (n : Needs) (s : State) : (n.after s).g.prevEm = s.g.prevEm := by
  obtain ⟨_, _, _, _, _, h⟩ := n.after_eq s; rw [h]; rfl
@[simp] theorem Needs.after_g_prevSlot (n : Needs) (s : State) : (n.after s).g.prevSlot = s.g.prevSlot := by
  obtain ⟨_, _, _, _, _, h⟩ := n.after_eq s; rw [h]; rfl
@[simp] theorem Needs.after_g_lastIssue (n : Needs) (s : State) : (n.after s).g.lastIssue = s.g.lastIssue := by
  obtain ⟨_, _, _, _, _, h⟩ := n.after_eq s; rw [h]; rfl
@[simp] theorem Needs.after_g_goneBars (n : Needs) (s : State) : (n.after s).g.goneBars = s.g.goneBars := by
  obtain ⟨_, _, _, _, _, h⟩ := n.after_eq s; rw [h]; rfl
@[simp] theorem Needs.after_g_turnEnds (n : Needs) (s : State) : (n.after s).g.turnEnds = s.g.turnEnds := by
  obtain ⟨_, _, _, _, _, h⟩ := n.after_eq s; rw [h]; rfl
@[simp] theorem Needs.after_g_stop (n : Needs) (s : State) : (n.after s).g.stop = s.g.stop := by
  obtain ⟨_, _, _, _, _, h⟩ := n.after_eq s; rw [h]; rfl
@[simp] theorem Needs.after_g_outWhy (n : Needs) (s : State) : (n.after s).g.outWhy = s.g.outWhy := by
  obtain ⟨_, _, _, _, _, h⟩ := n.after_eq s; rw [h]; rfl
@[simp] theorem Needs.after_g_begun (n : Needs) (s : State) : (n.after s).g.begun = s.g.begun := by
  obtain ⟨_, _, _, _, _, h⟩ := n.after_eq s; rw [h]; rfl
@[simp] theorem Needs.after_g_stealAt (n : Needs) (s : State) : (n.after s).g.stealAt = s.g.stealAt := by
  obtain ⟨_, _, _, _, _, h⟩ := n.after_eq s; rw [h]; rfl
@[simp] theorem Needs.after_g_stealing (n : Needs) (s : State) : (n.after s).g.stealing = s.g.stealing := by
  obtain ⟨_, _, _, _, _, h⟩ := n.after_eq s; rw [h]; rfl
@[simp] theorem Needs.after_g_inherit (n : Needs) (s : State) : (n.after s).g.inherit = s.g.inherit := by
  obtain ⟨_, _, _, _, _, h⟩ := n.after_eq s; rw [h]; rfl
@[simp] theorem Needs.after_g_handTile (n : Needs) (s : State) : (n.after s).g.handTile = s.g.handTile := by
  obtain ⟨_, _, _, _, _, h⟩ := n.after_eq s; rw [h]; rfl
@[simp] theorem Needs.after_st_run (n : Needs) (s : State) : (n.after s).st.run = s.st.run := by
  obtain ⟨_, _, _, _, _, h⟩ := n.after_eq s; rw [h]; simp
@[simp] theorem Needs.after_st_prog (n : Needs) (s : State) : (n.after s).st.prog = s.st.prog := by
  obtain ⟨_, _, _, _, _, h⟩ := n.after_eq s; rw [h]; simp
@[simp] theorem Needs.after_st_consumed (n : Needs) (s : State) : (n.after s).st.consumed = s.st.consumed := by
  obtain ⟨_, _, _, _, _, h⟩ := n.after_eq s; rw [h]; simp
@[simp] theorem Needs.after_st_again (n : Needs) (s : State) : (n.after s).st.again = s.st.again := by
  obtain ⟨_, _, _, _, _, h⟩ := n.after_eq s; rw [h]; simp
@[simp] theorem Needs.after_st_spared (n : Needs) (s : State) : (n.after s).st.spared = s.st.spared := by
  obtain ⟨_, _, _, _, _, h⟩ := n.after_eq s; rw [h]; simp
@[simp] theorem Needs.after_st_took (n : Needs) (s : State) : (n.after s).st.took = s.st.took := by
  obtain ⟨_, _, _, _, _, h⟩ := n.after_eq s; rw [h]; simp
@[simp] theorem Needs.after_st_kept (n : Needs) (s : State) : (n.after s).st.kept = s.st.kept := by
  obtain ⟨_, _, _, _, _, h⟩ := n.after_eq s; rw [h]; simp
@[simp] theorem Needs.after_st_walkWant (n : Needs) (s : State) : (n.after s).st.walkWant = s.st.walkWant := by
  obtain ⟨_, _, _, _, _, h⟩ := n.after_eq s; rw [h]; simp
@[simp] theorem Needs.after_st_walkFault (n : Needs) (s : State) : (n.after s).st.walkFault = s.st.walkFault := by
  obtain ⟨_, _, _, _, _, h⟩ := n.after_eq s; rw [h]; simp
@[simp] theorem Needs.after_st_sp (n : Needs) (s : State) : (n.after s).st.sp = s.st.sp := by
  obtain ⟨_, _, _, _, _, h⟩ := n.after_eq s; rw [h]; simp
@[simp] theorem Needs.after_st_ra (n : Needs) (s : State) : (n.after s).st.ra = s.st.ra := by
  obtain ⟨_, _, _, _, _, h⟩ := n.after_eq s; rw [h]; simp
@[simp] theorem Needs.after_st_p (n : Needs) (s : State) : (n.after s).st.p = s.st.p := by
  obtain ⟨_, _, _, _, _, h⟩ := n.after_eq s; rw [h]; simp
@[simp] theorem Needs.after_st_fcap (n : Needs) (s : State) : (n.after s).st.fcap = s.st.fcap := by
  obtain ⟨_, _, _, _, _, h⟩ := n.after_eq s; rw [h]; simp
@[simp] theorem Needs.after_st_rcap (n : Needs) (s : State) : (n.after s).st.rcap = s.st.rcap := by
  obtain ⟨_, _, _, _, _, h⟩ := n.after_eq s; rw [h]; simp
@[simp] theorem Needs.after_st_kernel (n : Needs) (s : State) : (n.after s).st.kernel = s.st.kernel := by
  obtain ⟨_, _, _, _, _, h⟩ := n.after_eq s; rw [h]; simp
@[simp] theorem Needs.after_st_pl (n : Needs) (s : State) : (n.after s).st.pl = s.st.pl := by
  obtain ⟨_, _, _, _, _, h⟩ := n.after_eq s; rw [h]; simp
@[simp] theorem Needs.after_st_depth (n : Needs) (s : State) : (n.after s).st.depth = s.st.depth := by
  obtain ⟨_, _, _, _, _, h⟩ := n.after_eq s; rw [h]; simp
@[simp] theorem Needs.after_st_save (n : Needs) (s : State) : (n.after s).st.save = s.st.save := by
  obtain ⟨_, _, _, _, _, h⟩ := n.after_eq s; rw [h]; simp
@[simp] theorem Needs.after_st_fcsr (n : Needs) (s : State) : (n.after s).st.fcsr = s.st.fcsr := by
  obtain ⟨_, _, _, _, _, h⟩ := n.after_eq s; rw [h]; simp
@[simp] theorem Needs.after_st_tmask (n : Needs) (s : State) : (n.after s).st.tmask = s.st.tmask := by
  obtain ⟨_, _, _, _, _, h⟩ := n.after_eq s; rw [h]; simp
@[simp] theorem Needs.after_st_ae (n : Needs) (s : State) : (n.after s).st.ae = s.st.ae := by
  obtain ⟨_, _, _, _, _, h⟩ := n.after_eq s; rw [h]; simp
@[simp] theorem Needs.after_st_canemit (n : Needs) (s : State) : (n.after s).st.canemit = s.st.canemit := by
  obtain ⟨_, _, _, _, _, h⟩ := n.after_eq s; rw [h]; simp
@[simp] theorem Needs.after_st_canrld (n : Needs) (s : State) : (n.after s).st.canrld = s.st.canrld := by
  obtain ⟨_, _, _, _, _, h⟩ := n.after_eq s; rw [h]; simp
@[simp] theorem Needs.after_st_awaitSig (n : Needs) (s : State) : (n.after s).st.awaitSig = s.st.awaitSig := by
  obtain ⟨_, _, _, _, _, h⟩ := n.after_eq s; rw [h]; simp
@[simp] theorem Needs.after_st_wdepth (n : Needs) (s : State) : (n.after s).st.wdepth = s.st.wdepth := by
  obtain ⟨_, _, _, _, _, h⟩ := n.after_eq s; rw [h]; simp
@[simp] theorem Needs.after_st_watch (n : Needs) (s : State) : (n.after s).st.watch = s.st.watch := by
  obtain ⟨_, _, _, _, _, h⟩ := n.after_eq s; rw [h]; simp
@[simp] theorem Needs.after_st_trappc (n : Needs) (s : State) : (n.after s).st.trappc = s.st.trappc := by
  obtain ⟨_, _, _, _, _, h⟩ := n.after_eq s; rw [h]; simp
@[simp] theorem Needs.after_st_trapinfo (n : Needs) (s : State) : (n.after s).st.trapinfo = s.st.trapinfo := by
  obtain ⟨_, _, _, _, _, h⟩ := n.after_eq s; rw [h]; simp
@[simp] theorem Needs.after_st_trapval (n : Needs) (s : State) : (n.after s).st.trapval = s.st.trapval := by
  obtain ⟨_, _, _, _, _, h⟩ := n.after_eq s; rw [h]; simp
@[simp] theorem Needs.after_st_path (n : Needs) (s : State) : (n.after s).st.path = s.st.path := by
  obtain ⟨_, _, _, _, _, h⟩ := n.after_eq s; rw [h]; simp
@[simp] theorem Needs.after_st_mbox (n : Needs) (s : State) : (n.after s).st.mbox = s.st.mbox := by
  obtain ⟨_, _, _, _, _, h⟩ := n.after_eq s; rw [h]; simp
@[simp] theorem Needs.after_st_wdlim (n : Needs) (s : State) : (n.after s).st.wdlim = s.st.wdlim := by
  obtain ⟨_, _, _, _, _, h⟩ := n.after_eq s; rw [h]; simp
@[simp] theorem Needs.after_st_wdcount (n : Needs) (s : State) : (n.after s).st.wdcount = s.st.wdcount := by
  obtain ⟨_, _, _, _, _, h⟩ := n.after_eq s; rw [h]; simp
@[simp] theorem Needs.after_st_wdFrom (n : Needs) (s : State) : (n.after s).st.wdFrom = s.st.wdFrom := by
  obtain ⟨_, _, _, _, _, h⟩ := n.after_eq s; rw [h]; simp
@[simp] theorem Needs.after_st_whNext (n : Needs) (s : State) : (n.after s).st.whNext = s.st.whNext := by
  obtain ⟨_, _, _, _, _, h⟩ := n.after_eq s; rw [h]; simp
@[simp] theorem Needs.after_st_excused (n : Needs) (s : State) : (n.after s).st.excused = s.st.excused := by
  obtain ⟨_, _, _, _, _, h⟩ := n.after_eq s; rw [h]; simp
@[simp] theorem Needs.after_st_rejoin (n : Needs) (s : State) : (n.after s).st.rejoin = s.st.rejoin := by
  obtain ⟨_, _, _, _, _, h⟩ := n.after_eq s; rw [h]; simp
@[simp] theorem Needs.after_st_lease (n : Needs) (s : State) : (n.after s).st.lease = s.st.lease := by
  obtain ⟨_, _, _, _, _, h⟩ := n.after_eq s; rw [h]; simp
@[simp] theorem Needs.after_st_gen0 (n : Needs) (s : State) : (n.after s).st.gen0 = s.st.gen0 := by
  obtain ⟨_, _, _, _, _, h⟩ := n.after_eq s; rw [h]; simp
@[simp] theorem Needs.after_st_gen1 (n : Needs) (s : State) : (n.after s).st.gen1 = s.st.gen1 := by
  obtain ⟨_, _, _, _, _, h⟩ := n.after_eq s; rw [h]; simp
@[simp] theorem Needs.after_st_nchild (n : Needs) (s : State) : (n.after s).st.nchild = s.st.nchild := by
  obtain ⟨_, _, _, _, _, h⟩ := n.after_eq s; rw [h]; simp
@[simp] theorem Needs.after_st_outc (n : Needs) (s : State) : (n.after s).st.outc = s.st.outc := by
  obtain ⟨_, _, _, _, _, h⟩ := n.after_eq s; rw [h]; simp
@[simp] theorem Needs.after_st_task (n : Needs) (s : State) : (n.after s).st.task = s.st.task := by
  obtain ⟨_, _, _, _, _, h⟩ := n.after_eq s; rw [h]; simp
@[simp] theorem Needs.after_st_parent (n : Needs) (s : State) : (n.after s).st.parent = s.st.parent := by
  obtain ⟨_, _, _, _, _, h⟩ := n.after_eq s; rw [h]; simp
@[simp] theorem Needs.after_st_parentTag (n : Needs) (s : State) : (n.after s).st.parentTag = s.st.parentTag := by
  obtain ⟨_, _, _, _, _, h⟩ := n.after_eq s; rw [h]; simp
@[simp] theorem Needs.after_st_serial (n : Needs) (s : State) : (n.after s).st.serial = s.st.serial := by
  obtain ⟨_, _, _, _, _, h⟩ := n.after_eq s; rw [h]; simp
@[simp] theorem Needs.after_st_msgSeq (n : Needs) (s : State) : (n.after s).st.msgSeq = s.st.msgSeq := by
  obtain ⟨_, _, _, _, _, h⟩ := n.after_eq s; rw [h]; simp
@[simp] theorem Needs.after_st_outstanding (n : Needs) (s : State) : (n.after s).st.outstanding = s.st.outstanding := by
  obtain ⟨_, _, _, _, _, h⟩ := n.after_eq s; rw [h]; simp
@[simp] theorem Needs.after_st_lastMsg (n : Needs) (s : State) : (n.after s).st.lastMsg = s.st.lastMsg := by
  obtain ⟨_, _, _, _, _, h⟩ := n.after_eq s; rw [h]; simp
@[simp] theorem Needs.after_st_ackLost (n : Needs) (s : State) : (n.after s).st.ackLost = s.st.ackLost := by
  obtain ⟨_, _, _, _, _, h⟩ := n.after_eq s; rw [h]; simp
@[simp] theorem Needs.after_st_kidClock (n : Needs) (s : State) : (n.after s).st.kidClock = s.st.kidClock := by
  obtain ⟨_, _, _, _, _, h⟩ := n.after_eq s; rw [h]; simp
@[simp] theorem Needs.after_st_bars (n : Needs) (s : State) : (n.after s).st.bars = s.st.bars := by
  obtain ⟨_, _, _, _, _, h⟩ := n.after_eq s; rw [h]; simp
@[simp] theorem Needs.after_st_ofences (n : Needs) (s : State) : (n.after s).st.ofences = s.st.ofences := by
  obtain ⟨_, _, _, _, _, h⟩ := n.after_eq s; rw [h]; simp
@[simp] theorem Needs.after_st_nextIssue (n : Needs) (s : State) : (n.after s).st.nextIssue = s.st.nextIssue := by
  obtain ⟨_, _, _, _, _, h⟩ := n.after_eq s; rw [h]; simp
@[simp] theorem Needs.after_st_ringFrom (n : Needs) (s : State) : (n.after s).st.ringFrom = s.st.ringFrom := by
  obtain ⟨_, _, _, _, _, h⟩ := n.after_eq s; rw [h]; simp
@[simp] theorem Needs.after_st_stopped (n : Needs) (s : State) : (n.after s).st.stopped = s.st.stopped := by
  obtain ⟨_, _, _, _, _, h⟩ := n.after_eq s; rw [h]; simp
@[simp] theorem Needs.after_st_held (n : Needs) (s : State) : (n.after s).st.held = s.st.held := by
  obtain ⟨_, _, _, _, _, h⟩ := n.after_eq s; rw [h]; simp
@[simp] theorem Needs.after_st_passBreak (n : Needs) (s : State) : (n.after s).st.passBreak = s.st.passBreak := by
  obtain ⟨_, _, _, _, _, h⟩ := n.after_eq s; rw [h]; simp
@[simp] theorem Needs.after_st_brk (n : Needs) (s : State) : (n.after s).st.brk = s.st.brk := by
  obtain ⟨_, _, _, _, _, h⟩ := n.after_eq s; rw [h]; simp
@[simp] theorem Needs.after_st_joinDead (n : Needs) (s : State) : (n.after s).st.joinDead = s.st.joinDead := by
  obtain ⟨_, _, _, _, _, h⟩ := n.after_eq s; rw [h]; simp
@[simp] theorem Needs.after_st_poolFault (n : Needs) (s : State) : (n.after s).st.poolFault = s.st.poolFault := by
  obtain ⟨_, _, _, _, _, h⟩ := n.after_eq s; rw [h]; simp

@[simp] theorem Needs.after_st_cycleDue (n : Needs) (s : State) : (n.after s).st.cycleDue = s.st.cycleDue := by
  obtain ⟨_, _, _, _, _, h⟩ := n.after_eq s; rw [h]; simp

/-! ### After the write of a register -/

@[simp] theorem State.writeReg_slot (s : State) (r : Reg) (v : Quad) (tag : Bool) : (s.writeReg r v tag).slot = s.slot := by
  obtain ⟨_, _, _, _, _, _, _, h⟩ := s.writeReg_eq r v tag; rw [h]; rfl
@[simp] theorem State.writeReg_others (s : State) (r : Reg) (v : Quad) (tag : Bool) : (s.writeReg r v tag).others = s.others := by
  obtain ⟨_, _, _, _, _, _, _, h⟩ := s.writeReg_eq r v tag; rw [h]; rfl
@[simp] theorem State.writeReg_launches (s : State) (r : Reg) (v : Quad) (tag : Bool) : (s.writeReg r v tag).launches = s.launches := by
  obtain ⟨_, _, _, _, _, _, _, h⟩ := s.writeReg_eq r v tag; rw [h]; rfl
@[simp] theorem State.writeReg_tenants (s : State) (r : Reg) (v : Quad) (tag : Bool) : (s.writeReg r v tag).tenants = s.tenants := by
  obtain ⟨_, _, _, _, _, _, _, h⟩ := s.writeReg_eq r v tag; rw [h]; rfl
@[simp] theorem State.writeReg_dies (s : State) (r : Reg) (v : Quad) (tag : Bool) : (s.writeReg r v tag).dies = s.dies := by
  obtain ⟨_, _, _, _, _, _, _, h⟩ := s.writeReg_eq r v tag; rw [h]; rfl
@[simp] theorem State.writeReg_regions (s : State) (r : Reg) (v : Quad) (tag : Bool) : (s.writeReg r v tag).regions = s.regions := by
  obtain ⟨_, _, _, _, _, _, _, h⟩ := s.writeReg_eq r v tag; rw [h]; rfl
@[simp] theorem State.writeReg_dev (s : State) (r : Reg) (v : Quad) (tag : Bool) : (s.writeReg r v tag).dev = s.dev := by
  obtain ⟨_, _, _, _, _, _, _, h⟩ := s.writeReg_eq r v tag; rw [h]; rfl
@[simp] theorem State.writeReg_mem (s : State) (r : Reg) (v : Quad) (tag : Bool) : (s.writeReg r v tag).mem = s.mem := by
  obtain ⟨_, _, _, _, _, _, _, h⟩ := s.writeReg_eq r v tag; rw [h]; rfl
@[simp] theorem State.writeReg_memTags (s : State) (r : Reg) (v : Quad) (tag : Bool) : (s.writeReg r v tag).memTags = s.memTags := by
  obtain ⟨_, _, _, _, _, _, _, h⟩ := s.writeReg_eq r v tag; rw [h]; rfl
@[simp] theorem State.writeReg_chans (s : State) (r : Reg) (v : Quad) (tag : Bool) : (s.writeReg r v tag).chans = s.chans := by
  obtain ⟨_, _, _, _, _, _, _, h⟩ := s.writeReg_eq r v tag; rw [h]; rfl
@[simp] theorem State.writeReg_rets (s : State) (r : Reg) (v : Quad) (tag : Bool) : (s.writeReg r v tag).rets = s.rets := by
  obtain ⟨_, _, _, _, _, _, _, h⟩ := s.writeReg_eq r v tag; rw [h]; rfl
@[simp] theorem State.writeReg_pools (s : State) (r : Reg) (v : Quad) (tag : Bool) : (s.writeReg r v tag).pools = s.pools := by
  obtain ⟨_, _, _, _, _, _, _, h⟩ := s.writeReg_eq r v tag; rw [h]; rfl
@[simp] theorem State.writeReg_lastPool (s : State) (r : Reg) (v : Quad) (tag : Bool) : (s.writeReg r v tag).lastPool = s.lastPool := by
  obtain ⟨_, _, _, _, _, _, _, h⟩ := s.writeReg_eq r v tag; rw [h]; rfl
@[simp] theorem State.writeReg_takes (s : State) (r : Reg) (v : Quad) (tag : Bool) : (s.writeReg r v tag).takes = s.takes := by
  obtain ⟨_, _, _, _, _, _, _, h⟩ := s.writeReg_eq r v tag; rw [h]; rfl
@[simp] theorem State.writeReg_replies (s : State) (r : Reg) (v : Quad) (tag : Bool) : (s.writeReg r v tag).replies = s.replies := by
  obtain ⟨_, _, _, _, _, _, _, h⟩ := s.writeReg_eq r v tag; rw [h]; rfl
@[simp] theorem State.writeReg_leaseAcks (s : State) (r : Reg) (v : Quad) (tag : Bool) : (s.writeReg r v tag).leaseAcks = s.leaseAcks := by
  obtain ⟨_, _, _, _, _, _, _, h⟩ := s.writeReg_eq r v tag; rw [h]; rfl
@[simp] theorem State.writeReg_held (s : State) (r : Reg) (v : Quad) (tag : Bool) : (s.writeReg r v tag).held = s.held := by
  obtain ⟨_, _, _, _, _, _, _, h⟩ := s.writeReg_eq r v tag; rw [h]; rfl
@[simp] theorem State.writeReg_landed (s : State) (r : Reg) (v : Quad) (tag : Bool) : (s.writeReg r v tag).landed = s.landed := by
  obtain ⟨_, _, _, _, _, _, _, h⟩ := s.writeReg_eq r v tag; rw [h]; rfl
@[simp] theorem State.writeReg_blocks (s : State) (r : Reg) (v : Quad) (tag : Bool) : (s.writeReg r v tag).blocks = s.blocks := by
  obtain ⟨_, _, _, _, _, _, _, h⟩ := s.writeReg_eq r v tag; rw [h]; rfl
@[simp] theorem State.writeReg_msgAcks (s : State) (r : Reg) (v : Quad) (tag : Bool) : (s.writeReg r v tag).msgAcks = s.msgAcks := by
  obtain ⟨_, _, _, _, _, _, _, h⟩ := s.writeReg_eq r v tag; rw [h]; rfl
@[simp] theorem State.writeReg_oprobes (s : State) (r : Reg) (v : Quad) (tag : Bool) : (s.writeReg r v tag).oprobes = s.oprobes := by
  obtain ⟨_, _, _, _, _, _, _, h⟩ := s.writeReg_eq r v tag; rw [h]; rfl
@[simp] theorem State.writeReg_relayAcks (s : State) (r : Reg) (v : Quad) (tag : Bool) : (s.writeReg r v tag).relayAcks = s.relayAcks := by
  obtain ⟨_, _, _, _, _, _, _, h⟩ := s.writeReg_eq r v tag; rw [h]; rfl
@[simp] theorem State.writeReg_images (s : State) (r : Reg) (v : Quad) (tag : Bool) : (s.writeReg r v tag).images = s.images := by
  obtain ⟨_, _, _, _, _, _, _, h⟩ := s.writeReg_eq r v tag; rw [h]; rfl
@[simp] theorem State.writeReg_points (s : State) (r : Reg) (v : Quad) (tag : Bool) : (s.writeReg r v tag).points = s.points := by
  obtain ⟨_, _, _, _, _, _, _, h⟩ := s.writeReg_eq r v tag; rw [h]; rfl
@[simp] theorem State.writeReg_hostOut (s : State) (r : Reg) (v : Quad) (tag : Bool) : (s.writeReg r v tag).hostOut = s.hostOut := by
  obtain ⟨_, _, _, _, _, _, _, h⟩ := s.writeReg_eq r v tag; rw [h]; rfl
@[simp] theorem State.writeReg_dbg (s : State) (r : Reg) (v : Quad) (tag : Bool) : (s.writeReg r v tag).dbg = s.dbg := by
  obtain ⟨_, _, _, _, _, _, _, h⟩ := s.writeReg_eq r v tag; rw [h]; rfl
@[simp] theorem State.writeReg_objects (s : State) (r : Reg) (v : Quad) (tag : Bool) : (s.writeReg r v tag).objects = s.objects := by
  obtain ⟨_, _, _, _, _, _, _, h⟩ := s.writeReg_eq r v tag; rw [h]; rfl
@[simp] theorem State.writeReg_tools (s : State) (r : Reg) (v : Quad) (tag : Bool) : (s.writeReg r v tag).tools = s.tools := by
  obtain ⟨_, _, _, _, _, _, _, h⟩ := s.writeReg_eq r v tag; rw [h]; rfl
@[simp] theorem State.writeReg_steals (s : State) (r : Reg) (v : Quad) (tag : Bool) : (s.writeReg r v tag).steals = s.steals := by
  obtain ⟨_, _, _, _, _, _, _, h⟩ := s.writeReg_eq r v tag; rw [h]; rfl
@[simp] theorem State.writeReg_now (s : State) (r : Reg) (v : Quad) (tag : Bool) : (s.writeReg r v tag).now = s.now := by
  obtain ⟨_, _, _, _, _, _, _, h⟩ := s.writeReg_eq r v tag; rw [h]; rfl
@[simp] theorem State.writeReg_agenda (s : State) (r : Reg) (v : Quad) (tag : Bool) : (s.writeReg r v tag).agenda = s.agenda := by
  obtain ⟨_, _, _, _, _, _, _, h⟩ := s.writeReg_eq r v tag; rw [h]; rfl
@[simp] theorem State.writeReg_fresh (s : State) (r : Reg) (v : Quad) (tag : Bool) : (s.writeReg r v tag).fresh = s.fresh := by
  obtain ⟨_, _, _, _, _, _, _, h⟩ := s.writeReg_eq r v tag; rw [h]; rfl
@[simp] theorem State.writeReg_nextId (s : State) (r : Reg) (v : Quad) (tag : Bool) : (s.writeReg r v tag).nextId = s.nextId := by
  obtain ⟨_, _, _, _, _, _, _, h⟩ := s.writeReg_eq r v tag; rw [h]; rfl
@[simp] theorem State.writeReg_g_gid (s : State) (r : Reg) (v : Quad) (tag : Bool) : (s.writeReg r v tag).g.gid = s.g.gid := by
  obtain ⟨_, _, _, _, _, _, _, h⟩ := s.writeReg_eq r v tag; rw [h]; rfl
@[simp] theorem State.writeReg_g_state (s : State) (r : Reg) (v : Quad) (tag : Bool) : (s.writeReg r v tag).g.state = s.g.state := by
  obtain ⟨_, _, _, _, _, _, _, h⟩ := s.writeReg_eq r v tag; rw [h]; rfl
@[simp] theorem State.writeReg_g_place (s : State) (r : Reg) (v : Quad) (tag : Bool) : (s.writeReg r v tag).g.place = s.g.place := by
  obtain ⟨_, _, _, _, _, _, _, h⟩ := s.writeReg_eq r v tag; rw [h]; rfl
@[simp] theorem State.writeReg_g_logical (s : State) (r : Reg) (v : Quad) (tag : Bool) : (s.writeReg r v tag).g.logical = s.g.logical := by
  obtain ⟨_, _, _, _, _, _, _, h⟩ := s.writeReg_eq r v tag; rw [h]; rfl
@[simp] theorem State.writeReg_g_homeDie (s : State) (r : Reg) (v : Quad) (tag : Bool) : (s.writeReg r v tag).g.homeDie = s.g.homeDie := by
  obtain ⟨_, _, _, _, _, _, _, h⟩ := s.writeReg_eq r v tag; rw [h]; rfl
@[simp] theorem State.writeReg_g_late (s : State) (r : Reg) (v : Quad) (tag : Bool) : (s.writeReg r v tag).g.late = s.g.late := by
  obtain ⟨_, _, _, _, _, _, _, h⟩ := s.writeReg_eq r v tag; rw [h]; rfl
@[simp] theorem State.writeReg_g_acc (s : State) (r : Reg) (v : Quad) (tag : Bool) : (s.writeReg r v tag).g.acc = s.g.acc := by
  obtain ⟨_, _, _, _, _, _, _, h⟩ := s.writeReg_eq r v tag; rw [h]; rfl
@[simp] theorem State.writeReg_g_mx (s : State) (r : Reg) (v : Quad) (tag : Bool) : (s.writeReg r v tag).g.mx = s.g.mx := by
  obtain ⟨_, _, _, _, _, _, _, h⟩ := s.writeReg_eq r v tag; rw [h]; rfl
@[simp] theorem State.writeReg_g_mxLast (s : State) (r : Reg) (v : Quad) (tag : Bool) : (s.writeReg r v tag).g.mxLast = s.g.mxLast := by
  obtain ⟨_, _, _, _, _, _, _, h⟩ := s.writeReg_eq r v tag; rw [h]; rfl
@[simp] theorem State.writeReg_g_mxGap (s : State) (r : Reg) (v : Quad) (tag : Bool) : (s.writeReg r v tag).g.mxGap = s.g.mxGap := by
  obtain ⟨_, _, _, _, _, _, _, h⟩ := s.writeReg_eq r v tag; rw [h]; rfl
@[simp] theorem State.writeReg_g_mxDone (s : State) (r : Reg) (v : Quad) (tag : Bool) : (s.writeReg r v tag).g.mxDone = s.g.mxDone := by
  obtain ⟨_, _, _, _, _, _, _, h⟩ := s.writeReg_eq r v tag; rw [h]; rfl
@[simp] theorem State.writeReg_g_fmtA (s : State) (r : Reg) (v : Quad) (tag : Bool) : (s.writeReg r v tag).g.fmtA = s.g.fmtA := by
  obtain ⟨_, _, _, _, _, _, _, h⟩ := s.writeReg_eq r v tag; rw [h]; rfl
@[simp] theorem State.writeReg_g_fmtB (s : State) (r : Reg) (v : Quad) (tag : Bool) : (s.writeReg r v tag).g.fmtB = s.g.fmtB := by
  obtain ⟨_, _, _, _, _, _, _, h⟩ := s.writeReg_eq r v tag; rw [h]; rfl
@[simp] theorem State.writeReg_g_accW (s : State) (r : Reg) (v : Quad) (tag : Bool) : (s.writeReg r v tag).g.accW = s.g.accW := by
  obtain ⟨_, _, _, _, _, _, _, h⟩ := s.writeReg_eq r v tag; rw [h]; rfl
@[simp] theorem State.writeReg_g_saves (s : State) (r : Reg) (v : Quad) (tag : Bool) : (s.writeReg r v tag).g.saves = s.g.saves := by
  obtain ⟨_, _, _, _, _, _, _, h⟩ := s.writeReg_eq r v tag; rw [h]; rfl
@[simp] theorem State.writeReg_g_trig (s : State) (r : Reg) (v : Quad) (tag : Bool) : (s.writeReg r v tag).g.trig = s.g.trig := by
  obtain ⟨_, _, _, _, _, _, _, h⟩ := s.writeReg_eq r v tag; rw [h]; rfl
@[simp] theorem State.writeReg_g_resumed (s : State) (r : Reg) (v : Quad) (tag : Bool) : (s.writeReg r v tag).g.resumed = s.g.resumed := by
  obtain ⟨_, _, _, _, _, _, _, h⟩ := s.writeReg_eq r v tag; rw [h]; rfl
@[simp] theorem State.writeReg_g_frozen (s : State) (r : Reg) (v : Quad) (tag : Bool) : (s.writeReg r v tag).g.frozen = s.g.frozen := by
  obtain ⟨_, _, _, _, _, _, _, h⟩ := s.writeReg_eq r v tag; rw [h]; rfl
@[simp] theorem State.writeReg_g_dhalt (s : State) (r : Reg) (v : Quad) (tag : Bool) : (s.writeReg r v tag).g.dhalt = s.g.dhalt := by
  obtain ⟨_, _, _, _, _, _, _, h⟩ := s.writeReg_eq r v tag; rw [h]; rfl
@[simp] theorem State.writeReg_g_hitBreak (s : State) (r : Reg) (v : Quad) (tag : Bool) : (s.writeReg r v tag).g.hitBreak = s.g.hitBreak := by
  obtain ⟨_, _, _, _, _, _, _, h⟩ := s.writeReg_eq r v tag; rw [h]; rfl
@[simp] theorem State.writeReg_g_disc (s : State) (r : Reg) (v : Quad) (tag : Bool) : (s.writeReg r v tag).g.disc = s.g.disc := by
  obtain ⟨_, _, _, _, _, _, _, h⟩ := s.writeReg_eq r v tag; rw [h]; rfl
@[simp] theorem State.writeReg_g_tvec (s : State) (r : Reg) (v : Quad) (tag : Bool) : (s.writeReg r v tag).g.tvec = s.g.tvec := by
  obtain ⟨_, _, _, _, _, _, _, h⟩ := s.writeReg_eq r v tag; rw [h]; rfl
@[simp] theorem State.writeReg_g_log2 (s : State) (r : Reg) (v : Quad) (tag : Bool) : (s.writeReg r v tag).g.log2 = s.g.log2 := by
  obtain ⟨_, _, _, _, _, _, _, h⟩ := s.writeReg_eq r v tag; rw [h]; rfl
@[simp] theorem State.writeReg_g_discard (s : State) (r : Reg) (v : Quad) (tag : Bool) : (s.writeReg r v tag).g.discard = s.g.discard := by
  obtain ⟨_, _, _, _, _, _, _, h⟩ := s.writeReg_eq r v tag; rw [h]; rfl
@[simp] theorem State.writeReg_g_skips (s : State) (r : Reg) (v : Quad) (tag : Bool) : (s.writeReg r v tag).g.skips = s.g.skips := by
  obtain ⟨_, _, _, _, _, _, _, h⟩ := s.writeReg_eq r v tag; rw [h]; rfl
@[simp] theorem State.writeReg_g_swaps (s : State) (r : Reg) (v : Quad) (tag : Bool) : (s.writeReg r v tag).g.swaps = s.g.swaps := by
  obtain ⟨_, _, _, _, _, _, _, h⟩ := s.writeReg_eq r v tag; rw [h]; rfl
@[simp] theorem State.writeReg_g_instant (s : State) (r : Reg) (v : Quad) (tag : Bool) : (s.writeReg r v tag).g.instant = s.g.instant := by
  obtain ⟨_, _, _, _, _, _, _, h⟩ := s.writeReg_eq r v tag; rw [h]; rfl
@[simp] theorem State.writeReg_g_synclim (s : State) (r : Reg) (v : Quad) (tag : Bool) : (s.writeReg r v tag).g.synclim = s.g.synclim := by
  obtain ⟨_, _, _, _, _, _, _, h⟩ := s.writeReg_eq r v tag; rw [h]; rfl
@[simp] theorem State.writeReg_g_portCopies (s : State) (r : Reg) (v : Quad) (tag : Bool) : (s.writeReg r v tag).g.portCopies = s.g.portCopies := by
  obtain ⟨_, _, _, _, _, _, _, h⟩ := s.writeReg_eq r v tag; rw [h]; rfl
@[simp] theorem State.writeReg_g_cpsel (s : State) (r : Reg) (v : Quad) (tag : Bool) : (s.writeReg r v tag).g.cpsel = s.g.cpsel := by
  obtain ⟨_, _, _, _, _, _, _, h⟩ := s.writeReg_eq r v tag; rw [h]; rfl
@[simp] theorem State.writeReg_g_msgtim (s : State) (r : Reg) (v : Quad) (tag : Bool) : (s.writeReg r v tag).g.msgtim = s.g.msgtim := by
  obtain ⟨_, _, _, _, _, _, _, h⟩ := s.writeReg_eq r v tag; rw [h]; rfl
@[simp] theorem State.writeReg_g_dbgbp (s : State) (r : Reg) (v : Quad) (tag : Bool) : (s.writeReg r v tag).g.dbgbp = s.g.dbgbp := by
  obtain ⟨_, _, _, _, _, _, _, h⟩ := s.writeReg_eq r v tag; rw [h]; rfl
@[simp] theorem State.writeReg_g_csrWrites (s : State) (r : Reg) (v : Quad) (tag : Bool) : (s.writeReg r v tag).g.csrWrites = s.g.csrWrites := by
  obtain ⟨_, _, _, _, _, _, _, h⟩ := s.writeReg_eq r v tag; rw [h]; rfl
@[simp] theorem State.writeReg_g_spad (s : State) (r : Reg) (v : Quad) (tag : Bool) : (s.writeReg r v tag).g.spad = s.g.spad := by
  obtain ⟨_, _, _, _, _, _, _, h⟩ := s.writeReg_eq r v tag; rw [h]; rfl
@[simp] theorem State.writeReg_g_spTags (s : State) (r : Reg) (v : Quad) (tag : Bool) : (s.writeReg r v tag).g.spTags = s.g.spTags := by
  obtain ⟨_, _, _, _, _, _, _, h⟩ := s.writeReg_eq r v tag; rw [h]; rfl
@[simp] theorem State.writeReg_g_spEmpty (s : State) (r : Reg) (v : Quad) (tag : Bool) : (s.writeReg r v tag).g.spEmpty = s.g.spEmpty := by
  obtain ⟨_, _, _, _, _, _, _, h⟩ := s.writeReg_eq r v tag; rw [h]; rfl
@[simp] theorem State.writeReg_g_marks (s : State) (r : Reg) (v : Quad) (tag : Bool) : (s.writeReg r v tag).g.marks = s.g.marks := by
  obtain ⟨_, _, _, _, _, _, _, h⟩ := s.writeReg_eq r v tag; rw [h]; rfl
@[simp] theorem State.writeReg_g_wordClocks (s : State) (r : Reg) (v : Quad) (tag : Bool) : (s.writeReg r v tag).g.wordClocks = s.g.wordClocks := by
  obtain ⟨_, _, _, _, _, _, _, h⟩ := s.writeReg_eq r v tag; rw [h]; rfl
@[simp] theorem State.writeReg_g_badWords (s : State) (r : Reg) (v : Quad) (tag : Bool) : (s.writeReg r v tag).g.badWords = s.g.badWords := by
  obtain ⟨_, _, _, _, _, _, _, h⟩ := s.writeReg_eq r v tag; rw [h]; rfl
@[simp] theorem State.writeReg_g_barPend (s : State) (r : Reg) (v : Quad) (tag : Bool) : (s.writeReg r v tag).g.barPend = s.g.barPend := by
  obtain ⟨_, _, _, _, _, _, _, h⟩ := s.writeReg_eq r v tag; rw [h]; rfl
@[simp] theorem State.writeReg_g_barClocks (s : State) (r : Reg) (v : Quad) (tag : Bool) : (s.writeReg r v tag).g.barClocks = s.g.barClocks := by
  obtain ⟨_, _, _, _, _, _, _, h⟩ := s.writeReg_eq r v tag; rw [h]; rfl
@[simp] theorem State.writeReg_g_deque (s : State) (r : Reg) (v : Quad) (tag : Bool) : (s.writeReg r v tag).g.deque = s.g.deque := by
  obtain ⟨_, _, _, _, _, _, _, h⟩ := s.writeReg_eq r v tag; rw [h]; rfl
@[simp] theorem State.writeReg_g_store (s : State) (r : Reg) (v : Quad) (tag : Bool) : (s.writeReg r v tag).g.store = s.g.store := by
  obtain ⟨_, _, _, _, _, _, _, h⟩ := s.writeReg_eq r v tag; rw [h]; rfl
@[simp] theorem State.writeReg_g_routes (s : State) (r : Reg) (v : Quad) (tag : Bool) : (s.writeReg r v tag).g.routes = s.g.routes := by
  obtain ⟨_, _, _, _, _, _, _, h⟩ := s.writeReg_eq r v tag; rw [h]; rfl
@[simp] theorem State.writeReg_g_links (s : State) (r : Reg) (v : Quad) (tag : Bool) : (s.writeReg r v tag).g.links = s.g.links := by
  obtain ⟨_, _, _, _, _, _, _, h⟩ := s.writeReg_eq r v tag; rw [h]; rfl
@[simp] theorem State.writeReg_g_inbox (s : State) (r : Reg) (v : Quad) (tag : Bool) : (s.writeReg r v tag).g.inbox = s.g.inbox := by
  obtain ⟨_, _, _, _, _, _, _, h⟩ := s.writeReg_eq r v tag; rw [h]; rfl
@[simp] theorem State.writeReg_g_left (s : State) (r : Reg) (v : Quad) (tag : Bool) : (s.writeReg r v tag).g.left = s.g.left := by
  obtain ⟨_, _, _, _, _, _, _, h⟩ := s.writeReg_eq r v tag; rw [h]; rfl
@[simp] theorem State.writeReg_g_clockNote (s : State) (r : Reg) (v : Quad) (tag : Bool) : (s.writeReg r v tag).g.clockNote = s.g.clockNote := by
  obtain ⟨_, _, _, _, _, _, _, h⟩ := s.writeReg_eq r v tag; rw [h]; rfl
@[simp] theorem State.writeReg_g_arrivals (s : State) (r : Reg) (v : Quad) (tag : Bool) : (s.writeReg r v tag).g.arrivals = s.g.arrivals := by
  obtain ⟨_, _, _, _, _, _, _, h⟩ := s.writeReg_eq r v tag; rw [h]; rfl
@[simp] theorem State.writeReg_g_absent (s : State) (r : Reg) (v : Quad) (tag : Bool) : (s.writeReg r v tag).g.absent = s.g.absent := by
  obtain ⟨_, _, _, _, _, _, _, h⟩ := s.writeReg_eq r v tag; rw [h]; rfl
@[simp] theorem State.writeReg_g_inboxQ (s : State) (r : Reg) (v : Quad) (tag : Bool) : (s.writeReg r v tag).g.inboxQ = s.g.inboxQ := by
  obtain ⟨_, _, _, _, _, _, _, h⟩ := s.writeReg_eq r v tag; rw [h]; rfl
@[simp] theorem State.writeReg_g_refusals (s : State) (r : Reg) (v : Quad) (tag : Bool) : (s.writeReg r v tag).g.refusals = s.g.refusals := by
  obtain ⟨_, _, _, _, _, _, _, h⟩ := s.writeReg_eq r v tag; rw [h]; rfl
@[simp] theorem State.writeReg_g_ops (s : State) (r : Reg) (v : Quad) (tag : Bool) : (s.writeReg r v tag).g.ops = s.g.ops := by
  obtain ⟨_, _, _, _, _, _, _, h⟩ := s.writeReg_eq r v tag; rw [h]; rfl
@[simp] theorem State.writeReg_g_em (s : State) (r : Reg) (v : Quad) (tag : Bool) : (s.writeReg r v tag).g.em = s.g.em := by
  obtain ⟨_, _, _, _, _, _, _, h⟩ := s.writeReg_eq r v tag; rw [h]; rfl
@[simp] theorem State.writeReg_g_emits (s : State) (r : Reg) (v : Quad) (tag : Bool) : (s.writeReg r v tag).g.emits = s.g.emits := by
  obtain ⟨_, _, _, _, _, _, _, h⟩ := s.writeReg_eq r v tag; rw [h]; rfl
@[simp] theorem State.writeReg_g_present (s : State) (r : Reg) (v : Quad) (tag : Bool) : (s.writeReg r v tag).g.present = s.g.present := by
  obtain ⟨_, _, _, _, _, _, _, h⟩ := s.writeReg_eq r v tag; rw [h]; rfl
@[simp] theorem State.writeReg_g_absentS (s : State) (r : Reg) (v : Quad) (tag : Bool) : (s.writeReg r v tag).g.absentS = s.g.absentS := by
  obtain ⟨_, _, _, _, _, _, _, h⟩ := s.writeReg_eq r v tag; rw [h]; rfl
@[simp] theorem State.writeReg_g_relSeen (s : State) (r : Reg) (v : Quad) (tag : Bool) : (s.writeReg r v tag).g.relSeen = s.g.relSeen := by
  obtain ⟨_, _, _, _, _, _, _, h⟩ := s.writeReg_eq r v tag; rw [h]; rfl
@[simp] theorem State.writeReg_g_prevEm (s : State) (r : Reg) (v : Quad) (tag : Bool) : (s.writeReg r v tag).g.prevEm = s.g.prevEm := by
  obtain ⟨_, _, _, _, _, _, _, h⟩ := s.writeReg_eq r v tag; rw [h]; rfl
@[simp] theorem State.writeReg_g_prevSlot (s : State) (r : Reg) (v : Quad) (tag : Bool) : (s.writeReg r v tag).g.prevSlot = s.g.prevSlot := by
  obtain ⟨_, _, _, _, _, _, _, h⟩ := s.writeReg_eq r v tag; rw [h]; rfl
@[simp] theorem State.writeReg_g_lastIssue (s : State) (r : Reg) (v : Quad) (tag : Bool) : (s.writeReg r v tag).g.lastIssue = s.g.lastIssue := by
  obtain ⟨_, _, _, _, _, _, _, h⟩ := s.writeReg_eq r v tag; rw [h]; rfl
@[simp] theorem State.writeReg_g_goneBars (s : State) (r : Reg) (v : Quad) (tag : Bool) : (s.writeReg r v tag).g.goneBars = s.g.goneBars := by
  obtain ⟨_, _, _, _, _, _, _, h⟩ := s.writeReg_eq r v tag; rw [h]; rfl
@[simp] theorem State.writeReg_g_turnEnds (s : State) (r : Reg) (v : Quad) (tag : Bool) : (s.writeReg r v tag).g.turnEnds = s.g.turnEnds := by
  obtain ⟨_, _, _, _, _, _, _, h⟩ := s.writeReg_eq r v tag; rw [h]; rfl
@[simp] theorem State.writeReg_g_stop (s : State) (r : Reg) (v : Quad) (tag : Bool) : (s.writeReg r v tag).g.stop = s.g.stop := by
  obtain ⟨_, _, _, _, _, _, _, h⟩ := s.writeReg_eq r v tag; rw [h]; rfl
@[simp] theorem State.writeReg_g_outWhy (s : State) (r : Reg) (v : Quad) (tag : Bool) : (s.writeReg r v tag).g.outWhy = s.g.outWhy := by
  obtain ⟨_, _, _, _, _, _, _, h⟩ := s.writeReg_eq r v tag; rw [h]; rfl
@[simp] theorem State.writeReg_g_begun (s : State) (r : Reg) (v : Quad) (tag : Bool) : (s.writeReg r v tag).g.begun = s.g.begun := by
  obtain ⟨_, _, _, _, _, _, _, h⟩ := s.writeReg_eq r v tag; rw [h]; rfl
@[simp] theorem State.writeReg_g_stealAt (s : State) (r : Reg) (v : Quad) (tag : Bool) : (s.writeReg r v tag).g.stealAt = s.g.stealAt := by
  obtain ⟨_, _, _, _, _, _, _, h⟩ := s.writeReg_eq r v tag; rw [h]; rfl
@[simp] theorem State.writeReg_g_stealing (s : State) (r : Reg) (v : Quad) (tag : Bool) : (s.writeReg r v tag).g.stealing = s.g.stealing := by
  obtain ⟨_, _, _, _, _, _, _, h⟩ := s.writeReg_eq r v tag; rw [h]; rfl
@[simp] theorem State.writeReg_g_inherit (s : State) (r : Reg) (v : Quad) (tag : Bool) : (s.writeReg r v tag).g.inherit = s.g.inherit := by
  obtain ⟨_, _, _, _, _, _, _, h⟩ := s.writeReg_eq r v tag; rw [h]; rfl
@[simp] theorem State.writeReg_g_handTile (s : State) (r : Reg) (v : Quad) (tag : Bool) : (s.writeReg r v tag).g.handTile = s.g.handTile := by
  obtain ⟨_, _, _, _, _, _, _, h⟩ := s.writeReg_eq r v tag; rw [h]; rfl
@[simp] theorem State.writeReg_st_run (s : State) (r : Reg) (v : Quad) (tag : Bool) : (s.writeReg r v tag).st.run = s.st.run := by
  obtain ⟨_, _, _, _, _, _, _, h⟩ := s.writeReg_eq r v tag; rw [h]; simp
@[simp] theorem State.writeReg_st_prog (s : State) (r : Reg) (v : Quad) (tag : Bool) : (s.writeReg r v tag).st.prog = s.st.prog := by
  obtain ⟨_, _, _, _, _, _, _, h⟩ := s.writeReg_eq r v tag; rw [h]; simp
@[simp] theorem State.writeReg_st_consumed (s : State) (r : Reg) (v : Quad) (tag : Bool) : (s.writeReg r v tag).st.consumed = s.st.consumed := by
  obtain ⟨_, _, _, _, _, _, _, h⟩ := s.writeReg_eq r v tag; rw [h]; simp
@[simp] theorem State.writeReg_st_again (s : State) (r : Reg) (v : Quad) (tag : Bool) : (s.writeReg r v tag).st.again = s.st.again := by
  obtain ⟨_, _, _, _, _, _, _, h⟩ := s.writeReg_eq r v tag; rw [h]; simp
@[simp] theorem State.writeReg_st_spared (s : State) (r : Reg) (v : Quad) (tag : Bool) : (s.writeReg r v tag).st.spared = s.st.spared := by
  obtain ⟨_, _, _, _, _, _, _, h⟩ := s.writeReg_eq r v tag; rw [h]; simp
@[simp] theorem State.writeReg_st_took (s : State) (r : Reg) (v : Quad) (tag : Bool) : (s.writeReg r v tag).st.took = s.st.took := by
  obtain ⟨_, _, _, _, _, _, _, h⟩ := s.writeReg_eq r v tag; rw [h]; simp
@[simp] theorem State.writeReg_st_kept (s : State) (r : Reg) (v : Quad) (tag : Bool) : (s.writeReg r v tag).st.kept = s.st.kept := by
  obtain ⟨_, _, _, _, _, _, _, h⟩ := s.writeReg_eq r v tag; rw [h]; simp
@[simp] theorem State.writeReg_st_walkWant (s : State) (r : Reg) (v : Quad) (tag : Bool) : (s.writeReg r v tag).st.walkWant = s.st.walkWant := by
  obtain ⟨_, _, _, _, _, _, _, h⟩ := s.writeReg_eq r v tag; rw [h]; simp
@[simp] theorem State.writeReg_st_walkFault (s : State) (r : Reg) (v : Quad) (tag : Bool) : (s.writeReg r v tag).st.walkFault = s.st.walkFault := by
  obtain ⟨_, _, _, _, _, _, _, h⟩ := s.writeReg_eq r v tag; rw [h]; simp
@[simp] theorem State.writeReg_st_p (s : State) (r : Reg) (v : Quad) (tag : Bool) : (s.writeReg r v tag).st.p = s.st.p := by
  obtain ⟨_, _, _, _, _, _, _, h⟩ := s.writeReg_eq r v tag; rw [h]; simp
@[simp] theorem State.writeReg_st_fcap (s : State) (r : Reg) (v : Quad) (tag : Bool) : (s.writeReg r v tag).st.fcap = s.st.fcap := by
  obtain ⟨_, _, _, _, _, _, _, h⟩ := s.writeReg_eq r v tag; rw [h]; simp
@[simp] theorem State.writeReg_st_rcap (s : State) (r : Reg) (v : Quad) (tag : Bool) : (s.writeReg r v tag).st.rcap = s.st.rcap := by
  obtain ⟨_, _, _, _, _, _, _, h⟩ := s.writeReg_eq r v tag; rw [h]; simp
@[simp] theorem State.writeReg_st_kernel (s : State) (r : Reg) (v : Quad) (tag : Bool) : (s.writeReg r v tag).st.kernel = s.st.kernel := by
  obtain ⟨_, _, _, _, _, _, _, h⟩ := s.writeReg_eq r v tag; rw [h]; simp
@[simp] theorem State.writeReg_st_pl (s : State) (r : Reg) (v : Quad) (tag : Bool) : (s.writeReg r v tag).st.pl = s.st.pl := by
  obtain ⟨_, _, _, _, _, _, _, h⟩ := s.writeReg_eq r v tag; rw [h]; simp
@[simp] theorem State.writeReg_st_depth (s : State) (r : Reg) (v : Quad) (tag : Bool) : (s.writeReg r v tag).st.depth = s.st.depth := by
  obtain ⟨_, _, _, _, _, _, _, h⟩ := s.writeReg_eq r v tag; rw [h]; simp
@[simp] theorem State.writeReg_st_save (s : State) (r : Reg) (v : Quad) (tag : Bool) : (s.writeReg r v tag).st.save = s.st.save := by
  obtain ⟨_, _, _, _, _, _, _, h⟩ := s.writeReg_eq r v tag; rw [h]; simp
@[simp] theorem State.writeReg_st_fcsr (s : State) (r : Reg) (v : Quad) (tag : Bool) : (s.writeReg r v tag).st.fcsr = s.st.fcsr := by
  obtain ⟨_, _, _, _, _, _, _, h⟩ := s.writeReg_eq r v tag; rw [h]; simp
@[simp] theorem State.writeReg_st_tmask (s : State) (r : Reg) (v : Quad) (tag : Bool) : (s.writeReg r v tag).st.tmask = s.st.tmask := by
  obtain ⟨_, _, _, _, _, _, _, h⟩ := s.writeReg_eq r v tag; rw [h]; simp
@[simp] theorem State.writeReg_st_ae (s : State) (r : Reg) (v : Quad) (tag : Bool) : (s.writeReg r v tag).st.ae = s.st.ae := by
  obtain ⟨_, _, _, _, _, _, _, h⟩ := s.writeReg_eq r v tag; rw [h]; simp
@[simp] theorem State.writeReg_st_canemit (s : State) (r : Reg) (v : Quad) (tag : Bool) : (s.writeReg r v tag).st.canemit = s.st.canemit := by
  obtain ⟨_, _, _, _, _, _, _, h⟩ := s.writeReg_eq r v tag; rw [h]; simp
@[simp] theorem State.writeReg_st_canrld (s : State) (r : Reg) (v : Quad) (tag : Bool) : (s.writeReg r v tag).st.canrld = s.st.canrld := by
  obtain ⟨_, _, _, _, _, _, _, h⟩ := s.writeReg_eq r v tag; rw [h]; simp
@[simp] theorem State.writeReg_st_awaitSig (s : State) (r : Reg) (v : Quad) (tag : Bool) : (s.writeReg r v tag).st.awaitSig = s.st.awaitSig := by
  obtain ⟨_, _, _, _, _, _, _, h⟩ := s.writeReg_eq r v tag; rw [h]; simp
@[simp] theorem State.writeReg_st_wdepth (s : State) (r : Reg) (v : Quad) (tag : Bool) : (s.writeReg r v tag).st.wdepth = s.st.wdepth := by
  obtain ⟨_, _, _, _, _, _, _, h⟩ := s.writeReg_eq r v tag; rw [h]; simp
@[simp] theorem State.writeReg_st_watch (s : State) (r : Reg) (v : Quad) (tag : Bool) : (s.writeReg r v tag).st.watch = s.st.watch := by
  obtain ⟨_, _, _, _, _, _, _, h⟩ := s.writeReg_eq r v tag; rw [h]; simp
@[simp] theorem State.writeReg_st_trappc (s : State) (r : Reg) (v : Quad) (tag : Bool) : (s.writeReg r v tag).st.trappc = s.st.trappc := by
  obtain ⟨_, _, _, _, _, _, _, h⟩ := s.writeReg_eq r v tag; rw [h]; simp
@[simp] theorem State.writeReg_st_trapinfo (s : State) (r : Reg) (v : Quad) (tag : Bool) : (s.writeReg r v tag).st.trapinfo = s.st.trapinfo := by
  obtain ⟨_, _, _, _, _, _, _, h⟩ := s.writeReg_eq r v tag; rw [h]; simp
@[simp] theorem State.writeReg_st_trapval (s : State) (r : Reg) (v : Quad) (tag : Bool) : (s.writeReg r v tag).st.trapval = s.st.trapval := by
  obtain ⟨_, _, _, _, _, _, _, h⟩ := s.writeReg_eq r v tag; rw [h]; simp
@[simp] theorem State.writeReg_st_path (s : State) (r : Reg) (v : Quad) (tag : Bool) : (s.writeReg r v tag).st.path = s.st.path := by
  obtain ⟨_, _, _, _, _, _, _, h⟩ := s.writeReg_eq r v tag; rw [h]; simp
@[simp] theorem State.writeReg_st_mbox (s : State) (r : Reg) (v : Quad) (tag : Bool) : (s.writeReg r v tag).st.mbox = s.st.mbox := by
  obtain ⟨_, _, _, _, _, _, _, h⟩ := s.writeReg_eq r v tag; rw [h]; simp
@[simp] theorem State.writeReg_st_wdlim (s : State) (r : Reg) (v : Quad) (tag : Bool) : (s.writeReg r v tag).st.wdlim = s.st.wdlim := by
  obtain ⟨_, _, _, _, _, _, _, h⟩ := s.writeReg_eq r v tag; rw [h]; simp
@[simp] theorem State.writeReg_st_wdcount (s : State) (r : Reg) (v : Quad) (tag : Bool) : (s.writeReg r v tag).st.wdcount = s.st.wdcount := by
  obtain ⟨_, _, _, _, _, _, _, h⟩ := s.writeReg_eq r v tag; rw [h]; simp
@[simp] theorem State.writeReg_st_wdFrom (s : State) (r : Reg) (v : Quad) (tag : Bool) : (s.writeReg r v tag).st.wdFrom = s.st.wdFrom := by
  obtain ⟨_, _, _, _, _, _, _, h⟩ := s.writeReg_eq r v tag; rw [h]; simp
@[simp] theorem State.writeReg_st_whNext (s : State) (r : Reg) (v : Quad) (tag : Bool) : (s.writeReg r v tag).st.whNext = s.st.whNext := by
  obtain ⟨_, _, _, _, _, _, _, h⟩ := s.writeReg_eq r v tag; rw [h]; simp
@[simp] theorem State.writeReg_st_excused (s : State) (r : Reg) (v : Quad) (tag : Bool) : (s.writeReg r v tag).st.excused = s.st.excused := by
  obtain ⟨_, _, _, _, _, _, _, h⟩ := s.writeReg_eq r v tag; rw [h]; simp
@[simp] theorem State.writeReg_st_rejoin (s : State) (r : Reg) (v : Quad) (tag : Bool) : (s.writeReg r v tag).st.rejoin = s.st.rejoin := by
  obtain ⟨_, _, _, _, _, _, _, h⟩ := s.writeReg_eq r v tag; rw [h]; simp
@[simp] theorem State.writeReg_st_lease (s : State) (r : Reg) (v : Quad) (tag : Bool) : (s.writeReg r v tag).st.lease = s.st.lease := by
  obtain ⟨_, _, _, _, _, _, _, h⟩ := s.writeReg_eq r v tag; rw [h]; simp
@[simp] theorem State.writeReg_st_gen0 (s : State) (r : Reg) (v : Quad) (tag : Bool) : (s.writeReg r v tag).st.gen0 = s.st.gen0 := by
  obtain ⟨_, _, _, _, _, _, _, h⟩ := s.writeReg_eq r v tag; rw [h]; simp
@[simp] theorem State.writeReg_st_gen1 (s : State) (r : Reg) (v : Quad) (tag : Bool) : (s.writeReg r v tag).st.gen1 = s.st.gen1 := by
  obtain ⟨_, _, _, _, _, _, _, h⟩ := s.writeReg_eq r v tag; rw [h]; simp
@[simp] theorem State.writeReg_st_nchild (s : State) (r : Reg) (v : Quad) (tag : Bool) : (s.writeReg r v tag).st.nchild = s.st.nchild := by
  obtain ⟨_, _, _, _, _, _, _, h⟩ := s.writeReg_eq r v tag; rw [h]; simp
@[simp] theorem State.writeReg_st_outc (s : State) (r : Reg) (v : Quad) (tag : Bool) : (s.writeReg r v tag).st.outc = s.st.outc := by
  obtain ⟨_, _, _, _, _, _, _, h⟩ := s.writeReg_eq r v tag; rw [h]; simp
@[simp] theorem State.writeReg_st_task (s : State) (r : Reg) (v : Quad) (tag : Bool) : (s.writeReg r v tag).st.task = s.st.task := by
  obtain ⟨_, _, _, _, _, _, _, h⟩ := s.writeReg_eq r v tag; rw [h]; simp
@[simp] theorem State.writeReg_st_parent (s : State) (r : Reg) (v : Quad) (tag : Bool) : (s.writeReg r v tag).st.parent = s.st.parent := by
  obtain ⟨_, _, _, _, _, _, _, h⟩ := s.writeReg_eq r v tag; rw [h]; simp
@[simp] theorem State.writeReg_st_parentTag (s : State) (r : Reg) (v : Quad) (tag : Bool) : (s.writeReg r v tag).st.parentTag = s.st.parentTag := by
  obtain ⟨_, _, _, _, _, _, _, h⟩ := s.writeReg_eq r v tag; rw [h]; simp
@[simp] theorem State.writeReg_st_serial (s : State) (r : Reg) (v : Quad) (tag : Bool) : (s.writeReg r v tag).st.serial = s.st.serial := by
  obtain ⟨_, _, _, _, _, _, _, h⟩ := s.writeReg_eq r v tag; rw [h]; simp
@[simp] theorem State.writeReg_st_msgSeq (s : State) (r : Reg) (v : Quad) (tag : Bool) : (s.writeReg r v tag).st.msgSeq = s.st.msgSeq := by
  obtain ⟨_, _, _, _, _, _, _, h⟩ := s.writeReg_eq r v tag; rw [h]; simp
@[simp] theorem State.writeReg_st_outstanding (s : State) (r : Reg) (v : Quad) (tag : Bool) : (s.writeReg r v tag).st.outstanding = s.st.outstanding := by
  obtain ⟨_, _, _, _, _, _, _, h⟩ := s.writeReg_eq r v tag; rw [h]; simp
@[simp] theorem State.writeReg_st_lastMsg (s : State) (r : Reg) (v : Quad) (tag : Bool) : (s.writeReg r v tag).st.lastMsg = s.st.lastMsg := by
  obtain ⟨_, _, _, _, _, _, _, h⟩ := s.writeReg_eq r v tag; rw [h]; simp
@[simp] theorem State.writeReg_st_ackLost (s : State) (r : Reg) (v : Quad) (tag : Bool) : (s.writeReg r v tag).st.ackLost = s.st.ackLost := by
  obtain ⟨_, _, _, _, _, _, _, h⟩ := s.writeReg_eq r v tag; rw [h]; simp
@[simp] theorem State.writeReg_st_clock (s : State) (r : Reg) (v : Quad) (tag : Bool) : (s.writeReg r v tag).st.clock = s.st.clock := by
  obtain ⟨_, _, _, _, _, _, _, h⟩ := s.writeReg_eq r v tag; rw [h]; simp
@[simp] theorem State.writeReg_st_kidClock (s : State) (r : Reg) (v : Quad) (tag : Bool) : (s.writeReg r v tag).st.kidClock = s.st.kidClock := by
  obtain ⟨_, _, _, _, _, _, _, h⟩ := s.writeReg_eq r v tag; rw [h]; simp
@[simp] theorem State.writeReg_st_bars (s : State) (r : Reg) (v : Quad) (tag : Bool) : (s.writeReg r v tag).st.bars = s.st.bars := by
  obtain ⟨_, _, _, _, _, _, _, h⟩ := s.writeReg_eq r v tag; rw [h]; simp
@[simp] theorem State.writeReg_st_ofences (s : State) (r : Reg) (v : Quad) (tag : Bool) : (s.writeReg r v tag).st.ofences = s.st.ofences := by
  obtain ⟨_, _, _, _, _, _, _, h⟩ := s.writeReg_eq r v tag; rw [h]; simp
@[simp] theorem State.writeReg_st_nextIssue (s : State) (r : Reg) (v : Quad) (tag : Bool) : (s.writeReg r v tag).st.nextIssue = s.st.nextIssue := by
  obtain ⟨_, _, _, _, _, _, _, h⟩ := s.writeReg_eq r v tag; rw [h]; simp
@[simp] theorem State.writeReg_st_ringFrom (s : State) (r : Reg) (v : Quad) (tag : Bool) : (s.writeReg r v tag).st.ringFrom = s.st.ringFrom := by
  obtain ⟨_, _, _, _, _, _, _, h⟩ := s.writeReg_eq r v tag; rw [h]; simp
@[simp] theorem State.writeReg_st_stopped (s : State) (r : Reg) (v : Quad) (tag : Bool) : (s.writeReg r v tag).st.stopped = s.st.stopped := by
  obtain ⟨_, _, _, _, _, _, _, h⟩ := s.writeReg_eq r v tag; rw [h]; simp
@[simp] theorem State.writeReg_st_held (s : State) (r : Reg) (v : Quad) (tag : Bool) : (s.writeReg r v tag).st.held = s.st.held := by
  obtain ⟨_, _, _, _, _, _, _, h⟩ := s.writeReg_eq r v tag; rw [h]; simp
@[simp] theorem State.writeReg_st_passBreak (s : State) (r : Reg) (v : Quad) (tag : Bool) : (s.writeReg r v tag).st.passBreak = s.st.passBreak := by
  obtain ⟨_, _, _, _, _, _, _, h⟩ := s.writeReg_eq r v tag; rw [h]; simp
@[simp] theorem State.writeReg_st_brk (s : State) (r : Reg) (v : Quad) (tag : Bool) : (s.writeReg r v tag).st.brk = s.st.brk := by
  obtain ⟨_, _, _, _, _, _, _, h⟩ := s.writeReg_eq r v tag; rw [h]; simp
@[simp] theorem State.writeReg_st_joinDead (s : State) (r : Reg) (v : Quad) (tag : Bool) : (s.writeReg r v tag).st.joinDead = s.st.joinDead := by
  obtain ⟨_, _, _, _, _, _, _, h⟩ := s.writeReg_eq r v tag; rw [h]; simp
@[simp] theorem State.writeReg_st_poolFault (s : State) (r : Reg) (v : Quad) (tag : Bool) : (s.writeReg r v tag).st.poolFault = s.st.poolFault := by
  obtain ⟨_, _, _, _, _, _, _, h⟩ := s.writeReg_eq r v tag; rw [h]; simp

@[simp] theorem State.writeReg_st_cycleDue (s : State) (r : Reg) (v : Quad) (tag : Bool) : (s.writeReg r v tag).st.cycleDue = s.st.cycleDue := by
  obtain ⟨_, _, _, _, _, _, _, h⟩ := s.writeReg_eq r v tag; rw [h]; simp

/-! ### After marking a register outstanding -/

@[simp] theorem State.markOut_slot (s : State) (r : Reg) : (s.markOut r).slot = s.slot := by
  obtain ⟨_, _, _, _, _, _, _, h⟩ := s.markOut_eq r; rw [h]; rfl
@[simp] theorem State.markOut_others (s : State) (r : Reg) : (s.markOut r).others = s.others := by
  obtain ⟨_, _, _, _, _, _, _, h⟩ := s.markOut_eq r; rw [h]; rfl
@[simp] theorem State.markOut_launches (s : State) (r : Reg) : (s.markOut r).launches = s.launches := by
  obtain ⟨_, _, _, _, _, _, _, h⟩ := s.markOut_eq r; rw [h]; rfl
@[simp] theorem State.markOut_tenants (s : State) (r : Reg) : (s.markOut r).tenants = s.tenants := by
  obtain ⟨_, _, _, _, _, _, _, h⟩ := s.markOut_eq r; rw [h]; rfl
@[simp] theorem State.markOut_dies (s : State) (r : Reg) : (s.markOut r).dies = s.dies := by
  obtain ⟨_, _, _, _, _, _, _, h⟩ := s.markOut_eq r; rw [h]; rfl
@[simp] theorem State.markOut_regions (s : State) (r : Reg) : (s.markOut r).regions = s.regions := by
  obtain ⟨_, _, _, _, _, _, _, h⟩ := s.markOut_eq r; rw [h]; rfl
@[simp] theorem State.markOut_dev (s : State) (r : Reg) : (s.markOut r).dev = s.dev := by
  obtain ⟨_, _, _, _, _, _, _, h⟩ := s.markOut_eq r; rw [h]; rfl
@[simp] theorem State.markOut_mem (s : State) (r : Reg) : (s.markOut r).mem = s.mem := by
  obtain ⟨_, _, _, _, _, _, _, h⟩ := s.markOut_eq r; rw [h]; rfl
@[simp] theorem State.markOut_memTags (s : State) (r : Reg) : (s.markOut r).memTags = s.memTags := by
  obtain ⟨_, _, _, _, _, _, _, h⟩ := s.markOut_eq r; rw [h]; rfl
@[simp] theorem State.markOut_chans (s : State) (r : Reg) : (s.markOut r).chans = s.chans := by
  obtain ⟨_, _, _, _, _, _, _, h⟩ := s.markOut_eq r; rw [h]; rfl
@[simp] theorem State.markOut_rets (s : State) (r : Reg) : (s.markOut r).rets = s.rets := by
  obtain ⟨_, _, _, _, _, _, _, h⟩ := s.markOut_eq r; rw [h]; rfl
@[simp] theorem State.markOut_pools (s : State) (r : Reg) : (s.markOut r).pools = s.pools := by
  obtain ⟨_, _, _, _, _, _, _, h⟩ := s.markOut_eq r; rw [h]; rfl
@[simp] theorem State.markOut_lastPool (s : State) (r : Reg) : (s.markOut r).lastPool = s.lastPool := by
  obtain ⟨_, _, _, _, _, _, _, h⟩ := s.markOut_eq r; rw [h]; rfl
@[simp] theorem State.markOut_takes (s : State) (r : Reg) : (s.markOut r).takes = s.takes := by
  obtain ⟨_, _, _, _, _, _, _, h⟩ := s.markOut_eq r; rw [h]; rfl
@[simp] theorem State.markOut_replies (s : State) (r : Reg) : (s.markOut r).replies = s.replies := by
  obtain ⟨_, _, _, _, _, _, _, h⟩ := s.markOut_eq r; rw [h]; rfl
@[simp] theorem State.markOut_leaseAcks (s : State) (r : Reg) : (s.markOut r).leaseAcks = s.leaseAcks := by
  obtain ⟨_, _, _, _, _, _, _, h⟩ := s.markOut_eq r; rw [h]; rfl
@[simp] theorem State.markOut_held (s : State) (r : Reg) : (s.markOut r).held = s.held := by
  obtain ⟨_, _, _, _, _, _, _, h⟩ := s.markOut_eq r; rw [h]; rfl
@[simp] theorem State.markOut_landed (s : State) (r : Reg) : (s.markOut r).landed = s.landed := by
  obtain ⟨_, _, _, _, _, _, _, h⟩ := s.markOut_eq r; rw [h]; rfl
@[simp] theorem State.markOut_blocks (s : State) (r : Reg) : (s.markOut r).blocks = s.blocks := by
  obtain ⟨_, _, _, _, _, _, _, h⟩ := s.markOut_eq r; rw [h]; rfl
@[simp] theorem State.markOut_msgAcks (s : State) (r : Reg) : (s.markOut r).msgAcks = s.msgAcks := by
  obtain ⟨_, _, _, _, _, _, _, h⟩ := s.markOut_eq r; rw [h]; rfl
@[simp] theorem State.markOut_oprobes (s : State) (r : Reg) : (s.markOut r).oprobes = s.oprobes := by
  obtain ⟨_, _, _, _, _, _, _, h⟩ := s.markOut_eq r; rw [h]; rfl
@[simp] theorem State.markOut_relayAcks (s : State) (r : Reg) : (s.markOut r).relayAcks = s.relayAcks := by
  obtain ⟨_, _, _, _, _, _, _, h⟩ := s.markOut_eq r; rw [h]; rfl
@[simp] theorem State.markOut_images (s : State) (r : Reg) : (s.markOut r).images = s.images := by
  obtain ⟨_, _, _, _, _, _, _, h⟩ := s.markOut_eq r; rw [h]; rfl
@[simp] theorem State.markOut_points (s : State) (r : Reg) : (s.markOut r).points = s.points := by
  obtain ⟨_, _, _, _, _, _, _, h⟩ := s.markOut_eq r; rw [h]; rfl
@[simp] theorem State.markOut_hostOut (s : State) (r : Reg) : (s.markOut r).hostOut = s.hostOut := by
  obtain ⟨_, _, _, _, _, _, _, h⟩ := s.markOut_eq r; rw [h]; rfl
@[simp] theorem State.markOut_dbg (s : State) (r : Reg) : (s.markOut r).dbg = s.dbg := by
  obtain ⟨_, _, _, _, _, _, _, h⟩ := s.markOut_eq r; rw [h]; rfl
@[simp] theorem State.markOut_objects (s : State) (r : Reg) : (s.markOut r).objects = s.objects := by
  obtain ⟨_, _, _, _, _, _, _, h⟩ := s.markOut_eq r; rw [h]; rfl
@[simp] theorem State.markOut_tools (s : State) (r : Reg) : (s.markOut r).tools = s.tools := by
  obtain ⟨_, _, _, _, _, _, _, h⟩ := s.markOut_eq r; rw [h]; rfl
@[simp] theorem State.markOut_steals (s : State) (r : Reg) : (s.markOut r).steals = s.steals := by
  obtain ⟨_, _, _, _, _, _, _, h⟩ := s.markOut_eq r; rw [h]; rfl
@[simp] theorem State.markOut_now (s : State) (r : Reg) : (s.markOut r).now = s.now := by
  obtain ⟨_, _, _, _, _, _, _, h⟩ := s.markOut_eq r; rw [h]; rfl
@[simp] theorem State.markOut_agenda (s : State) (r : Reg) : (s.markOut r).agenda = s.agenda := by
  obtain ⟨_, _, _, _, _, _, _, h⟩ := s.markOut_eq r; rw [h]; rfl
@[simp] theorem State.markOut_fresh (s : State) (r : Reg) : (s.markOut r).fresh = s.fresh := by
  obtain ⟨_, _, _, _, _, _, _, h⟩ := s.markOut_eq r; rw [h]; rfl
@[simp] theorem State.markOut_nextId (s : State) (r : Reg) : (s.markOut r).nextId = s.nextId := by
  obtain ⟨_, _, _, _, _, _, _, h⟩ := s.markOut_eq r; rw [h]; rfl
@[simp] theorem State.markOut_g_gid (s : State) (r : Reg) : (s.markOut r).g.gid = s.g.gid := by
  obtain ⟨_, _, _, _, _, _, _, h⟩ := s.markOut_eq r; rw [h]; rfl
@[simp] theorem State.markOut_g_state (s : State) (r : Reg) : (s.markOut r).g.state = s.g.state := by
  obtain ⟨_, _, _, _, _, _, _, h⟩ := s.markOut_eq r; rw [h]; rfl
@[simp] theorem State.markOut_g_place (s : State) (r : Reg) : (s.markOut r).g.place = s.g.place := by
  obtain ⟨_, _, _, _, _, _, _, h⟩ := s.markOut_eq r; rw [h]; rfl
@[simp] theorem State.markOut_g_logical (s : State) (r : Reg) : (s.markOut r).g.logical = s.g.logical := by
  obtain ⟨_, _, _, _, _, _, _, h⟩ := s.markOut_eq r; rw [h]; rfl
@[simp] theorem State.markOut_g_homeDie (s : State) (r : Reg) : (s.markOut r).g.homeDie = s.g.homeDie := by
  obtain ⟨_, _, _, _, _, _, _, h⟩ := s.markOut_eq r; rw [h]; rfl
@[simp] theorem State.markOut_g_late (s : State) (r : Reg) : (s.markOut r).g.late = s.g.late := by
  obtain ⟨_, _, _, _, _, _, _, h⟩ := s.markOut_eq r; rw [h]; rfl
@[simp] theorem State.markOut_g_acc (s : State) (r : Reg) : (s.markOut r).g.acc = s.g.acc := by
  obtain ⟨_, _, _, _, _, _, _, h⟩ := s.markOut_eq r; rw [h]; rfl
@[simp] theorem State.markOut_g_mx (s : State) (r : Reg) : (s.markOut r).g.mx = s.g.mx := by
  obtain ⟨_, _, _, _, _, _, _, h⟩ := s.markOut_eq r; rw [h]; rfl
@[simp] theorem State.markOut_g_mxLast (s : State) (r : Reg) : (s.markOut r).g.mxLast = s.g.mxLast := by
  obtain ⟨_, _, _, _, _, _, _, h⟩ := s.markOut_eq r; rw [h]; rfl
@[simp] theorem State.markOut_g_mxGap (s : State) (r : Reg) : (s.markOut r).g.mxGap = s.g.mxGap := by
  obtain ⟨_, _, _, _, _, _, _, h⟩ := s.markOut_eq r; rw [h]; rfl
@[simp] theorem State.markOut_g_mxDone (s : State) (r : Reg) : (s.markOut r).g.mxDone = s.g.mxDone := by
  obtain ⟨_, _, _, _, _, _, _, h⟩ := s.markOut_eq r; rw [h]; rfl
@[simp] theorem State.markOut_g_fmtA (s : State) (r : Reg) : (s.markOut r).g.fmtA = s.g.fmtA := by
  obtain ⟨_, _, _, _, _, _, _, h⟩ := s.markOut_eq r; rw [h]; rfl
@[simp] theorem State.markOut_g_fmtB (s : State) (r : Reg) : (s.markOut r).g.fmtB = s.g.fmtB := by
  obtain ⟨_, _, _, _, _, _, _, h⟩ := s.markOut_eq r; rw [h]; rfl
@[simp] theorem State.markOut_g_accW (s : State) (r : Reg) : (s.markOut r).g.accW = s.g.accW := by
  obtain ⟨_, _, _, _, _, _, _, h⟩ := s.markOut_eq r; rw [h]; rfl
@[simp] theorem State.markOut_g_saves (s : State) (r : Reg) : (s.markOut r).g.saves = s.g.saves := by
  obtain ⟨_, _, _, _, _, _, _, h⟩ := s.markOut_eq r; rw [h]; rfl
@[simp] theorem State.markOut_g_trig (s : State) (r : Reg) : (s.markOut r).g.trig = s.g.trig := by
  obtain ⟨_, _, _, _, _, _, _, h⟩ := s.markOut_eq r; rw [h]; rfl
@[simp] theorem State.markOut_g_resumed (s : State) (r : Reg) : (s.markOut r).g.resumed = s.g.resumed := by
  obtain ⟨_, _, _, _, _, _, _, h⟩ := s.markOut_eq r; rw [h]; rfl
@[simp] theorem State.markOut_g_frozen (s : State) (r : Reg) : (s.markOut r).g.frozen = s.g.frozen := by
  obtain ⟨_, _, _, _, _, _, _, h⟩ := s.markOut_eq r; rw [h]; rfl
@[simp] theorem State.markOut_g_dhalt (s : State) (r : Reg) : (s.markOut r).g.dhalt = s.g.dhalt := by
  obtain ⟨_, _, _, _, _, _, _, h⟩ := s.markOut_eq r; rw [h]; rfl
@[simp] theorem State.markOut_g_hitBreak (s : State) (r : Reg) : (s.markOut r).g.hitBreak = s.g.hitBreak := by
  obtain ⟨_, _, _, _, _, _, _, h⟩ := s.markOut_eq r; rw [h]; rfl
@[simp] theorem State.markOut_g_disc (s : State) (r : Reg) : (s.markOut r).g.disc = s.g.disc := by
  obtain ⟨_, _, _, _, _, _, _, h⟩ := s.markOut_eq r; rw [h]; rfl
@[simp] theorem State.markOut_g_tvec (s : State) (r : Reg) : (s.markOut r).g.tvec = s.g.tvec := by
  obtain ⟨_, _, _, _, _, _, _, h⟩ := s.markOut_eq r; rw [h]; rfl
@[simp] theorem State.markOut_g_log2 (s : State) (r : Reg) : (s.markOut r).g.log2 = s.g.log2 := by
  obtain ⟨_, _, _, _, _, _, _, h⟩ := s.markOut_eq r; rw [h]; rfl
@[simp] theorem State.markOut_g_discard (s : State) (r : Reg) : (s.markOut r).g.discard = s.g.discard := by
  obtain ⟨_, _, _, _, _, _, _, h⟩ := s.markOut_eq r; rw [h]; rfl
@[simp] theorem State.markOut_g_skips (s : State) (r : Reg) : (s.markOut r).g.skips = s.g.skips := by
  obtain ⟨_, _, _, _, _, _, _, h⟩ := s.markOut_eq r; rw [h]; rfl
@[simp] theorem State.markOut_g_swaps (s : State) (r : Reg) : (s.markOut r).g.swaps = s.g.swaps := by
  obtain ⟨_, _, _, _, _, _, _, h⟩ := s.markOut_eq r; rw [h]; rfl
@[simp] theorem State.markOut_g_instant (s : State) (r : Reg) : (s.markOut r).g.instant = s.g.instant := by
  obtain ⟨_, _, _, _, _, _, _, h⟩ := s.markOut_eq r; rw [h]; rfl
@[simp] theorem State.markOut_g_synclim (s : State) (r : Reg) : (s.markOut r).g.synclim = s.g.synclim := by
  obtain ⟨_, _, _, _, _, _, _, h⟩ := s.markOut_eq r; rw [h]; rfl
@[simp] theorem State.markOut_g_portCopies (s : State) (r : Reg) : (s.markOut r).g.portCopies = s.g.portCopies := by
  obtain ⟨_, _, _, _, _, _, _, h⟩ := s.markOut_eq r; rw [h]; rfl
@[simp] theorem State.markOut_g_cpsel (s : State) (r : Reg) : (s.markOut r).g.cpsel = s.g.cpsel := by
  obtain ⟨_, _, _, _, _, _, _, h⟩ := s.markOut_eq r; rw [h]; rfl
@[simp] theorem State.markOut_g_msgtim (s : State) (r : Reg) : (s.markOut r).g.msgtim = s.g.msgtim := by
  obtain ⟨_, _, _, _, _, _, _, h⟩ := s.markOut_eq r; rw [h]; rfl
@[simp] theorem State.markOut_g_dbgbp (s : State) (r : Reg) : (s.markOut r).g.dbgbp = s.g.dbgbp := by
  obtain ⟨_, _, _, _, _, _, _, h⟩ := s.markOut_eq r; rw [h]; rfl
@[simp] theorem State.markOut_g_csrWrites (s : State) (r : Reg) : (s.markOut r).g.csrWrites = s.g.csrWrites := by
  obtain ⟨_, _, _, _, _, _, _, h⟩ := s.markOut_eq r; rw [h]; rfl
@[simp] theorem State.markOut_g_spad (s : State) (r : Reg) : (s.markOut r).g.spad = s.g.spad := by
  obtain ⟨_, _, _, _, _, _, _, h⟩ := s.markOut_eq r; rw [h]; rfl
@[simp] theorem State.markOut_g_spTags (s : State) (r : Reg) : (s.markOut r).g.spTags = s.g.spTags := by
  obtain ⟨_, _, _, _, _, _, _, h⟩ := s.markOut_eq r; rw [h]; rfl
@[simp] theorem State.markOut_g_spEmpty (s : State) (r : Reg) : (s.markOut r).g.spEmpty = s.g.spEmpty := by
  obtain ⟨_, _, _, _, _, _, _, h⟩ := s.markOut_eq r; rw [h]; rfl
@[simp] theorem State.markOut_g_marks (s : State) (r : Reg) : (s.markOut r).g.marks = s.g.marks := by
  obtain ⟨_, _, _, _, _, _, _, h⟩ := s.markOut_eq r; rw [h]; rfl
@[simp] theorem State.markOut_g_wordClocks (s : State) (r : Reg) : (s.markOut r).g.wordClocks = s.g.wordClocks := by
  obtain ⟨_, _, _, _, _, _, _, h⟩ := s.markOut_eq r; rw [h]; rfl
@[simp] theorem State.markOut_g_badWords (s : State) (r : Reg) : (s.markOut r).g.badWords = s.g.badWords := by
  obtain ⟨_, _, _, _, _, _, _, h⟩ := s.markOut_eq r; rw [h]; rfl
@[simp] theorem State.markOut_g_barPend (s : State) (r : Reg) : (s.markOut r).g.barPend = s.g.barPend := by
  obtain ⟨_, _, _, _, _, _, _, h⟩ := s.markOut_eq r; rw [h]; rfl
@[simp] theorem State.markOut_g_barClocks (s : State) (r : Reg) : (s.markOut r).g.barClocks = s.g.barClocks := by
  obtain ⟨_, _, _, _, _, _, _, h⟩ := s.markOut_eq r; rw [h]; rfl
@[simp] theorem State.markOut_g_deque (s : State) (r : Reg) : (s.markOut r).g.deque = s.g.deque := by
  obtain ⟨_, _, _, _, _, _, _, h⟩ := s.markOut_eq r; rw [h]; rfl
@[simp] theorem State.markOut_g_store (s : State) (r : Reg) : (s.markOut r).g.store = s.g.store := by
  obtain ⟨_, _, _, _, _, _, _, h⟩ := s.markOut_eq r; rw [h]; rfl
@[simp] theorem State.markOut_g_routes (s : State) (r : Reg) : (s.markOut r).g.routes = s.g.routes := by
  obtain ⟨_, _, _, _, _, _, _, h⟩ := s.markOut_eq r; rw [h]; rfl
@[simp] theorem State.markOut_g_links (s : State) (r : Reg) : (s.markOut r).g.links = s.g.links := by
  obtain ⟨_, _, _, _, _, _, _, h⟩ := s.markOut_eq r; rw [h]; rfl
@[simp] theorem State.markOut_g_inbox (s : State) (r : Reg) : (s.markOut r).g.inbox = s.g.inbox := by
  obtain ⟨_, _, _, _, _, _, _, h⟩ := s.markOut_eq r; rw [h]; rfl
@[simp] theorem State.markOut_g_left (s : State) (r : Reg) : (s.markOut r).g.left = s.g.left := by
  obtain ⟨_, _, _, _, _, _, _, h⟩ := s.markOut_eq r; rw [h]; rfl
@[simp] theorem State.markOut_g_clockNote (s : State) (r : Reg) : (s.markOut r).g.clockNote = s.g.clockNote := by
  obtain ⟨_, _, _, _, _, _, _, h⟩ := s.markOut_eq r; rw [h]; rfl
@[simp] theorem State.markOut_g_arrivals (s : State) (r : Reg) : (s.markOut r).g.arrivals = s.g.arrivals := by
  obtain ⟨_, _, _, _, _, _, _, h⟩ := s.markOut_eq r; rw [h]; rfl
@[simp] theorem State.markOut_g_absent (s : State) (r : Reg) : (s.markOut r).g.absent = s.g.absent := by
  obtain ⟨_, _, _, _, _, _, _, h⟩ := s.markOut_eq r; rw [h]; rfl
@[simp] theorem State.markOut_g_inboxQ (s : State) (r : Reg) : (s.markOut r).g.inboxQ = s.g.inboxQ := by
  obtain ⟨_, _, _, _, _, _, _, h⟩ := s.markOut_eq r; rw [h]; rfl
@[simp] theorem State.markOut_g_refusals (s : State) (r : Reg) : (s.markOut r).g.refusals = s.g.refusals := by
  obtain ⟨_, _, _, _, _, _, _, h⟩ := s.markOut_eq r; rw [h]; rfl
@[simp] theorem State.markOut_g_ops (s : State) (r : Reg) : (s.markOut r).g.ops = s.g.ops := by
  obtain ⟨_, _, _, _, _, _, _, h⟩ := s.markOut_eq r; rw [h]; rfl
@[simp] theorem State.markOut_g_em (s : State) (r : Reg) : (s.markOut r).g.em = s.g.em := by
  obtain ⟨_, _, _, _, _, _, _, h⟩ := s.markOut_eq r; rw [h]; rfl
@[simp] theorem State.markOut_g_emits (s : State) (r : Reg) : (s.markOut r).g.emits = s.g.emits := by
  obtain ⟨_, _, _, _, _, _, _, h⟩ := s.markOut_eq r; rw [h]; rfl
@[simp] theorem State.markOut_g_present (s : State) (r : Reg) : (s.markOut r).g.present = s.g.present := by
  obtain ⟨_, _, _, _, _, _, _, h⟩ := s.markOut_eq r; rw [h]; rfl
@[simp] theorem State.markOut_g_absentS (s : State) (r : Reg) : (s.markOut r).g.absentS = s.g.absentS := by
  obtain ⟨_, _, _, _, _, _, _, h⟩ := s.markOut_eq r; rw [h]; rfl
@[simp] theorem State.markOut_g_relSeen (s : State) (r : Reg) : (s.markOut r).g.relSeen = s.g.relSeen := by
  obtain ⟨_, _, _, _, _, _, _, h⟩ := s.markOut_eq r; rw [h]; rfl
@[simp] theorem State.markOut_g_prevEm (s : State) (r : Reg) : (s.markOut r).g.prevEm = s.g.prevEm := by
  obtain ⟨_, _, _, _, _, _, _, h⟩ := s.markOut_eq r; rw [h]; rfl
@[simp] theorem State.markOut_g_prevSlot (s : State) (r : Reg) : (s.markOut r).g.prevSlot = s.g.prevSlot := by
  obtain ⟨_, _, _, _, _, _, _, h⟩ := s.markOut_eq r; rw [h]; rfl
@[simp] theorem State.markOut_g_lastIssue (s : State) (r : Reg) : (s.markOut r).g.lastIssue = s.g.lastIssue := by
  obtain ⟨_, _, _, _, _, _, _, h⟩ := s.markOut_eq r; rw [h]; rfl
@[simp] theorem State.markOut_g_goneBars (s : State) (r : Reg) : (s.markOut r).g.goneBars = s.g.goneBars := by
  obtain ⟨_, _, _, _, _, _, _, h⟩ := s.markOut_eq r; rw [h]; rfl
@[simp] theorem State.markOut_g_turnEnds (s : State) (r : Reg) : (s.markOut r).g.turnEnds = s.g.turnEnds := by
  obtain ⟨_, _, _, _, _, _, _, h⟩ := s.markOut_eq r; rw [h]; rfl
@[simp] theorem State.markOut_g_stop (s : State) (r : Reg) : (s.markOut r).g.stop = s.g.stop := by
  obtain ⟨_, _, _, _, _, _, _, h⟩ := s.markOut_eq r; rw [h]; rfl
@[simp] theorem State.markOut_g_outWhy (s : State) (r : Reg) : (s.markOut r).g.outWhy = s.g.outWhy := by
  obtain ⟨_, _, _, _, _, _, _, h⟩ := s.markOut_eq r; rw [h]; rfl
@[simp] theorem State.markOut_g_begun (s : State) (r : Reg) : (s.markOut r).g.begun = s.g.begun := by
  obtain ⟨_, _, _, _, _, _, _, h⟩ := s.markOut_eq r; rw [h]; rfl
@[simp] theorem State.markOut_g_stealAt (s : State) (r : Reg) : (s.markOut r).g.stealAt = s.g.stealAt := by
  obtain ⟨_, _, _, _, _, _, _, h⟩ := s.markOut_eq r; rw [h]; rfl
@[simp] theorem State.markOut_g_stealing (s : State) (r : Reg) : (s.markOut r).g.stealing = s.g.stealing := by
  obtain ⟨_, _, _, _, _, _, _, h⟩ := s.markOut_eq r; rw [h]; rfl
@[simp] theorem State.markOut_g_inherit (s : State) (r : Reg) : (s.markOut r).g.inherit = s.g.inherit := by
  obtain ⟨_, _, _, _, _, _, _, h⟩ := s.markOut_eq r; rw [h]; rfl
@[simp] theorem State.markOut_g_handTile (s : State) (r : Reg) : (s.markOut r).g.handTile = s.g.handTile := by
  obtain ⟨_, _, _, _, _, _, _, h⟩ := s.markOut_eq r; rw [h]; rfl
@[simp] theorem State.markOut_st_run (s : State) (r : Reg) : (s.markOut r).st.run = s.st.run := by
  obtain ⟨_, _, _, _, _, _, _, h⟩ := s.markOut_eq r; rw [h]; simp
@[simp] theorem State.markOut_st_prog (s : State) (r : Reg) : (s.markOut r).st.prog = s.st.prog := by
  obtain ⟨_, _, _, _, _, _, _, h⟩ := s.markOut_eq r; rw [h]; simp
@[simp] theorem State.markOut_st_consumed (s : State) (r : Reg) : (s.markOut r).st.consumed = s.st.consumed := by
  obtain ⟨_, _, _, _, _, _, _, h⟩ := s.markOut_eq r; rw [h]; simp
@[simp] theorem State.markOut_st_again (s : State) (r : Reg) : (s.markOut r).st.again = s.st.again := by
  obtain ⟨_, _, _, _, _, _, _, h⟩ := s.markOut_eq r; rw [h]; simp
@[simp] theorem State.markOut_st_spared (s : State) (r : Reg) : (s.markOut r).st.spared = s.st.spared := by
  obtain ⟨_, _, _, _, _, _, _, h⟩ := s.markOut_eq r; rw [h]; simp
@[simp] theorem State.markOut_st_took (s : State) (r : Reg) : (s.markOut r).st.took = s.st.took := by
  obtain ⟨_, _, _, _, _, _, _, h⟩ := s.markOut_eq r; rw [h]; simp
@[simp] theorem State.markOut_st_kept (s : State) (r : Reg) : (s.markOut r).st.kept = s.st.kept := by
  obtain ⟨_, _, _, _, _, _, _, h⟩ := s.markOut_eq r; rw [h]; simp
@[simp] theorem State.markOut_st_walkWant (s : State) (r : Reg) : (s.markOut r).st.walkWant = s.st.walkWant := by
  obtain ⟨_, _, _, _, _, _, _, h⟩ := s.markOut_eq r; rw [h]; simp
@[simp] theorem State.markOut_st_walkFault (s : State) (r : Reg) : (s.markOut r).st.walkFault = s.st.walkFault := by
  obtain ⟨_, _, _, _, _, _, _, h⟩ := s.markOut_eq r; rw [h]; simp
@[simp] theorem State.markOut_st_p (s : State) (r : Reg) : (s.markOut r).st.p = s.st.p := by
  obtain ⟨_, _, _, _, _, _, _, h⟩ := s.markOut_eq r; rw [h]; simp
@[simp] theorem State.markOut_st_fcap (s : State) (r : Reg) : (s.markOut r).st.fcap = s.st.fcap := by
  obtain ⟨_, _, _, _, _, _, _, h⟩ := s.markOut_eq r; rw [h]; simp
@[simp] theorem State.markOut_st_rcap (s : State) (r : Reg) : (s.markOut r).st.rcap = s.st.rcap := by
  obtain ⟨_, _, _, _, _, _, _, h⟩ := s.markOut_eq r; rw [h]; simp
@[simp] theorem State.markOut_st_kernel (s : State) (r : Reg) : (s.markOut r).st.kernel = s.st.kernel := by
  obtain ⟨_, _, _, _, _, _, _, h⟩ := s.markOut_eq r; rw [h]; simp
@[simp] theorem State.markOut_st_pl (s : State) (r : Reg) : (s.markOut r).st.pl = s.st.pl := by
  obtain ⟨_, _, _, _, _, _, _, h⟩ := s.markOut_eq r; rw [h]; simp
@[simp] theorem State.markOut_st_depth (s : State) (r : Reg) : (s.markOut r).st.depth = s.st.depth := by
  obtain ⟨_, _, _, _, _, _, _, h⟩ := s.markOut_eq r; rw [h]; simp
@[simp] theorem State.markOut_st_save (s : State) (r : Reg) : (s.markOut r).st.save = s.st.save := by
  obtain ⟨_, _, _, _, _, _, _, h⟩ := s.markOut_eq r; rw [h]; simp
@[simp] theorem State.markOut_st_fcsr (s : State) (r : Reg) : (s.markOut r).st.fcsr = s.st.fcsr := by
  obtain ⟨_, _, _, _, _, _, _, h⟩ := s.markOut_eq r; rw [h]; simp
@[simp] theorem State.markOut_st_tmask (s : State) (r : Reg) : (s.markOut r).st.tmask = s.st.tmask := by
  obtain ⟨_, _, _, _, _, _, _, h⟩ := s.markOut_eq r; rw [h]; simp
@[simp] theorem State.markOut_st_ae (s : State) (r : Reg) : (s.markOut r).st.ae = s.st.ae := by
  obtain ⟨_, _, _, _, _, _, _, h⟩ := s.markOut_eq r; rw [h]; simp
@[simp] theorem State.markOut_st_canemit (s : State) (r : Reg) : (s.markOut r).st.canemit = s.st.canemit := by
  obtain ⟨_, _, _, _, _, _, _, h⟩ := s.markOut_eq r; rw [h]; simp
@[simp] theorem State.markOut_st_canrld (s : State) (r : Reg) : (s.markOut r).st.canrld = s.st.canrld := by
  obtain ⟨_, _, _, _, _, _, _, h⟩ := s.markOut_eq r; rw [h]; simp
@[simp] theorem State.markOut_st_awaitSig (s : State) (r : Reg) : (s.markOut r).st.awaitSig = s.st.awaitSig := by
  obtain ⟨_, _, _, _, _, _, _, h⟩ := s.markOut_eq r; rw [h]; simp
@[simp] theorem State.markOut_st_wdepth (s : State) (r : Reg) : (s.markOut r).st.wdepth = s.st.wdepth := by
  obtain ⟨_, _, _, _, _, _, _, h⟩ := s.markOut_eq r; rw [h]; simp
@[simp] theorem State.markOut_st_watch (s : State) (r : Reg) : (s.markOut r).st.watch = s.st.watch := by
  obtain ⟨_, _, _, _, _, _, _, h⟩ := s.markOut_eq r; rw [h]; simp
@[simp] theorem State.markOut_st_trappc (s : State) (r : Reg) : (s.markOut r).st.trappc = s.st.trappc := by
  obtain ⟨_, _, _, _, _, _, _, h⟩ := s.markOut_eq r; rw [h]; simp
@[simp] theorem State.markOut_st_trapinfo (s : State) (r : Reg) : (s.markOut r).st.trapinfo = s.st.trapinfo := by
  obtain ⟨_, _, _, _, _, _, _, h⟩ := s.markOut_eq r; rw [h]; simp
@[simp] theorem State.markOut_st_trapval (s : State) (r : Reg) : (s.markOut r).st.trapval = s.st.trapval := by
  obtain ⟨_, _, _, _, _, _, _, h⟩ := s.markOut_eq r; rw [h]; simp
@[simp] theorem State.markOut_st_path (s : State) (r : Reg) : (s.markOut r).st.path = s.st.path := by
  obtain ⟨_, _, _, _, _, _, _, h⟩ := s.markOut_eq r; rw [h]; simp
@[simp] theorem State.markOut_st_mbox (s : State) (r : Reg) : (s.markOut r).st.mbox = s.st.mbox := by
  obtain ⟨_, _, _, _, _, _, _, h⟩ := s.markOut_eq r; rw [h]; simp
@[simp] theorem State.markOut_st_wdlim (s : State) (r : Reg) : (s.markOut r).st.wdlim = s.st.wdlim := by
  obtain ⟨_, _, _, _, _, _, _, h⟩ := s.markOut_eq r; rw [h]; simp
@[simp] theorem State.markOut_st_wdcount (s : State) (r : Reg) : (s.markOut r).st.wdcount = s.st.wdcount := by
  obtain ⟨_, _, _, _, _, _, _, h⟩ := s.markOut_eq r; rw [h]; simp
@[simp] theorem State.markOut_st_wdFrom (s : State) (r : Reg) : (s.markOut r).st.wdFrom = s.st.wdFrom := by
  obtain ⟨_, _, _, _, _, _, _, h⟩ := s.markOut_eq r; rw [h]; simp
@[simp] theorem State.markOut_st_whNext (s : State) (r : Reg) : (s.markOut r).st.whNext = s.st.whNext := by
  obtain ⟨_, _, _, _, _, _, _, h⟩ := s.markOut_eq r; rw [h]; simp
@[simp] theorem State.markOut_st_excused (s : State) (r : Reg) : (s.markOut r).st.excused = s.st.excused := by
  obtain ⟨_, _, _, _, _, _, _, h⟩ := s.markOut_eq r; rw [h]; simp
@[simp] theorem State.markOut_st_rejoin (s : State) (r : Reg) : (s.markOut r).st.rejoin = s.st.rejoin := by
  obtain ⟨_, _, _, _, _, _, _, h⟩ := s.markOut_eq r; rw [h]; simp
@[simp] theorem State.markOut_st_lease (s : State) (r : Reg) : (s.markOut r).st.lease = s.st.lease := by
  obtain ⟨_, _, _, _, _, _, _, h⟩ := s.markOut_eq r; rw [h]; simp
@[simp] theorem State.markOut_st_gen0 (s : State) (r : Reg) : (s.markOut r).st.gen0 = s.st.gen0 := by
  obtain ⟨_, _, _, _, _, _, _, h⟩ := s.markOut_eq r; rw [h]; simp
@[simp] theorem State.markOut_st_gen1 (s : State) (r : Reg) : (s.markOut r).st.gen1 = s.st.gen1 := by
  obtain ⟨_, _, _, _, _, _, _, h⟩ := s.markOut_eq r; rw [h]; simp
@[simp] theorem State.markOut_st_nchild (s : State) (r : Reg) : (s.markOut r).st.nchild = s.st.nchild := by
  obtain ⟨_, _, _, _, _, _, _, h⟩ := s.markOut_eq r; rw [h]; simp
@[simp] theorem State.markOut_st_outc (s : State) (r : Reg) : (s.markOut r).st.outc = s.st.outc := by
  obtain ⟨_, _, _, _, _, _, _, h⟩ := s.markOut_eq r; rw [h]; simp
@[simp] theorem State.markOut_st_task (s : State) (r : Reg) : (s.markOut r).st.task = s.st.task := by
  obtain ⟨_, _, _, _, _, _, _, h⟩ := s.markOut_eq r; rw [h]; simp
@[simp] theorem State.markOut_st_parent (s : State) (r : Reg) : (s.markOut r).st.parent = s.st.parent := by
  obtain ⟨_, _, _, _, _, _, _, h⟩ := s.markOut_eq r; rw [h]; simp
@[simp] theorem State.markOut_st_parentTag (s : State) (r : Reg) : (s.markOut r).st.parentTag = s.st.parentTag := by
  obtain ⟨_, _, _, _, _, _, _, h⟩ := s.markOut_eq r; rw [h]; simp
@[simp] theorem State.markOut_st_serial (s : State) (r : Reg) : (s.markOut r).st.serial = s.st.serial := by
  obtain ⟨_, _, _, _, _, _, _, h⟩ := s.markOut_eq r; rw [h]; simp
@[simp] theorem State.markOut_st_msgSeq (s : State) (r : Reg) : (s.markOut r).st.msgSeq = s.st.msgSeq := by
  obtain ⟨_, _, _, _, _, _, _, h⟩ := s.markOut_eq r; rw [h]; simp
@[simp] theorem State.markOut_st_outstanding (s : State) (r : Reg) : (s.markOut r).st.outstanding = s.st.outstanding := by
  obtain ⟨_, _, _, _, _, _, _, h⟩ := s.markOut_eq r; rw [h]; simp
@[simp] theorem State.markOut_st_lastMsg (s : State) (r : Reg) : (s.markOut r).st.lastMsg = s.st.lastMsg := by
  obtain ⟨_, _, _, _, _, _, _, h⟩ := s.markOut_eq r; rw [h]; simp
@[simp] theorem State.markOut_st_ackLost (s : State) (r : Reg) : (s.markOut r).st.ackLost = s.st.ackLost := by
  obtain ⟨_, _, _, _, _, _, _, h⟩ := s.markOut_eq r; rw [h]; simp
@[simp] theorem State.markOut_st_clock (s : State) (r : Reg) : (s.markOut r).st.clock = s.st.clock := by
  obtain ⟨_, _, _, _, _, _, _, h⟩ := s.markOut_eq r; rw [h]; simp
@[simp] theorem State.markOut_st_kidClock (s : State) (r : Reg) : (s.markOut r).st.kidClock = s.st.kidClock := by
  obtain ⟨_, _, _, _, _, _, _, h⟩ := s.markOut_eq r; rw [h]; simp
@[simp] theorem State.markOut_st_bars (s : State) (r : Reg) : (s.markOut r).st.bars = s.st.bars := by
  obtain ⟨_, _, _, _, _, _, _, h⟩ := s.markOut_eq r; rw [h]; simp
@[simp] theorem State.markOut_st_ofences (s : State) (r : Reg) : (s.markOut r).st.ofences = s.st.ofences := by
  obtain ⟨_, _, _, _, _, _, _, h⟩ := s.markOut_eq r; rw [h]; simp
@[simp] theorem State.markOut_st_nextIssue (s : State) (r : Reg) : (s.markOut r).st.nextIssue = s.st.nextIssue := by
  obtain ⟨_, _, _, _, _, _, _, h⟩ := s.markOut_eq r; rw [h]; simp
@[simp] theorem State.markOut_st_ringFrom (s : State) (r : Reg) : (s.markOut r).st.ringFrom = s.st.ringFrom := by
  obtain ⟨_, _, _, _, _, _, _, h⟩ := s.markOut_eq r; rw [h]; simp
@[simp] theorem State.markOut_st_stopped (s : State) (r : Reg) : (s.markOut r).st.stopped = s.st.stopped := by
  obtain ⟨_, _, _, _, _, _, _, h⟩ := s.markOut_eq r; rw [h]; simp
@[simp] theorem State.markOut_st_held (s : State) (r : Reg) : (s.markOut r).st.held = s.st.held := by
  obtain ⟨_, _, _, _, _, _, _, h⟩ := s.markOut_eq r; rw [h]; simp
@[simp] theorem State.markOut_st_passBreak (s : State) (r : Reg) : (s.markOut r).st.passBreak = s.st.passBreak := by
  obtain ⟨_, _, _, _, _, _, _, h⟩ := s.markOut_eq r; rw [h]; simp
@[simp] theorem State.markOut_st_brk (s : State) (r : Reg) : (s.markOut r).st.brk = s.st.brk := by
  obtain ⟨_, _, _, _, _, _, _, h⟩ := s.markOut_eq r; rw [h]; simp
@[simp] theorem State.markOut_st_joinDead (s : State) (r : Reg) : (s.markOut r).st.joinDead = s.st.joinDead := by
  obtain ⟨_, _, _, _, _, _, _, h⟩ := s.markOut_eq r; rw [h]; simp
@[simp] theorem State.markOut_st_poolFault (s : State) (r : Reg) : (s.markOut r).st.poolFault = s.st.poolFault := by
  obtain ⟨_, _, _, _, _, _, _, h⟩ := s.markOut_eq r; rw [h]; simp

@[simp] theorem State.markOut_st_cycleDue (s : State) (r : Reg) : (s.markOut r).st.cycleDue = s.st.cycleDue := by
  obtain ⟨_, _, _, _, _, _, _, h⟩ := s.markOut_eq r; rw [h]; simp

end Sys2Proof.Machine
end

