-- ==== Sys2Proof/Tests/Slice0.lean ====
section
/-! SUPPORT. Small tests: words of the manual and ill-formed terms, single steps whose results the manual gives, and for
every statement states and operands that meet its hypotheses. -/

namespace Sys2Proof.Tests

open Machine Claims

/-! ### Small states -/

/-- A full register that holds a number. -/
def num (n : Nat) : RegCell := { v := BitVec.ofNat 128 n, full := true }
/-- A full register that holds a capability. -/
def capReg (q : Quad) : RegCell := { v := q, tag := true, full := true }
/-- No guard, no hint. -/
def z : Head := ⟨false, 0, 0⟩
/-- Sources under policy 0. -/
def r (k : Fin 48) : Src := ⟨.c k, false, false⟩
def p (k : Fin 48) : PSrc := ⟨.c k, false⟩
/-- LOCAL with every permission of data (R54, R135): no bounds. -/
def localCap (off : Nat) : Quad := mkCap 0b11111011 0 0 4096 off 0
/-- 64 KiB of PANEL.P at 2^20, and of CODE rights at address 0 of CTRL. -/
def panelCap (off : Nat) : Quad := mkCap 0b11011011 2 0 65536 off 0x100000
def codeQ : Quad := mkCap 0b00000101 5 0 65536 0 0
/-- c1 holds 3, c2 holds 5, c3 LOCAL, c4 PANEL.P, c5 code; each other register a number of its own. -/
def regs0 : Vector RegCell 48 :=
  ((((((Vector.replicate 48 (num 0)).set 1 (num 3)).set 2 (num 5)).set 3 (capReg (localCap 0))).set 4 (capReg (panelCap 0))).set 5
    (capReg codeQ)).set 6 (num 0x1000)
/-- A strand that stands ready at level K. -/
def strand0 : Strand := { run := .ready, kernel := true, c := regs0, sp := num 1, ra := num 2, fcap := ⟨codeQ, true⟩, serial := 0 }
/-- A group of launch 1 on tile 0 of die 0, its strand in slot 0 ready and the others idle. -/
def group0 : Group :=
  { gid := ⟨1, 0⟩, state := .resident, place := some ⟨0, 0⟩, st := (Vector.replicate 8 ({} : Strand)).set 0 strand0
    sr := Vector.replicate 8 (num 7), begun := true, log2 := 12, instant := 1, tvec := 0x2000 }
def tenant0 : Tenant := { num := 1, vx0 := 0, vy0 := 0, width := 1, height := 1 }
def launch0 : Launch :=
  { num := 1, tnum := 1, tenant := 1, entry := 0, groups := 1, strands := 1, log2 := 12, prio := 0, stealdom := 0, det := false
    stagger := 0, px := 0, py := 0, pw := 0, ph := 0, discard := 0, seed := 0, sigtab := 0, codeBase := 0, codeLen := 65536
    dataRoot := none, sdata := [], dies := [0], after := none, started := true, queuedAt := 0, firstPlace := some 0
    status := none, cancelling := false, debugged := false, recov := false, ckpt := false, points := 0, wave := none, recs := []
    notifySeq := 0, undo := [], escrow := [], rollbacks := 0, kids := [] }
/-- One tile, one group, one ready strand. -/
def base : State :=
  { State.reset with g := group0, dies := [{ v := 0, phys := 0 }], tenants := [tenant0], launches := [launch0] }
/-- The state with another strand in slot 0, another group, another launch. -/
def withSt (f : Strand → Strand) : State := base.modSt f
def withG (f : Group → Group) : State := base.modG f
def withL (f : Launch → Launch) : State := { base with launches := [f launch0] }
/-- The state with a register set. -/
def withC (k : Fin 48) (x : RegCell) : State := base.modSt (fun t => { t with c := t.c.set k x })

/-- What an instruction needs. -/
def needsOf (i : Instr) : Needs := (needs i).getD { h := z }
theorem ready {i : Instr} {s : State} (h : Instr.readyIn i s = true) : ReadyFor i (needsOf i) s := by
  unfold Instr.readyIn at h
  split at h
  · rename_i n e
    exact ⟨by simp [needsOf, e], by simpa [needsOf, e] using Needs.met_of_check _ _ h⟩
  · simp at h

/-- What a step answers, where it is a next state. -/
def nextOf (o : Host.Outcome State Fault Refusal) : State := match o with | .next t => t | _ => State.reset

/-! ### Ill-formed terms (WellFormed) -/

/-- A forward of a register that is no port (R41). -/
theorem test_wf_forward : (Instr.add z .b8 (.c 1) ⟨.c 2, false, true⟩ (r 3)).wf = false := by decide
/-- A link port where the entry admits none. -/
theorem test_wf_port_source : (Instr.bri z ⟨.link .north, false⟩).wf = false := by decide
theorem test_wf_port_destination : (Instr.capsub z (.link .north) (p 1) (p 2)).wf = false := by decide
/-- LOOP of c0 (R133). -/
theorem test_wf_loop_c0 : (Instr.loop z (.c 0) 0).wf = false := by decide
/-- A field that begins past the lane, has no bits, or more than the lane has (R124). -/
theorem test_wf_field_pos : (Instr.bfx z .b8 (.c 1) (r 2) 8 1).wf = false := by decide
theorem test_wf_field_len : (Instr.bfi z .b8 (.c 1) (r 2) 0 0).wf = false ∧ (Instr.bfi z .b8 (.c 1) (r 2) 0 9).wf = false := by decide
/-- A lane that the type does not have (R128). -/
theorem test_wf_lane : (Instr.bcast z .b64 (.c 1) (r 2) 2).wf = false := by decide
/-- A CAPGET field past 8, and a policy in a field that has none (R141). -/
theorem test_wf_capget : (Instr.capget z (.c 1) (p 2) 9 0).wf = false ∧ (Instr.capget z (.c 1) (p 2) 1 1).wf = false := by decide
/-- A group of lanes that the formats do not have (R109). -/
theorem test_wf_cvt_part : (Instr.cvt z .rne false 4 .f32 .e4m3 (.c 1) (r 2)).wf = false := by decide
/-- A mask with a bit that FCSR lacks (R165). -/
theorem test_wf_fcsr_mask : (Instr.fcsrset z (.c 1) (r 2) 0x20).wf = false := by decide
/-- INCA with a link port (R185). -/
theorem test_wf_inc_port : (Instr.mdot z true false 0 (.port .north false false) (.pair 1 false)).wf = false := by decide
/-- An atomic on bytes, a floating atomic on 64 bits, a compare and swap on 16 bits (R223). -/
theorem test_wf_atomics : (Instr.amo z .b8 .add (.c 1) (p 3) (r 2) 0).wf = false ∧ (Instr.amo z .b64 .fadd (.c 1) (p 3) (r 2) 0).wf = false
    ∧ (Instr.cas z .b16 (.c 1) (p 3) (r 2) 0).wf = false := by decide
/-- A stream on c0 (R259), a gather of signed elements, a barrier for no phase. -/
theorem test_wf_stream : (Instr.strm z false (.c 0) (p 1) (p 2)).wf = false ∧ (Instr.strmend z .sp).wf = false := by decide
theorem test_wf_gather : (Instr.gather z .i8 false 1 (p 2) (p 3)).wf = false := by decide
theorem test_wf_txbinit : (Instr.txbinit z (p 1) 0).wf = false := by decide
/-- A WHO field past 8 (R369), and CSRSET of a register that has a row of its own (R53). -/
theorem test_wf_who : (Instr.who z (.c 1) 9).wf = false := by decide
theorem test_wf_csrset : (Instr.csrset z (.c 1) (p 2) 0x009).wf = false := by decide

/-! ### Words, bit by bit from the encodings -/

/-- A word from the fields of R34. -/
def fields (op d a b : Nat) (gn gp pa pb rm w h x i : Nat := 0) : Nat :=
  op * 2 ^ 86 + gn * 2 ^ 85 + gp * 2 ^ 82 + d * 2 ^ 76 + a * 2 ^ 70 + b * 2 ^ 64 + pa * 2 ^ 63 + pb * 2 ^ 62 + rm * 2 ^ 59
    + w * 2 ^ 56 + h * 2 ^ 48 + x * 2 ^ 32 + i

/-- LOOP c7 under !p3 with a hint (R133, R36). -/
theorem test_decode_loop : decodeTableWord 96 (fields 0x006 7 0 0 (gn := 1) (gp := 3) (h := 0xA5) (i := 0xFFFFFFFE))
    = some (.loop ⟨true, 3, 0xA5⟩ (.c 7) 0xFFFFFFFE) := by decide
/-- SUBS.I16 c40, c41, c42 with c42 under the trap policy (R121, R37, R39). -/
theorem test_decode_subs : decodeTableWord 96 (fields 0x044 40 41 42 (pb := 1) (w := 5))
    = some (.subs z .i16 (.c 40) (r 41) ⟨.c 42, true, false⟩) := by decide
/-- CAPGET c8, c9, #0, #2 (R141). -/
theorem test_decode_capget : decodeTableWord 96 (fields 0x086 8 9 0 (i := 0x20)) = some (.capget z (.c 8) (p 9) 0 2) := by decide
/-- FFMA.F32.RUP c1, c2, c3 (R152, R38). -/
theorem test_decode_ffma : decodeTableWord 96 (fields 0x103 1 2 3 (rm := 3) (w := 1)) = some (.ffma z .f32 .rup (.c 1) (r 2) (r 3)) := by decide
/-- FLOG.F64 c4, c5 (R162). -/
theorem test_decode_flog : decodeTableWord 96 (fields 0x143 4 5 0) = some (.flog z .f64 .rne (.c 4) (r 5)) := by decide
/-- MRD.COL c10, a3, #5 (R190): the pair c10, c11 is number 5. -/
theorem test_decode_mrd : decodeTableWord 96 (fields 0x182 10 3 0 (x := 1) (i := 5)) = some (.mrd z true 5 3 5) := by decide
/-- CAS.B64 c6, [c7 + 16], c8 (R216). -/
theorem test_decode_cas : decodeTableWord 96 (fields 0x1CB 6 7 8 (w := 3) (i := 16)) = some (.cas z .b64 (.c 6) (p 7) (r 8) 16) := by decide
/-- TXBWAIT c1, [c2], c3 (R259). -/
theorem test_decode_txbwait : decodeTableWord 96 (fields 0x24A 1 2 3) = some (.txbwait z (.c 1) (p 2) (p 3)) := by decide
/-- SEND.ROUTE [c2], c3, #9 (R304). -/
theorem test_decode_send : decodeTableWord 96 (fields 0x280 0 2 3 (x := 0x49)) = some (.send z (some 9) (p 2) (r 3)) := by decide
/-- PRESENT p2, #40 (R329). -/
theorem test_decode_present : decodeTableWord 96 (fields 0x2C2 2 0 0 (i := 40)) = some (.present z 2 40) := by decide
/-- HALT.RETAIN #500 (R362). -/
theorem test_decode_halt : decodeTableWord 96 (fields 0x303 0 0 0 (x := 1) (i := 500)) = some (.halt z (some 500)) := by decide
/-- PTAKE.X p2, c12, [c5] (R391): the word of the manual's listing. -/
theorem test_decode_ptakex : decodeTableWord 96 0xD080C1400000001200000000 = some (.ptakeX z 2 6 (p 5)) := by decide
/-- NOTIFY c1, c2, #255 (R424). -/
theorem test_decode_notify : decodeTableWord 96 (fields 0x389 1 2 0 (i := 255)) = some (.notify z (.c 1) (p 2) 255) := by decide
/-- CSRSET of MBOX is its own row (R53, R424). -/
theorem test_decode_mbox : decodeTableWord 96 (fields 0x383 1 2 0 (i := 9)) = some (.mboxWrite z (.c 1) (p 2)) := by decide
/-- A reserved field that is not zero, a reserved W, a rounding mode that does not exist, and an OP that names nothing (R35, R43). -/
theorem test_decode_reserved : decodeTableWord 96 (fields 0x000 1 0 0) = none ∧ decodeTableWord 96 (fields 0x103 1 2 3 (w := 3)) = none
    ∧ decodeTableWord 96 (fields 0x103 1 2 3 (rm := 5)) = none ∧ decodeTableWord 96 (fields 0x00E 0 0 0) = none := by decide

/-! ### Steps from reset -/

/-- Placed at reset, ADDI.B64 c1, c0, #-2 runs as the next step and leaves -2 in both lanes (R121). -/
theorem test_step_addi : (match step (State.reset.withFetchWord 96 (fields 0x041 1 0 0 (w := 3) (i := 0xFFFFFFFE))) with
    | .next t => (t.st.c[1]).v == 0xFFFFFFFFFFFFFFFEFFFFFFFFFFFFFFFE
    | _ => false) = true := by decide
/-- SUBS.I8 clamps at -128 (R121). -/
theorem test_subs_clamps : (match exec (.subs z .i8 (.c 9) (r 7) (r 8)) ((withC 7 (num 0x80)).modSt (fun t => { t with c := t.c.set 8 (num 1) })) with
    | .next t => (t.st.c[9]).v == BitVec.ofNat 128 0x80 | _ => false) = true := by decide

/-! ### Every instruction's word, from the encoding of its entry

Each line gives the fields of R34 as the entry's encoding lays them out, with a different value in every field that the
entry names. -/

/-- Class 0x0 (R131, R63). -/
theorem test_words_control : ∀ x ∈ [
    (fields 0x000 0 0 0 (gp := 7) (h := 0xFF), Instr.nop ⟨false, 7, 0xFF⟩),
    (fields 0x001 0 0 0 (gn := 1) (gp := 5) (i := 0xFFFFFFF4), .br ⟨true, 5, 0⟩ 0xFFFFFFF4),
    (fields 0x002 0 57 0 (pa := 1), .bri z ⟨.ra, true⟩),
    (fields 0x003 0 0 0 (i := 0x80000001), .call z 0x80000001),
    (fields 0x004 0 56 0, .calli z ⟨.sp, false⟩),
    (fields 0x005 0 48 0, .ret z ⟨.s 0, false⟩),
    (fields 0x006 55 0 0 (i := 9), .loop z (.s 7) 9),
    (fields 0x007 1 2 3, .pand z 1 2 3),
    (fields 0x008 4 5 6, .por z 4 5 6),
    (fields 0x009 7 0 1, .pxor z 7 0 1),
    (fields 0x00A 2 7 4, .pandn z 2 7 4),
    (fields 0x00B 60 0 0, .pget z (.link .north)),
    (fields 0x00C 0 61 0 (pa := 1) (i := 0xA5), .psetm z ⟨.link .east, true⟩ 0xA5),
    (fields 0x00D 6 0 0 (i := 1), .pset z 6 true)], decodeTableWord 96 x.1 = some x.2 := by decide

/-- Class 0x1, the forms RR, RI, RS and UN (R117, R121). -/
theorem test_words_integer : ∀ x ∈ [
    (fields 0x040 1 2 3 (w := 0), Instr.add z .b8 (.c 1) (r 2) (r 3)),
    (fields 0x041 47 60 0 (pa := 1) (w := 1) (x := 0x8000) (i := 0xFFFFFFFD), .addi z .b16 (.c 47) ⟨.link .north, true, true⟩ 0xFFFFFFFD),
    (fields 0x042 4 5 61 (pb := 1) (w := 2) (x := 0x4000), .sub z .b32 (.c 4) (r 5) ⟨.link .east, true, true⟩),
    (fields 0x043 4 5 6 (w := 3), .adds z .b64 (.c 4) (r 5) (r 6)),
    (fields 0x044 4 5 6 (w := 4), .subs z .i8 (.c 4) (r 5) (r 6)),
    (fields 0x045 4 5 6 (w := 5), .mul z .i16 (.c 4) (r 5) (r 6)),
    (fields 0x046 4 5 0 (w := 6) (i := 7), .muli z .i32 (.c 4) (r 5) 7),
    (fields 0x047 4 5 6 (w := 7), .mulh z .w7 (.c 4) (r 5) (r 6)),
    (fields 0x048 4 5 6 (w := 3), .div z .b64 (.c 4) (r 5) (r 6)),
    (fields 0x049 4 5 6 (w := 6), .rem z .i32 (.c 4) (r 5) (r 6)),
    (fields 0x04A 62 5 0 (w := 1), .neg z .b16 (.link .south) (r 5)),
    (fields 0x04B 4 5 0 (w := 4), .abs z .i8 (.c 4) (r 5)),
    (fields 0x04C 4 5 6 (w := 4), .min z .i8 (.c 4) (r 5) (r 6)),
    (fields 0x04D 4 5 6 (w := 2), .max z .b32 (.c 4) (r 5) (r 6)),
    (fields 0x04E 4 5 6 (w := 3), .and z .b64 (.c 4) (r 5) (r 6)),
    (fields 0x04F 4 5 0 (w := 3) (i := 15), .andi z .b64 (.c 4) (r 5) 15),
    (fields 0x050 4 5 6 (w := 3), .or z .b64 (.c 4) (r 5) (r 6)),
    (fields 0x051 4 5 0 (w := 3) (i := 16), .ori z .b64 (.c 4) (r 5) 16),
    (fields 0x052 4 5 6 (w := 3), .xor z .b64 (.c 4) (r 5) (r 6)),
    (fields 0x053 4 5 0 (w := 3) (i := 17), .xori z .b64 (.c 4) (r 5) 17),
    (fields 0x054 4 5 6 (w := 3), .andn z .b64 (.c 4) (r 5) (r 6)),
    (fields 0x055 4 5 6 (w := 3), .shl z .b64 (.c 4) (r 5) (r 6)),
    (fields 0x056 4 5 0 (w := 3) (i := 63), .shli z .b64 (.c 4) (r 5) 63),
    (fields 0x057 4 5 6 (w := 7), .shr z .w7 (.c 4) (r 5) (r 6)),
    (fields 0x058 4 5 0 (w := 7) (i := 62), .shri z .w7 (.c 4) (r 5) 62),
    (fields 0x059 4 5 6 (w := 0), .rot z .b8 (.c 4) (r 5) (r 6)),
    (fields 0x05A 4 5 0 (w := 0) (i := 3), .roti z .b8 (.c 4) (r 5) 3),
    (fields 0x05B 4 5 0 (w := 0), .clz z .b8 (.c 4) (r 5)),
    (fields 0x05C 4 5 0 (w := 1), .popc z .b16 (.c 4) (r 5)),
    (fields 0x05D 4 5 0 (w := 2), .brev z .b32 (.c 4) (r 5))], decodeTableWord 96 x.1 = some x.2 := by decide

/-- Class 0x1, the other forms (R117, R125). -/
theorem test_words_moves : ∀ x ∈ [
    (fields 0x05E 4 5 0 (w := 3) (i := 0x2107), Instr.bfx z .b64 (.c 4) (r 5) 7 33),
    (fields 0x05F 4 5 0 (w := 6) (i := 0x0C09), .bfi z .i32 (.c 4) (r 5) 9 12),
    (fields 0x060 7 5 6 (w := 6) (x := 0x0022), .cmp z .i32 .lt .any 7 (r 5) (r 6)),
    (fields 0x060 7 5 6 (w := 6) (x := 0x0019), .cmp z .i32 .ae .all 7 (r 5) (r 6)),
    (fields 0x061 1 63 0 (w := 3) (x := 0x8005) (i := 0xFFFFFFFF), .cmpi z .b64 .ge .lane0 1 ⟨.link .west, false, true⟩ 0xFFFFFFFF),
    (fields 0x062 4 5 6 (x := 0x0003), .sel z (.c 4) (r 5) (r 6) 3),
    (fields 0x063 4 0 0 (w := 3) (i := 0xFFFFFFFF), .movi z .b64 (.c 4) 0xFFFFFFFF),
    (fields 0x064 4 0 0 (i := 0x12345678), .movhi z (.c 4) 0x12345678),
    (fields 0x065 56 57 0 (w := 7), .mov z .w7 .sp ⟨.ra, false, false⟩),
    (fields 0x066 4 5 6 (w := 0), .shuf z .b8 (.c 4) (r 5) (r 6)),
    (fields 0x067 4 5 0 (w := 0) (i := 15), .laneget z .b8 (.c 4) (r 5) 15),
    (fields 0x068 4 5 0 (w := 1) (i := 7), .laneset z .b16 (.c 4) (r 5) 7),
    (fields 0x069 4 5 0 (w := 2) (i := 3), .bcast z .b32 (.c 4) (r 5) 3)], decodeTableWord 96 x.1 = some x.2 := by decide

/-- Class 0x2 (R135). -/
theorem test_words_capability : ∀ x ∈ [
    (fields 0x080 1 2 63 (pa := 1) (pb := 1), Instr.capsub z (.c 1) ⟨.c 2, true⟩ ⟨.link .west, true⟩),
    (fields 0x081 60 2 0, .caplen z (.link .north) (p 2)),
    (fields 0x082 1 2 0 (i := 0x81), .capperm z (.c 1) (p 2) 0x81),
    (fields 0x083 1 2 3, .capadd z (.c 1) (p 2) (p 3)),
    (fields 0x084 1 2 0 (i := 0xFFFFFFF0), .capaddi z (.c 1) (p 2) 0xFFFFFFF0),
    (fields 0x085 1 2 3, .capset z (.c 1) (p 2) (p 3)),
    (fields 0x086 1 2 0 (i := 8), .capget z (.c 1) (p 2) 8 0),
    (fields 0x087 5 2 3 (i := 0x42), .captst z 5 (p 2) (p 3) 0x42),
    (fields 0x088 1 2 0, .capclr z (.c 1) (p 2))], decodeTableWord 96 x.1 = some x.2 := by decide

/-- Class 0x3 (R108 to R114). -/
theorem test_words_convert : ∀ x ∈ [
    (fields 0x0C0 4 5 0 (rm := 7) (x := 0x0345), Instr.cvt z .dyn true 1 .int8 .hs4 (.c 4) (r 5)),
    (fields 0x0C1 4 5 0 (rm := 1) (w := 1) (x := 0x0001), .ftoi z .f32 .rtz true false (.c 4) (r 5)),
    (fields 0x0C1 4 5 0 (rm := 1) (w := 2) (x := 0x0002), .ftoi z .bf16 .rtz false true (.c 4) (r 5)),
    (fields 0x0C2 4 62 0 (rm := 2) (w := 0) (x := 0x8001), .itof z .f64 .rdn true (.c 4) ⟨.link .south, false, true⟩),
    (fields 0x0C3 4 5 0 (rm := 4) (x := 0x0003), .blkset z .rna .e4m3 (.c 4) (r 5)),
    (fields 0x0C4 44 5 0 (rm := 3) (w := 2) (x := 0x0100) (i := 63), .blkput z .bf16 .rup true 11 (r 5) 63),
    (fields 0x0C5 5 44 0 (pa := 1) (rm := 3) (w := 0) (i := 31), .blkget z .f64 .rup (.c 5) 11 true 31),
    (fields 0x0C6 4 5 0 (w := 1) (x := 0x0006), .blkfit z .f32 .lns6 (.c 4) (r 5))], decodeTableWord 96 x.1 = some x.2 := by decide

/-- Class 0x4 (R152, R157). -/
theorem test_words_float : ∀ x ∈ [
    (fields 0x100 3 4 5 (gp := 2) (rm := 3) (w := 1), Instr.fadd ⟨false, 2, 0⟩ .f32 .rup (.c 3) (r 4) (r 5)),
    (fields 0x101 1 2 3 (rm := 1) (w := 0), .fsub z .f64 .rtz (.c 1) (r 2) (r 3)),
    (fields 0x102 1 2 60 (rm := 2) (w := 2) (x := 0x4000), .fmul z .bf16 .rdn (.c 1) (r 2) ⟨.link .north, false, true⟩),
    (fields 0x103 1 2 3 (rm := 7) (w := 1), .ffma z .f32 .dyn (.c 1) (r 2) (r 3)),
    (fields 0x104 1 2 3 (rm := 4) (w := 1), .ffms z .f32 .rna (.c 1) (r 2) (r 3)),
    (fields 0x105 1 2 3 (w := 0), .fnfma z .f64 .rne (.c 1) (r 2) (r 3)),
    (fields 0x106 1 2 3 (w := 0), .fdiv z .f64 .rne (.c 1) (r 2) (r 3)),
    (fields 0x107 1 2 0 (w := 0), .fsqrt z .f64 .rne (.c 1) (r 2)),
    (fields 0x108 1 2 3 (w := 1), .fmin z .f32 (.c 1) (r 2) (r 3)),
    (fields 0x109 1 2 3 (w := 1), .fmax z .f32 (.c 1) (r 2) (r 3)),
    (fields 0x10A 1 2 0 (w := 2), .fabs z .bf16 (.c 1) (r 2)),
    (fields 0x10B 1 2 0 (w := 2), .fneg z .bf16 (.c 1) (r 2)),
    (fields 0x10C 6 2 3 (w := 1) (x := 0x0026), .fcmp z .f32 .un .any 6 (r 2) (r 3)),
    (fields 0x10D 1 2 0 (w := 0), .fclass z .f64 (.c 1) (r 2)),
    (fields 0x10E 1 2 0 (rm := 1) (w := 1) (x := 0x0001), .frint z .f32 .rtz true (.c 1) (r 2)),
    (fields 0x10F 1 2 3 (rm := 1) (w := 1), .fscale z .f32 .rtz (.c 1) (r 2) (r 3)),
    (fields 0x110 1 2 0 (rm := 1) (w := 1), .freduce z .f32 .rtz (.c 1) (r 2))], decodeTableWord 96 x.1 = some x.2 := by decide

/-- Class 0x5 (R162, R165, R171, R172). -/
theorem test_words_special : ∀ x ∈ [
    (fields 0x140 1 2 0 (rm := 3) (w := 0), Instr.fexp z .f64 .rup (.c 1) (r 2)),
    (fields 0x141 1 2 0 (w := 1), .fexp2 z .f32 .rne (.c 1) (r 2)),
    (fields 0x142 1 2 0 (w := 1), .fexpm1 z .f32 .rne (.c 1) (r 2)),
    (fields 0x143 1 2 0 (w := 1), .flog z .f32 .rne (.c 1) (r 2)),
    (fields 0x144 1 2 0 (w := 1), .flog2 z .f32 .rne (.c 1) (r 2)),
    (fields 0x145 1 2 0 (w := 1), .flog1p z .f32 .rne (.c 1) (r 2)),
    (fields 0x146 1 2 0 (w := 2), .ferf z .bf16 .rne (.c 1) (r 2)),
    (fields 0x147 1 2 0 (w := 2), .ferfc z .bf16 .rne (.c 1) (r 2)),
    (fields 0x148 1 61 0 (pa := 1) (w := 2) (x := 0x8000), .frcp z .bf16 .rne (.c 1) ⟨.link .east, true, true⟩),
    (fields 0x149 1 2 0 (w := 0), .frsqrt z .f64 .rne (.c 1) (r 2)),
    (fields 0x14A 1 0 0, .fcsrget z (.c 1)),
    (fields 0x14B 1 2 0 (i := 0x00071F1F), .fcsrset z (.c 1) (r 2) 0x00071F1F),
    (fields 0x14C 1 0 0 (i := 0x15), .fflagclr z (.c 1) 0x15),
    (fields 0x14D 1 0 0, .rnd z (.c 1)),
    (fields 0x14E 1 0 0, .rndstate z (.c 1)),
    (fields 0x14E 1 2 0 (pa := 1) (x := 0x0001), .rndstateW z (.c 1) ⟨.c 2, true, false⟩)], decodeTableWord 96 x.1 = some x.2 := by decide

/-- Class 0x6 (R185, R190). -/
theorem test_words_matrix : ∀ x ∈ [
    (fields 0x180 3 0 0, Instr.mzero z 3),
    (fields 0x181 2 4 46 (pa := 1) (x := 0x0003), .mdot z true true 2 (.pair 2 true) (.pair 23 false)),
    (fields 0x181 1 62 4 (x := 0x8002), .mdot z false true 1 (.port .south false true) (.pair 2 false)),
    (fields 0x182 46 3 0 (x := 0x0001) (i := 7), .mrd z true 23 3 7),
    (fields 0x183 3 46 0 (pa := 1) (i := 5), .mwr z false 3 23 true 5),
    (fields 0x184 1 2 0 (rm := 2), .madd z .rdn 1 2),
    (fields 0x185 1 60 0 (rm := 4) (x := 0x8000), .mscl z .rna 1 ⟨.link .north, false, true⟩),
    (fields 0x186 9 0 0, .mstat z (.c 9))], decodeTableWord 96 x.1 = some x.2 := by decide

/-- Class 0x7 (R216, R223) and class 0x8 (R247). -/
theorem test_words_memory : ∀ x ∈ [
    (fields 0x1C0 1 2 0 (w := 7) (x := 0x0060) (i := 0xFFFFFFF0), Instr.ld z .w7 ⟨true, 2⟩ (.c 1) (p 2) 0xFFFFFFF0),
    (fields 0x1C1 0 2 60 (pb := 1) (w := 0) (x := 0x4050) (i := 3), .st z .b8 ⟨true, 1⟩ (p 2) ⟨.link .north, true, true⟩ 3),
    (fields 0x1C2 1 2 3 (w := 5), .ldx z .i16 ⟨false, 0⟩ (.c 1) (p 2) (p 3)),
    (fields 0x1C3 1 2 3 (w := 2) (x := 0x0040), .stx z .b32 ⟨true, 0⟩ (.c 1) (p 2) (p 3)),
    (fields 0x1C4 1 2 0 (i := 16), .ldc z ⟨false, 0⟩ (.c 1) (p 2) 16),
    (fields 0x1C5 0 2 3 (i := 32), .stc z ⟨false, 0⟩ (p 2) (r 3) 32),
    (fields 0x1C6 1 2 0 (w := 3) (i := 8), .lde z (.c 1) (p 2) 8),
    (fields 0x1C7 1 2 0 (w := 3) (i := 8), .ldf z (.c 1) (p 2) 8),
    (fields 0x1C8 0 2 3 (w := 3) (i := 8), .stf z (p 2) (r 3) 8),
    (fields 0x1C9 0 2 0 (x := 0x0001) (i := 8), .feset z true (p 2) 8),
    (fields 0x1CA 1 2 3 (w := 2) (x := 0x0007) (i := 4), .amo z .b32 .fadd (.c 1) (p 2) (r 3) 4),
    (fields 0x1CA 1 2 3 (w := 7) (x := 0x0006) (i := 4), .amo z .w7 .xchg (.c 1) (p 2) (r 3) 4),
    (fields 0x1CB 1 2 3 (w := 7) (i := 16), .cas z .w7 (.c 1) (p 2) (r 3) 16),
    (fields 0x1CC 0 2 0 (i := 64), .pref z (p 2) 64),
    (fields 0x1CD 0 2 0 (i := 64), .linewb z (p 2) 64),
    (fields 0x1CE 0 2 0 (i := 64), .lineinv z (p 2) 64),
    (fields 0x200 0 0 0 (x := 0x0013), .fence z .system .full),
    (fields 0x201 1 0 0, .tmget z (.c 1)),
    (fields 0x202 0 0 0, .tmclr z),
    (fields 0x203 0 63 0 (x := 0x8009), .fenceh z .region .acq ⟨.link .west, false, true⟩)],
    decodeTableWord 96 x.1 = some x.2 := by decide

/-- Class 0x9 (R259). -/
theorem test_words_copy : ∀ x ∈ [
    (fields 0x240 47 2 3 (x := 0x0001), Instr.strm z true (.c 47) (p 2) (p 3)),
    (fields 0x241 1 0 0, .strmend z (.c 1)),
    (fields 0x242 1 2 0, .strmq z (.c 1) (.c 2)),
    (fields 0x243 1 2 3 (x := 0x1000), .copy z true (.c 1) (p 2) (p 3)),
    (fields 0x244 1 2 3 (rm := 1) (x := 0x1136), .copyc z .rtz true true .e4m3 .lns6 (.c 1) (p 2) (p 3)),
    (fields 0x245 46 2 3 (w := 7), .gather z .w7 false 23 (p 2) (p 3)),
    (fields 0x246 4 2 3 (w := 1) (x := 0x1000), .scatter z .b16 true 2 (p 2) (p 3)),
    (fields 0x247 0 2 0 (i := 0xFFFFF), .txbinit z (p 2) 0xFFFFF),
    (fields 0x248 1 2 0, .txbarr z (.c 1) (p 2)),
    (fields 0x249 0 2 0 (i := 0xFFFFFFFF), .txbexp z (p 2) 0xFFFFFFFF),
    (fields 0x24A 1 2 3, .txbwait z (.c 1) (p 2) (p 3)),
    (fields 0x24B 7 2 3, .txbtest z 7 (p 2) (p 3))], decodeTableWord 96 x.1 = some x.2 := by decide

/-- Class 0xA (R304) and class 0xB (R329). -/
theorem test_words_network : ∀ x ∈ [
    (fields 0x280 0 2 3 (x := 0x007F), Instr.send z (some 63) (p 2) (r 3)),
    (fields 0x280 0 2 61 (x := 0x4000), .send z none (p 2) ⟨.link .east, false, true⟩),
    (fields 0x281 0 2 0 (x := 0x0045) (i := 0xDEADBEEF), .sendi z (some 5) (p 2) 0xDEADBEEF),
    (fields 0x282 1 0 0, .inpop z (.c 1)),
    (fields 0x283 1 0 0, .inpeek z (.c 1)),
    (fields 0x284 1 0 0, .rtlat z (.c 1)),
    (fields 0x285 0 2 0, .rtload z (p 2)),
    (fields 0x286 1 0 0 (i := 0x9), .linkclr z (.c 1) 0x9),
    (fields 0x287 1 2 3 (x := 0x0001), .osend z true (.c 1) (p 2) (p 3)),
    (fields 0x288 1 0 0, .oslot z (.c 1)),
    (fields 0x289 0 0 0, .ofence z),
    (fields 0x2C0 0 0 0, .pause z),
    (fields 0x2C1 0 0 0 (x := 0x0001) (i := 4), .emit z true 4),
    (fields 0x2C2 1 0 0 (i := 63), .present z 1 63),
    (fields 0x2C3 2 0 0 (i := 62), .prev z 2 62),
    (fields 0x2C4 0 0 0 (x := 0x0211) (i := 0xFFFFFFFE), .watch z .strong 33 0xFFFFFFFE),
    (fields 0x2C4 0 0 0 (x := 0x03F3), .watch z .suspend 63 0),
    (fields 0x2C5 0 0 0, .unwatch z),
    (fields 0x2C6 1 60 0 (x := 0x8000), .canemit z (.c 1) ⟨.link .north, false, true⟩),
    (fields 0x2C7 0 2 0, .disclaim z (r 2)),
    (fields 0x2C8 1 0 0, .instant z (.c 1)),
    (fields 0x2C9 0 0 0, .rbar z),
    (fields 0x2CA 1 0 0 (x := 0x0001), .rexcuseOn z (.c 1)),
    (fields 0x2CA 1 0 0, .rexcuseOff z (.c 1)),
    (fields 0x2CB 0 0 0 (i := 32), .await z 32)], decodeTableWord 96 x.1 = some x.2 := by decide

/-- Class 0xC (R362), class 0xD (R391) and class 0xE (R424), with the registers of R53, R316, R326, R147 and R405. -/
theorem test_words_system : ∀ x ∈ [
    (fields 0x300 2 3 4 (pa := 1) (i := 0xFFFFFFFF), Instr.fork z 2 ⟨.c 3, true⟩ (p 4) 0xFFFFFFFF),
    (fields 0x301 0 0 0, .join z),
    (fields 0x302 0 0 0, .yield z),
    (fields 0x303 0 0 0, .halt z none),
    (fields 0x303 0 0 0 (x := 0x0001) (i := 0xFFFF), .halt z (some 0xFFFF)),
    (fields 0x304 1 2 0, .launch z (.c 1) (p 2)),
    (fields 0x305 0 0 0, .trigger z),
    (fields 0x306 1 0 0 (i := 8), .who z (.c 1) 8),
    (fields 0x307 1 2 0, .lwait z (.c 1) (p 2)),
    (fields 0x308 0 0 0, .gbar z),
    (fields 0x340 1 2 3, .pinit z (.c 1) (p 2) (p 3)),
    (fields 0x341 0 2 62 (x := 0x4000), .pput z (p 2) ⟨.link .south, false, true⟩),
    (fields 0x342 46 5 0 (x := 0x0038), .ptakeWait z 7 23 (p 5)),
    (fields 0x342 10 5 0 (x := 0x0021), .ptakeTry z 4 5 (p 5)),
    (fields 0x342 12 5 0 (x := 0x0012), .ptakeX z 2 6 (p 5)),
    (fields 0x343 1 2 0, .pbound z (.c 1) (p 2)),
    (fields 0x344 1 2 0, .psize z (.c 1) (p 2)),
    (fields 0x345 1 2 0, .pfree z (.c 1) (p 2)),
    (fields 0x346 0 2 0, .psync z (p 2)),
    (fields 0x380 0 2 0 (i := 0xC3), .trap z 0xC3 (p 2)),
    (fields 0x381 0 0 0, .eret z false),
    (fields 0x382 1 0 0 (i := 0x306), .csrget z (.c 1) 0x306),
    (fields 0x383 1 2 0 (i := 0x107), .csrset z (.c 1) (p 2) 0x107),
    (fields 0x384 0 0 0 (i := 0xBEEF), .brk z 0xBEEF),
    (fields 0x385 1 0 0, .ckpt z (.c 1)),
    (fields 0x386 0 0 0 (x := 0x0001), .tlbinvAll z),
    (fields 0x386 0 2 0 (pa := 1), .tlbinvPage z ⟨.c 2, true⟩),
    (fields 0x387 1 2 0, .ctxsave z (.c 1) (p 2)),
    (fields 0x388 1 2 0, .ctxload z (.c 1) (p 2)),
    (fields 0x389 1 2 0 (i := 0x7E), .notify z (.c 1) (p 2) 0x7E),
    (fields 0x383 1 2 0 (i := 0x009), .mboxWrite z (.c 1) (p 2)),
    (fields 0x383 1 2 0 (i := 0x00C), .canrldWrite z (.c 1) (p 2)),
    (fields 0x383 1 2 0 (i := 0x004), .watchstWrite z (.c 1) (p 2)),
    (fields 0x383 1 2 0 (i := 0x001), .fcsrWrite z (.c 1) (p 2)),
    (fields 0x383 1 2 0 (i := 0x100), .gstatDiscClear z (.c 1) (p 2))], decodeTableWord 96 x.1 = some x.2 := by decide

/-! ### Worked examples of the manual, each one step -/

/-- Four 32-bit lanes, lane 0 first. -/
def lanes4 (a b c d : Nat) : RegCell := num (a + b * 2 ^ 32 + c * 2 ^ 64 + d * 2 ^ 96)
/-- The next state with FCSR at zero before it. -/
def run (i : Instr) (k : Fin 48) (x : RegCell) (ok : State → Bool) : Bool :=
  match exec i ((withC k x).modSt (fun t => { t with fcsr := 0, pl := false })) with | .next t => ok t | _ => false

/-- 04, after R109: CVT.RNE.SAT of {470.0, -0.013, a quiet NaN, +inf} to E4M3 sets NX and UF. -/
theorem test_worked_cvt : run (.cvt z .rne true 1 .f32 .e4m3 (.c 4) (r 5)) 5 (lanes4 0x43EB0000 0xBC54FDF4 0x7FC00000 0x7F800000)
    (fun t => (t.st.c[4]).v.toNat / 2 ^ 32 % 2 ^ 32 == 0x7E7F877E && t.st.fcsr.toNat == 3) = true := by decide
/-- 04, after R109: {0.0, 1.0, -2.2, 9.0} to HS4. -/
theorem test_worked_cvt_hs4 : run (.cvt z .rne false 0 .f32 .hs4 (.c 6) (r 5)) 5 (lanes4 0 0x3F800000 0xC00CCCCD 0x41100000)
    (fun t => (t.st.c[6]).v.toNat % 2 ^ 16 == 0x7D00) = true := by decide
/-- 04, after R110: FTOI.F32.RTZ.S of {2.9, -2.9, 3.0e9, a quiet NaN}. -/
theorem test_worked_ftoi : run (.ftoi z .f32 .rtz true false (.c 4) (r 5)) 5 (lanes4 0x4039999A 0xC039999A 0x4F32D05E 0x7FC00000)
    (fun t => t.st.c[4] == lanes4 2 0xFFFFFFFE 0x7FFFFFFF 0) = true := by decide
/-- 04, a block made: BLKFIT of {100.0, 37.5, 0.05, 3.0} writes the header with the scale 229/1024. -/
theorem test_worked_blkfit : run (.blkfit z .f32 .e4m3 (.c 8) (r 6)) 6 (lanes4 0x42C80000 0x42160000 0x3D4CCCCD 0x40400000)
    (fun t => (t.st.c[8]).v.toNat % 2 ^ 32 == 0x3E650103) = true := by decide
/-- 04, a block made: BLKPUT of {100.0, -37.5, 0.05, 3.0} under that header. -/
theorem test_worked_blkput : (match exec (.blkput z .f32 .rne false 2 (r 5) 0) (((withC 5 (lanes4 0x42C80000 0xC2160000 0x3D4CCCCD 0x40400000)).modSt
      (fun t => { t with fcsr := 0, c := ((((t.c.set 8 (num 0x3E650103)).set 9 (num 0)).set 10 (num 0)).set 11 (num 0)) }))) with
    | .next t => (t.st.c[8]).v.toNat == 0x5526F27E3E650103 && (t.st.c[9]).v == 0 | _ => false) = true := by decide
/-- 06, after R161: the two FREDUCE calls, whose results are on their way. -/
theorem test_worked_freduce :
    run (.freduce z .f32 .rne (.c 2) (r 1)) 1 (lanes4 0x4B800000 0x3F800000 0x3F800000 0)
      (fun t => t.g.late.map (fun l => (l.v.toNat % 2 ^ 32, l.flags)) == [(0x4B800000, 1)]) = true
    ∧ run (.freduce z .f32 .rne (.c 2) (r 1)) 1 (lanes4 0x4B800000 0 0x3F800000 0x3F800000)
      (fun t => t.g.late.map (fun l => (l.v.toNat % 2 ^ 32, l.flags)) == [(0x4B800001, 0)]) = true := by decide
/-- 06, after R172: the first RND of strand 0 under seed 0. -/
theorem test_worked_rnd : (match exec (.rnd z (.c 3)) (withSt (fun t => { t with gen0 := 0, gen1 := 0x9E3779B97F4A7C15 })) with
    | .next t => (t.st.c[3]).v.toNat == 0x3C6EF35871DE8E5F9E3779B97F4A7C15 && t.st.gen0 == 0x9E37799EF294124A
    | _ => false) = true := by decide
/-- 05, after R143: CAPLEN of 0x1F0_0001 bytes. -/
theorem test_worked_caplen : run (.caplen z (.c 4) (p 5)) 5 (num 0x1F00001)
    (fun t => t.st.c[4] == num (0x1F00002 + 0xFFFFFFFFFFFFFFFE * 2 ^ 64)) = true := by decide
/-- 05, after R143: CAPSUB of that capability of space 4 with its cursor at 0x100_0004. -/
theorem test_worked_capsub : (match exec (.capsub z (.c 6) (p 4) (p 5)) ((withC 5 (num 0x1F00001)).modSt
      (fun t => { t with c := t.c.set 4 (capReg (mkCap 0b11 4 3 0x800000 0x1000004 0x4000000000)) })) with
    | .next t => t.st.c[6] == capReg (mkCap 0b11 4 1 0xF80001 0 0x4001000004) | _ => false) = true := by decide
/-- 15, the worked trap: TRAP #5, c3 with 9 in c3. -/
theorem test_worked_trap : (match exec (.trap z 5 (p 3)) ((withC 3 (num 9)).modSt (fun t => { t with kernel := false, depth := 0, pl := false })) with
    | .next t => t.st.trapval == 9 && t.st.trapinfo.toNat % 2 ^ 16 == 0x0013 && t.st.trapinfo.toNat / 2 ^ 16 % 256 == 5 && t.st.tstat == 0x101
    | _ => false) = true := by decide
/-- 08, after R209: 0x123_4500 with 127 live memory dies, and with 128. -/
theorem test_worked_hashed :
    hashedKey { memDies := 127, hashedPart := 2 ^ 28 } 0x1234500 = some (19 * 2 ^ 29 + 0x28E00)
    ∧ hashedKey { memDies := 128, hashedPart := 2 ^ 28 } 0x1234500 = some (13 * 2 ^ 29 + 582 * 256)
    ∧ keyHome (19 * 2 ^ 29 + 0x28E00) = .mem 19 14 := by decide

/-! ### Hypotheses met: integers, control, capabilities (O1 to O6) -/

/-- Everything that any word class of O1 to O9 needs is there. -/
theorem witness_arithmetic : let i : Instr := .adds z .i8 (.c 9) (r 1) (r 2)
    (arithLanes i).isSome = true ∧ ReadyFor i (needsOf i) base := ⟨rfl, ready (by decide)⟩
theorem witness_bits : let i : Instr := .bfi z .b8 (.c 9) (r 1) 7 8
    (bitLanes i).isSome = true ∧ i.wf = true ∧ ReadyFor i (needsOf i) base := ⟨rfl, by decide, ready (by decide)⟩
theorem witness_lane_moves : let i : Instr := .laneset z .i16 (.c 9) (r 1) 7
    (moveLanes i).isSome = true ∧ i.wf = true ∧ ReadyFor i (needsOf i) base := ⟨rfl, by decide, ready (by decide)⟩
theorem witness_whole_moves : let i : Instr := .mov z .w7 (.c 9) (r 3)
    (wholeMoves i).isSome = true ∧ ReadyFor i (needsOf i) base := ⟨rfl, ready (by decide)⟩
theorem witness_division : let i : Instr := .div z .w7 (.c 9) (r 1) (r 0)
    (divisions i).isSome = true ∧ ReadyFor i (needsOf i) base ∧ ((needsOf i).after base).cell (.c 9) = num 0 :=
  ⟨rfl, ready (by decide), by decide⟩
theorem witness_compare : let i : Instr := .cmpi z .b16 .ae .any 3 (r 1) 0xFFFF8000
    (compares i).isSome = true ∧ ReadyFor i (needsOf i) base := ⟨rfl, ready (by decide)⟩
theorem witness_direct_branches : ReadyFor (.nop z) (needsOf (.nop z)) base ∧ ReadyFor (.br z 5) (needsOf (.br z 5)) base
    ∧ ReadyFor (.call z 5) (needsOf (.call z 5)) base ∧ ReadyFor (.loop z (.c 1) 5) (needsOf (.loop z (.c 1) 5)) base :=
  ⟨ready (by decide), ready (by decide), ready (by decide), ready (by decide)⟩
theorem witness_indirect_branches : let i : Instr := .calli z (p 5)
    ReadyFor i (needsOf i) base ∧ goodTarget (cell (needsOf i) base 0) := ⟨ready (by decide), by unfold goodTarget; decide⟩
/-- Each kind of a bad target at a state of its own. -/
theorem witness_bad_target : let i : Instr := .bri z (p 5)
    (∀ x ∈ [num 8, capReg (mkCap 5 7 0 64 0 0), capReg (mkCap 1 3 0 64 0 0), capReg (mkCap 5 6 0 64 0 0), capReg (mkCap 5 3 0 64 0 2)],
      Instr.readyIn i (withC 5 x) = true ∧ cell (needsOf i) (withC 5 x) 0 = x)
    ∧ 7 ≤ capSpace (mkCap 5 7 0 64 0 0) ∧ capEX (mkCap 1 3 0 64 0 0) = false ∧ capSpace (mkCap 5 6 0 64 0 0) = 6
    ∧ capCursor (mkCap 5 3 0 64 0 2) % 4 = 2 := by decide
theorem witness_predicates : Instr.readyIn (.pxor z 1 2 3) base = true ∧ Instr.readyIn (.pget z (.c 9)) base = true
    ∧ Instr.readyIn (.psetm z (p 1) 0xFF) base = true := by decide
/-- The cursor at the top of its reach, and one past it. -/
theorem witness_cap_moves : let i : Instr := .capaddi z (.c 9) (p 4) 0x7FFFFFFF
    ReadyFor i (needsOf i) base ∧ (cell (needsOf i) base 0).tag = true ∧ inReach (src (needsOf i) base 0) 0x7FFFFFFF
    ∧ ReadyFor (.capset z (.c 9) (p 4) (p 2)) (needsOf (.capset z (.c 9) (p 4) (p 2))) (withC 2 (num (2 ^ 44)))
    ∧ ¬ inReach (src (needsOf (.capset z (.c 9) (p 4) (p 2))) (withC 2 (num (2 ^ 44))) 0) (2 ^ 44 - 2 ^ 20) :=
  ⟨ready (by decide), by decide, by unfold inReach; decide, ready (by decide), by unfold inReach; decide⟩
/-- 5 bytes within 64 KiB; and 65,537 of them, which leave it. -/
theorem witness_capsub : let i : Instr := .capsub z (.c 9) (p 4) (p 2)
    ReadyFor i (needsOf i) base ∧ fits 5 0 5 ∧ capCursor (panelCap 0) + 5 ≤ capBase (panelCap 0) + capLen (panelCap 0)
    ∧ ReadyFor i (needsOf i) (withC 2 (num 65537)) ∧ capBase (panelCap 0) + capLen (panelCap 0) < capCursor (panelCap 0) + 65537 :=
  ⟨ready (by decide), ⟨by decide, by decide, by decide, fun j h => absurd h (Nat.not_lt_zero j)⟩, by decide, ready (by decide), by decide⟩
/-- A length that needs exponent 1, at an odd cursor. -/
theorem witness_capsub_unaligned : let i : Instr := .capsub z (.c 9) (p 4) (p 2)
    let s := (withC 4 (capReg (mkCap 0 3 8 (2 ^ 23) 1 0))).modSt (fun t => { t with c := t.c.set 2 (num (2 ^ 24)) })
    ReadyFor i (needsOf i) s ∧ fits (2 ^ 24) 1 (2 ^ 23) ∧ capCursor (src (needsOf i) s 0) % 2 = 1 :=
  ⟨ready (by decide), ⟨by decide, by decide, by decide, fun j h => by cases j <;> first | decide | omega⟩, by decide⟩
theorem witness_cap_untagged : let i : Instr := .capget z (.c 9) (p 1) 8 0
    ReadyFor i (needsOf i) base ∧ (cell (needsOf i) base 0).tag = false := ⟨ready (by decide), by decide⟩
theorem witness_cap_fields : Instr.readyIn (.caplen z (.c 9) (p 2)) base = true ∧ Instr.readyIn (.capperm z (.c 9) (p 3) 1) base = true
    ∧ Instr.readyIn (.capget z (.c 9) (p 3) 0 3) base = true ∧ Instr.readyIn (.capclr z (.c 9) (p 1)) base = true
    ∧ 2 ^ 44 < (((num (2 ^ 44 + 1)).v).setWidth 64).toNat := by decide
theorem witness_captst : Instr.readyIn (.captst z 1 (p 4) (p 2) 0xFF) base = true := by decide

/-! ### Hypotheses met: floating point, conversions (O7 to O10) -/

theorem witness_fp_short : let i : Instr := .fadd z .f32 .rne (.c 9) (r 1) (r 2)
    ReadyFor i (needsOf i) base ∧ (∀ f, fpShort i = some f → noTrap base (f.flags (needsOf i) base)) := by
  refine ⟨ready (by decide), fun f h => ?_⟩
  cases h
  show Nat.land _ 0 = 0
  exact Nat.and_zero _
/-- A signalling NaN with NVE set. -/
theorem witness_fp_trap : let i : Instr := .fmin z .f64 (.c 9) (r 1) (r 2)
    let s := (withC 1 (num 0x7FF0000000000001)).modSt (fun t => { t with fcsr := 0x1F00 })
    ReadyFor i (needsOf i) s ∧ ∀ f, fpShort i = some f → ¬ noTrap s (f.flags (needsOf i) s) := by
  refine ⟨ready (by decide), fun f h => ?_⟩
  cases h
  unfold noTrap
  decide
theorem witness_fp_long : let i : Instr := .fsqrt z .f64 .rtz (.c 9) (r 1)
    (fpLong i).isSome = true ∧ ReadyFor i (needsOf i) base ∧ base.enables = 0 ∧ (base.cell (.c 9)).stream = false :=
  ⟨rfl, ready (by decide), by decide, by decide⟩
theorem witness_fp_commit : let i : Instr := .fsqrt z .f64 .rtz (.c 9) (r 1)
    let s := withSt (fun t => { t with fcsr := 0x1F00 })
    (fpLong i).isSome = true ∧ ReadyFor i (needsOf i) s ∧ s.enables ≠ 0 := ⟨rfl, ready (by decide), by decide⟩
theorem witness_fp_bits : let i : Instr := .fclass z .bf16 (.c 9) (r 1)
    (fpBits i).isSome = true ∧ ReadyFor i (needsOf i) base := ⟨rfl, ready (by decide)⟩
theorem witness_fcmp : let i : Instr := .fcmp z .f64 .lt .lane0 3 (r 1) (r 2)
    ReadyFor i (needsOf i) base ∧ base.enables = 0 := ⟨ready (by decide), by decide⟩
theorem witness_fcsr : let i : Instr := .fcsrWrite z (.c 9) (p 1)
    (fcsrOps i).isSome = true ∧ ReadyFor i (needsOf i) base ∧ base.fpOut = false := ⟨rfl, ready (by decide), by decide⟩
theorem witness_random : Instr.readyIn (.rnd z (.c 9)) base = true ∧ Instr.readyIn (.rndstate z (.c 9)) base = true
    ∧ Instr.readyIn (.rndstateW z (.c 9) (r 1)) base = true := by decide
/-- CVT to fewer lanes, and to more, by the last group of lanes. -/
theorem witness_cvt : (Instr.cvt z .rne true 3 .f32 .e4m3 (.c 9) (r 1)).wf = true
    ∧ Instr.readyIn (.cvt z .rne true 3 .f32 .e4m3 (.c 9) (r 1)) base = true
    ∧ Instr.readyIn (.cvt z .rne true 1 .f32 .f64 (.c 9) (r 1)) base = true ∧ base.enables = 0 := by decide
/-- A scale of 1 and of 0 for BLKSET. -/
theorem witness_block_headers : Instr.readyIn (.blkset z .rne .int8 (.c 9) (r 1)) (withC 1 (num 0x3F800000)) = true
    ∧ scaleOk (convBin bf16 .rne false (f32.decode 0x3F800000)).1 = true ∧ scaleOk (convBin bf16 .rne false (f32.decode 0)).1 = false
    ∧ Instr.readyIn (.blkset z .rne .int8 (.c 9) (r 1)) (withC 1 (num 0)) = true
    ∧ Instr.readyIn (.blkfit z .f32 .int8 (.c 9) (r 1)) base = true ∧ base.enables = 0 := by decide
/-- A quad whose header is empty, bad, and good. -/
theorem witness_block_elements : Instr.readyIn (.blkget z .f32 .rne (.c 20) 3 false 0) base = true
    ∧ Instr.readyIn (.blkput z .f32 .rne false 3 (r 1) 0) base = true
    ∧ header (blockHeader (needsOf (.blkget z .f32 .rne (.c 20) 3 false 0)) base 0) = .empty
    ∧ (match header (blockHeader (needsOf (.blkget z .f32 .rne (.c 20) 3 false 0)) (withC 12 (num 0x200)) 0) with
        | .bad _ => true | _ => false) = true
    ∧ (match header (blockHeader (needsOf (.blkget z .f32 .rne (.c 20) 3 false 0))
        (withC 12 (num (mkHeader .int8 0x3F80))) 0) with | .ok _ _ => true | _ => false) = true := by decide

/-! ### Hypotheses met: the block-dot unit (O11, O12) -/

theorem witness_accumulators : base.accConflict 3 = none ∧ Instr.readyIn (.mzero z 3) base = true
    ∧ Instr.readyIn (.mwr z true 3 5 false 7) base = true ∧ Instr.readyIn (.mrd z true 5 3 7) base = true := by decide
theorem witness_mstat : Instr.readyIn (.mstat z (.c 9)) base = true ∧ base.det = false ∧ base.g.fmtA < 256 ∧ base.g.fmtB < 256 := by decide
/-- Two pairs with blocks of BF16 in LOCAL. -/
def blockPair (s : State) (k : Fin 48) (j : Fin 48) : State :=
  (s.modSt (fun t => { t with c := (t.c.set k (capReg (localCap 0))).set j (num 0) }))
theorem witness_unit_enters : base.accConflict 0 = none ∧ Instr.readyIn (.madd z .rne 0 1) base = true
    ∧ Instr.readyIn (.mscl z .dyn 0 (r 1)) base = true
    ∧ (match needs (.mdot z true true 0 (.pair 5 false) (.pair 6 false)) with
        | some n => (match mxSource (.pair 5 false) 4096 ((n.values (blockPair (blockPair base 10 11) 12 13)).take 2) with
            | .ok x => (blockPair (blockPair base 10 11) 12 13).g.badBlock x.offs == none
            | _ => false)
        | none => false) = true := by decide
/-- A MADD at the head of the unit. -/
def flight0 : MxFlight := { num := 1, slot := 0, op := .madd 0 1 (Vector.replicate 64 0) .rne, wa := [], wb := [], due := 8 }
theorem witness_unit_commits : let s := withG (fun g => { g with mx := [flight0] })
    readsDone s flight0 ∧ (match s.g.mxResult flight0 [] [] with | .ok r => r.all (fun x => x.2 == 0) | _ => false) = true :=
  ⟨⟨by simp [flight0], by simp [withG, base, State.reset, State.modG]⟩, by decide⟩

/-! ### Hypotheses met: memory (O13 to O18) -/

/-- LOCAL word 0 and byte 8 of the manual's bank 1 (R202). -/
def local0 : Resolved := ⟨0, 0, .sp ⟨1, 0⟩ 0, 0, 0, true⟩
/-- An address is good and is this one. -/
def isAddr (x : Addr) (r : Resolved) : Bool :=
  match x with
  | .ok q => q.space == r.space && q.v == r.v && q.target == r.target && q.pa == r.pa && q.pol == r.pol && q.chk == r.chk
  | _ => false
theorem of_isAddr {x : Addr} {r : Resolved} (h : isAddr x r = true) : x = .ok r := by
  unfold isAddr at h
  split at h
  · rename_i q
    obtain ⟨_, _, _, _, _, _⟩ := q
    obtain ⟨_, _, _, _, _, _⟩ := r
    simp only [Bool.and_eq_true, beq_iff_eq] at h
    obtain ⟨⟨⟨⟨⟨rfl, rfl⟩, rfl⟩, rfl⟩, rfl⟩, rfl⟩ := h
    rfl
  · simp at h
/-- The address is good and nothing holds the access back. -/
def reachB (s : State) (x : RegCell) (delta : Int) (a : Ask) (r : Resolved) : Bool :=
  isAddr (s.resolve x delta a) r && (!a.rd || !s.badAt r a.size) && (!a.wr || (s.heldBack r).isNone)
theorem reaches_of {s : State} {x : RegCell} {delta : Int} {a : Ask} {r : Resolved} (h : reachB s x delta a r = true) :
    reaches s x delta a r := by
  simp only [reachB, Bool.and_eq_true, Bool.or_eq_true, Bool.not_eq_true', Option.isNone_iff_eq_none] at h
  obtain ⟨⟨h1, h2⟩, h3⟩ := h
  exact ⟨of_isAddr h1, fun e => by simpa [e] using h2, fun e => by simpa [e] using h3⟩
theorem witness_access : let i : Instr := .st z .b64 ⟨false, 0⟩ (p 3) (r 1) 0
    ReadyFor i (needsOf i) base ∧ (∀ a, accesses i = some a → reaches ((needsOf i).after base) (cell (needsOf i) base 0) 0
      (a.ask (cell (needsOf i) base)) local0) ∧ ((needsOf i).after base).checked local0 = false := by
  refine ⟨ready (by decide), fun a h => ?_, by decide⟩
  cases h
  exact reaches_of (by decide)
theorem witness_every_access : Instr.readyIn (.ld z .w7 ⟨false, 0⟩ (.c 9) (p 3) 0) base = true
    ∧ Instr.readyIn (.ldx z .i16 ⟨false, 0⟩ (.c 9) (p 3) (p 1)) base = true ∧ Instr.readyIn (.stx z .b8 ⟨false, 0⟩ (.c 9) (p 3) (p 1)) base = true
    ∧ Instr.readyIn (.ldc z ⟨false, 0⟩ (.c 9) (p 3) 16) base = true ∧ Instr.readyIn (.stc z ⟨false, 0⟩ (p 3) (r 4) 16) base = true
    ∧ Instr.readyIn (.feset z true (p 3) 8) base = true ∧ Instr.readyIn (.amo z .b32 .fadd (.c 9) (p 3) (r 1) 4) base = true
    ∧ Instr.readyIn (.cas z .b64 (.c 9) (p 3) (r 1) 8) base = true := by decide
/-- A load in a deterministic launch, before it enters, with its answer, and with a conflict. -/
theorem witness_checked : let i : Instr := .ld z .b64 ⟨false, 0⟩ (.c 9) (p 3) 0
    let s := withL (fun l => { l with det := true })
    (needsOf i).Met s ∧ (∀ a, accesses i = some a → reaches ((needsOf i).after s) (cell (needsOf i) s 0) 0
      (a.ask (cell (needsOf i) s)) local0) ∧ ((needsOf i).after s).checked local0 = true := by
  refine ⟨(ready (i := .ld z .b64 ⟨false, 0⟩ (.c 9) (p 3) 0) (by decide)).2, fun a h => ?_, by decide⟩
  cases h
  exact reaches_of (by decide)
theorem witness_checked_answers : let s (p : Prog) := withSt (fun t => { t with consumed := true, prog := p })
    ∀ p ∈ [Prog.answered 1 0 false true, .failed .conflict 0x0101 0], (s p).st.guard z = true ∧ (s p).st.consumed = true := by decide
/-- An untagged capability, and an address for which the tile has no translation. -/
theorem witness_bad_address : let i : Instr := .ld z .b64 ⟨false, 0⟩ (.c 9) (p 1) 0
    let j : Instr := .ld z .b64 ⟨false, 0⟩ (.c 9) (p 4) 0
    ReadyFor i (needsOf i) base ∧ ReadyFor j (needsOf j) base
    ∧ (match base.resolve (num 3) 0 { size := 8, rd := true } with | .trap _ => true | _ => false) = true
    ∧ (match base.resolve (capReg (panelCap 0)) 0 { size := 8, rd := true } with | .walk _ => true | _ => false) = true :=
  ⟨ready (by decide), ready (by decide), by decide, by decide⟩
/-- LDE at its start, at its last retry and one past it, and answered. -/
theorem witness_sync : let i : Instr := .lde z (.c 9) (p 3) 0
    ReadyFor i (needsOf i) base ∧ reaches ((needsOf i).after base) (cell (needsOf i) base 0) 0 { size := 8, rd := true, localOnly := true } local0
    ∧ (∀ k ∈ [65536, 65537], Instr.readyIn i (withSt (fun t => { t with prog := .refused k 0 0 false })) = true
        ∧ retries (withSt (fun t => { t with prog := .refused k 0 0 false })) = k)
    ∧ base.g.synclim = 65536 ∧ Instr.readyIn i (withSt (fun t => { t with prog := .answered 1 0 false true })) = true
    ∧ Instr.readyIn (.stf z (p 3) (r 1) 0) (withSt (fun t => { t with prog := .failed .conflict 1 0 })) = true :=
  ⟨ready (by decide), reaches_of (by decide), by decide, by decide, by decide, by decide⟩
/-- A message of slot 0 in its channel to a home, at the head. -/
def chan0 (h : Home) : ChanId := ⟨.strand ⟨1, 0⟩ 0, h⟩
def msg0 (a : Act) (t : Target) : Msg := { id := 1, who := some ⟨⟨1, 0⟩, 0⟩, act := a, target := t }
def posted (h : Home) (m : Msg) : State := { base with chans := [(chan0 h, [m])], nextId := 2 }
theorem witness_home_loads : (∀ a ∈ [Act.load .i8 (.c 9), .loadQ (.c 9) true, .loadCap (.c 9) true, .amo .w7 .min 3 (.c 9), .cas .b32 0 1 (.c 9)],
    let s := posted (.bank ⟨1, 0⟩ 0) (msg0 a (.sp ⟨1, 0⟩ 0))
    s.chan (chan0 (.bank ⟨1, 0⟩ 0)) = [msg0 a (.sp ⟨1, 0⟩ 0)] ∧ s.canPerform (.bank ⟨1, 0⟩ 0) = true
      ∧ s.deadAt (msg0 a (.sp ⟨1, 0⟩ 0)) = none) := by decide
/-- A store to a scratchpad, and one to memory, of 16 bytes at most. -/
theorem witness_home_stores :
    heads (posted (.bank ⟨1, 0⟩ 0) (msg0 (.store 8 5) (.sp ⟨1, 0⟩ 0))) (chan0 (.bank ⟨1, 0⟩ 0)) (msg0 (.store 8 5) (.sp ⟨1, 0⟩ 0)) []
    ∧ fitsHome base (.bank ⟨1, 0⟩ 0) (.sp ⟨1, 0⟩ 0) 8
    ∧ heads (posted (.mem 0 0) (msg0 (.storeCap 5 true) (.mem 0))) (chan0 (.mem 0 0)) (msg0 (.storeCap 5 true) (.mem 0)) []
    ∧ fitsHome base (.mem 0 0) (.mem 0) 16 :=
  ⟨⟨by decide, rfl, by decide, by decide⟩, ⟨trivial, group0, by decide, by decide⟩, ⟨by decide, rfl, by decide, by decide⟩, ⟨trivial, trivial⟩⟩
/-- LDE of a full word, STF of an empty one, and each at the wrong mark; the strand waits for the message. -/
theorem witness_words : ∀ x ∈ [(Act.lde true, ([] : List Nat)), (.stf 5, [0]), (.lde false, [0]), (.stf 5, [])],
    let s := ((posted (.bank ⟨1, 0⟩ 0) (msg0 x.1 (.sp ⟨1, 0⟩ 0))).modG (fun g => { g with spEmpty := x.2 })).modSt
      (fun t => { t with prog := .waiting 1 0, run := .parked .sync })
    s.chan (chan0 (.bank ⟨1, 0⟩ 0)) = [msg0 x.1 (.sp ⟨1, 0⟩ 0)] ∧ progOf s ⟨⟨1, 0⟩, 0⟩ = some (.waiting 1 0)
      ∧ isEmpty s ⟨1, 0⟩ 0 = some (!x.2.isEmpty) := by decide
/-- The page of the panel capability in the tile's TLB. -/
def page0 : TlbEntry := { tenant := 1, space := 2, page := 16, level := 3, pa := 0, chk := false, pol := 0, exec := true, wr := true, rd := true }
def mapped : State := { base with dies := [{ v := 0, phys := 0, tlb := [(0, page0)] }] }
def line0 : Resolved := ⟨2, 0x100000, .mem 0, 0, 0, true⟩
/-- A line of the panel page that is in no slice, in one and clean, and in one and dirty. -/
def cached (dirty : Nat) : State :=
  { base with dies := [{ v := 0, phys := 0, tlb := [(0, page0)]
                         lines := [{ key := 0, slice := 0, bytes := List.replicate 64 9, dirty := BitVec.ofNat 64 dirty, tags := 0, epoch := 0 }] }] }
theorem witness_lines : let i : Instr := .linewb z (p 4) 0
    line0.lineKey = some 0 ∧ Instr.readyIn (.pref z (p 4) 0) mapped = true ∧ Instr.readyIn (.lineinv z (p 4) 0) mapped = true
    ∧ isAddr (mapped.resolve (capReg (panelCap 0)) 0 { size := 1, rd := true }) line0 = true
    ∧ (mapped.line? 0 0).isSome = false ∧ reachB mapped (capReg (panelCap 0)) 0 { size := 1, wr := true } line0 = true
    ∧ (∀ d ∈ [0, 1], Instr.readyIn i (cached d) = true
        ∧ reachB (cached d) (capReg (panelCap 0)) 0 { size := 1, rd := true } line0 = true
        ∧ ((cached d).line? 0 0).map (·.dirty) = some (BitVec.ofNat 64 d)) := by decide
theorem witness_bad_prefetch : Instr.readyIn (.pref z (p 1) 0) mapped = true
    ∧ (match mapped.resolve (num 3) 0 { size := 1, rd := true } with | .trap _ => true | _ => false) = true := by decide
/-- Nothing under way; and a load outstanding. -/
theorem witness_fences : Instr.readyIn (.fence z .system .full) base = true ∧ Instr.readyIn (.fenceh z .die .acq (r 1)) base = true
    ∧ base.st.prog = .none ∧ quietFor base .system ∧ Instr.readyIn (.tmget z (.c 9)) base = true ∧ Instr.readyIn (.tmclr z) base = true :=
  ⟨by decide, by decide, by decide, ⟨rfl, rfl, (fun _ d h l hl => by
    have : d = { v := 0, phys := 0 } := by
      have h0 : base.die? base.g.die = some { v := 0, phys := 0 } := by decide
      rw [h0] at h
      exact (Option.some.inj h).symm
    subst this
    cases hl), fun _ => by decide⟩, by decide, by decide⟩
theorem witness_loads_out : let s := posted (.bank ⟨1, 0⟩ 0) (msg0 (.load .b64 (.c 9)) (.sp ⟨1, 0⟩ 0))
    s.loadsOut s.me .tile (BitVec.allOnes 64) = true := by decide

/-! ### Hypotheses met: streams, copies, barriers (O19 to O21) -/

/-- The fence inside an instruction completes, and this is what it leaves. -/
def fenced (i : Instr) (s : State) (sc : Scope) (k : FKind) : State := (((needsOf i).after s).fenceRun sc k s.st.tmask 0).2
theorem fence_of {i : Instr} {s : State} {sc : Scope} {k : FKind}
    (h : (((needsOf i).after s).fenceRun sc k s.st.tmask 0).1 = true) : fenceDone (needsOf i) s sc k (fenced i s sc k) :=
  Prod.ext h rfl
/-- A pattern of 32-bit elements, 4 of them, 4 bytes apart (R261), in c2. -/
def pattern0 : Nat := 2 + 4 * 2 ^ 8 + 4 * 2 ^ 32
def stream0 (out : Bool) : StreamD :=
  { uid := 1, num := 0, slot := 0, reg := 9, output := out, cap := localCap 0, count0 := 4, count1 := 0, stride0 := 4, stride1 := 0
    strip := false, size := 4 }
/-- c9 in a stream. -/
def streaming (out : Bool) : State :=
  (withC 9 { stream := true, full := out }).modG (fun g => { g with streams := [stream0 out] })
theorem witness_strm : let i : Instr := .strm z false (.c 9) (p 3) (p 2)
    let s := withC 2 (num pattern0)
    ReadyFor i (needsOf i) s
    ∧ ((needsOf i).after s).checkCap (cell (needsOf i) s 0) { ld := true, st := false, spaces := (· ≤ 4), align := 4 } = none
    ∧ goodPattern (src (needsOf i) s 1) ∧ ((src (needsOf i) s 1).extractLsb' 32 32).toInt % 4 = 0 ∧ capSpace (localCap 0) < 2
    ∧ fenceDone (needsOf i) s .die .rel (fenced i s .die .rel) :=
  ⟨ready (by decide), by decide, by unfold goodPattern; decide, by decide, by decide, fence_of (by decide)⟩
theorem witness_strmend : let i : Instr := .strmend z (.c 9)
    Instr.readyIn i base = true ∧ (base.cell (.c 9)).stream = false
    ∧ (∀ out ∈ [false, true], Instr.readyIn i (streaming out) = true ∧ ((streaming out).cell (.c 9)).stream = true
        ∧ (streaming out).stream? 9 = some (stream0 out))
    ∧ (((needsOf i).after (streaming true)).fenceRun .device .acq (streaming true).st.tmask 0).1 = true := by decide
theorem witness_strmq : Instr.readyIn (.strmq z (.c 10) (.c 9)) base = true ∧ Instr.readyIn (.strmq z (.c 10) (.c 9)) (streaming true) = true
    ∧ (stream0 true).num < 32 ∧ (stream0 true).buffer.length < 256 := by decide
/-- A copy of 4 KiB of LOCAL onto itself with its barrier there, by .EXP and without, and one of length 0. -/
theorem witness_bulk : let i : Instr := .copy z true (.c 3) (p 3) (p 3)
    ReadyFor i (needsOf i) base ∧ (∀ b, bulks base.mode i = some b → b.bytes (src (needsOf i) base) = 4096
      ∧ ∀ c ∈ b.checks, ((needsOf i).after base).checkCap (cell (needsOf i) base c.1) c.2 = none)
    ∧ fenceDone (needsOf i) base .die .rel (fenced i base .die .rel) ∧ (fenced i base .die .rel).g.ops = [] := by
  refine ⟨ready (by decide), fun b h => ?_, fence_of (by decide), by decide⟩
  cases h
  exact ⟨by decide, by decide⟩
theorem witness_bulk_empty : let i : Instr := .copy z false (.c 7) (p 3) (p 3)
    let s := withC 7 (capReg (panelCap 65536))
    ReadyFor i (needsOf i) s ∧ ∀ b, bulks s.mode i = some b → b.bytes (src (needsOf i) s) = 0 := by
  refine ⟨ready (by decide), fun b h => ?_⟩
  cases h
  decide
theorem witness_bulk_kinds : Instr.readyIn (.copyc z .rne false true .int8 .bf16 (.c 3) (p 3) (p 3)) base = true
    ∧ Instr.readyIn (.gather z .b32 true 1 (p 3) (p 3)) (withC 2 (capReg (localCap 0))) = true
    ∧ Instr.readyIn (.scatter z .b32 true 1 (p 3) (p 3)) (withC 2 (capReg (localCap 0))) = true := by decide
/-- Whether the group at hand is this one. -/
def isGroupAt (x : GroupAt) (i : GroupId) : Bool := match x with | .at_ g => g.gid == i | _ => false
theorem groupAt_of {s : State} {k : Nat} (h : isGroupAt (s.groupAt k) s.g.gid = true) : ∃ g, s.groupAt k = .at_ g ∧ g.gid = s.g.gid := by
  unfold isGroupAt at h
  split at h
  · exact ⟨_, ‹_›, by simpa using h⟩
  · simp at h
/-- The barrier in c3 can be reached. -/
theorem atBar_base : ∀ s ∈ [base], atBar s (capReg (localCap 0)) := by
  simp only [List.mem_singleton, forall_eq]
  exact ⟨by decide, rfl, by decide, by decide, group0, rfl, by decide, by decide, rfl, by decide⟩
theorem witness_barriers : Instr.readyIn (.txbinit z (p 3) 1) base = true ∧ Instr.readyIn (.txbexp z (p 3) 64) base = true
    ∧ Instr.readyIn (.txbwait z (.c 9) (p 3) (p 1)) base = true ∧ Instr.readyIn (.txbtest z 1 (p 3) (p 0)) base = true
    ∧ (base.bar (⟨1, 0⟩, 0)).sect = 0 ∧ base.pausedOn (⟨1, 0⟩, 0) = [] ∧ (base.bar (⟨1, 0⟩, 0)).phase = 0
    ∧ ((src (needsOf (.txbwait z (.c 9) (p 3) (p 1))) base 1).extractLsb' 0 4).toNat = 3
    ∧ ((src (needsOf (.txbtest z 1 (p 3) (p 0))) base 1).extractLsb' 0 4).toNat = 0
    ∧ (((base.mark (.bank ⟨1, 0⟩ 0)).mark (.bank ⟨1, 0⟩ 1)).fenceRun .device .acq
        (((base.mark (.bank ⟨1, 0⟩ 0)).mark (.bank ⟨1, 0⟩ 1))).st.tmask 0).1 = true := by decide
/-- A barrier that expects one arrival. -/
theorem witness_arrive : let s := withG (fun g => g.putBar 0 ⟨0, 1, 0, 1⟩)
    Instr.readyIn (.txbarr z (.c 9) (p 3)) s = true ∧ (s.bar (⟨1, 0⟩, 0)).arrive = 1 := by decide
/-- An input stream with room; a unit that has been read; a unit that has landed. -/
theorem witness_stream_enters : let s := withG (fun g => { g with streams := [stream0 false] })
    s.g.copying = true ∧ s.g.stream? 1 = some (stream0 false) ∧ (stream0 false).next < (stream0 false).units
    ∧ (match (s.streamWords (stream0 false) 0).1 with | .ok ws => ws.length == 1 | _ => false) = true
    ∧ (s.streamWords (stream0 false) 0).2.g.streams = s.g.streams := by decide
def readUnit : StreamD := { stream0 false with pieces := [{ num := 0, at_ := .reading, got := [(0, 5)] }], next := 1 }
theorem witness_delivery : let s := withG (fun g => { g with streams := [readUnit] })
    (s.deliverable.map (fun x => (x.1, x.2.uid))) = [(⟨1, 0⟩, 1)] := by decide
theorem witness_landing : let l : Landed := { g := ⟨1, 0⟩, uid := 7, slot := 0, bar := (⟨1, 0⟩, 0), stat := {}, clock := [] }
    let s : State := { base with landed := [l] }
    s.landed[0]? = some l ∧ s.detOf ⟨l.g, l.slot⟩ = false ∧ -(2 ^ 39) < (s.bar l.bar).sect := by decide

/-! ### Hypotheses met: messages and the optical core (O22 to O25) -/

/-- A strand with so many messages outstanding. -/
def owing (n : Nat) : State := withSt (fun t => { t with outstanding := (List.range n).map (fun k =>
  { seq := k, osend := false, omc := false, die := 0, since := some 0 }) })
/-- The mailbox of its own slot 0, register 9, at the 15 messages that still let it send, and at 16. -/
theorem witness_sends : let i : Instr := .sendi z none (p 3) 7
    (sends i).isSome = true
    ∧ (∀ k ∈ [15, 16], Instr.readyIn i (owing k) = true ∧ (owing k).st.outstanding.length = k
      ∧ ((needsOf i).after (owing k)).checkCap (cell (needsOf i) (owing k) 0) { snd := true, spaces := (· ≤ 1) } = none
      ∧ (((needsOf i).after (owing k)).group? (mailGroup (owing k) (src (needsOf i) (owing k) 0))).isSome = true
      ∧ ((needsOf i).after (owing k)).inRectangle 0 = true
      ∧ (match ((needsOf i).after (owing k)).sendOver group0 none with | .ok _ => true | _ => false) = true)
    ∧ Instr.readyIn (.send z none (p 3) (r 1)) base = true := by decide
def omcMail : Outstanding := { seq := 1, osend := true, omc := true, die := 1, since := some 0 }
theorem witness_ofence : Instr.readyIn (.ofence z) base = true ∧ base.omcWaits = []
    ∧ Instr.readyIn (.ofence z) (withSt (fun t => { t with outstanding := [omcMail] })) = true
    ∧ (withSt (fun t => { t with outstanding := [omcMail] })).omcWaits = [omcMail] := by decide
/-- A message for slot 0, register 9, and one for the inbox. -/
def mail0 (inbox : Bool) : Mail :=
  { payload := 77, inbox := inbox, slot := 0, reg := 9, sender := ⟨⟨1, 0⟩, 0⟩, vdie := 0, seq := 1, clock := [], instant := 1, sentAt := 0
    hops := 0, cost := 4, omc := false }
/-- The message at the head of its channel; c9 a mailbox, full or empty, or no mailbox. -/
def mailed (inbox mbox full : Bool) : State :=
  let s := if mbox then (withC 9 { full := full }).modSt (fun t => { t with mbox := 1#64 <<< 9 }) else base
  { s with chans := [(⟨.strand ⟨1, 0⟩ 0, .inbox ⟨1, 0⟩⟩, [{ id := 1, who := some ⟨⟨1, 0⟩, 0⟩, act := .mail (mail0 inbox), target := .sp ⟨1, 0⟩ 0 }])] }
theorem witness_arrivals : ∀ x ∈ [(false, true, false), (false, true, true), (true, false, false)],
    let s := mailed x.1 x.2.1 x.2.2
    (s.mailChans.map (fun c => (c.2.1, c.2.2.seq))) = [(⟨1, 0⟩, 1)] ∧ s.g.state = .resident ∧ s.g.frozen = false ∧ s.g.out = false
      ∧ s.g.refusals = [] ∧ s.g.arrivals = [] ∧ s.detOf (mail0 x.1).sender = false
      ∧ s.g.mailboxOf (mail0 x.1) = (if x.1 then none else some 9) ∧ (x.2.1 = true → (s.st.c[9]).full = x.2.2)
      ∧ s.g.inbox.length < 32 := by decide
theorem witness_acks : let w : StrandId := ⟨⟨1, 0⟩, 0⟩
    let s : State := { owing 2 with msgAcks := [{ key := ⟨w, 0, 1⟩ }], relayAcks := [{ relay := 0, key := ⟨w, 0, 0⟩, at_ := 0 }], now := 0x400000 * Config.cycleTicks }
    (s.msgAcks[0]?).map (·.key) = some ⟨w, 0, 1⟩ ∧ outstandingOf s w = some [0, 1] ∧ (s.relayAcks[0]?).map (·.key.seq) = some 0
      ∧ (s.strand? w).map (·.serial) = some 0 ∧ (s.goAck { key := ⟨w, 0, 1⟩ }).1.legs = []
      ∧ ((s.st.outstanding.find? (fun o => o.seq == 1)).map (·.seq)) = some 1
      ∧ s.g.msgtim * s.cycOf s.g ≤ s.now := by decide
theorem witness_inbox : let e : InEntry := ⟨5, 6⟩
    let s := withG (fun g => { g with inbox := [e] })
    Instr.readyIn (.inpop z (.c 9)) s = true ∧ s.g.inbox = [e] ∧ s.g.inboxAhead s.slot = [] ∧ s.det = false
      ∧ Instr.readyIn (.inpop z (.c 9)) base = true ∧ base.g.inbox = [] ∧ Instr.readyIn (.inpeek z (.c 9)) base = true
      ∧ Instr.readyIn (.inpeek z (.c 9)) s = true := by decide
def lastMsg0 (settled : Bool) : LastMsg := { seq := 1, settled := settled, lost := false, latency := 9, hops := 65535, omc := false }
theorem witness_rtlat : let i : Instr := .rtlat z (.c 9)
    Instr.readyIn i base = true ∧ base.st.lastMsg = none ∧ (lastMsg0 true).hops < 2 ^ 16
    ∧ ∀ b ∈ [true, false], Instr.readyIn i (withSt (fun t => { t with lastMsg := some (lastMsg0 b) })) = true := by decide
theorem witness_links : let s := withG (fun g => { g with links := Vector.replicate 4 (List.replicate 64 1) })
    Instr.readyIn (.linkclr z (.c 9) 0b1010) s = true ∧ ∀ k : Fin 4, (s.g.links[k]).length ≤ 64 := by decide
theorem witness_link_word : let w : LinkFly := { dst := ⟨1, 0⟩, port := .north, v := 5, due := 8 }
    let s : State := { base with linkWords := [w] }
    s.linkWords[0]? = some w ∧ (s.linkWords.take 0) = [] ∧ (s.group? w.dst).map (·.state) = some .resident ∧ s.vouch w = s ∧ (s.goWord w).1 = true := by decide
theorem witness_rtload : let i : Instr := .rtload z (p 3)
    ReadyFor i (needsOf i) base ∧ reaches ((needsOf i).after base) (cell (needsOf i) base 0) 0 { size := 16, rd := true, noCtrl := true } local0
    ∧ (routeRecord 0x10107).isSome = true
    ∧ (withSt (fun t => { t with consumed := true, prog := .answered 0x10107 0 false true })).st.guard z = true :=
  ⟨ready (by decide), reaches_of (by decide), by decide, by decide⟩
/-- A block of 64 bytes for its own group, before its copy and with it. -/
theorem witness_osend : let i : Instr := .osend z false (.c 7) (p 3) (p 3)
    let s (q : Prog) := (withC 7 (capReg (mkCap 0b11111011 0 0 64 0 0))).modSt (fun t => { t with prog := q })
    (∀ q ∈ [Prog.none, .copied []], Instr.readyIn i (s q) = true
      ∧ (s q).checkCap (cell (needsOf i) (s q) 2) { st := true, spaces := (· ≤ 1), align := 64 } = none
      ∧ (s q).checkCap (cell (needsOf i) (s q) 0) { ld := true, spaces := (· == 0), align := 64 } = none
      ∧ (s q).checkCap (cell (needsOf i) (s q) 1) barAsk = none
      ∧ min (capRest (src (needsOf i) (s q) 2)) (capRest (src (needsOf i) (s q) 0)) = 64
      ∧ (s q).inRectangle 0 = true ∧ (s q).st.outstanding.length < 16)
    ∧ (((needsOf i).after (s .none)).fenceRun .die .rel (s .none).st.tmask 0).1 = true := by decide
theorem witness_oslot : Instr.readyIn (.oslot z (.c 9)) base = true ∧ base.dev.stage < 3
    ∧ Instr.readyIn (.oslot z (.c 9)) { base with dev := { base.dev with stage := 3 } } = true := by decide
theorem witness_port_copy : let s := withSt (fun t => { t with run := .parked .portCopy })
    (s.strand? ⟨⟨1, 0⟩, 0⟩).map (·.run) = some (.parked .portCopy) := by decide

/-! ### Hypotheses met: signals, watches, waves (O26 to O28) -/

def me0 : StrandId := ⟨⟨1, 0⟩, 0⟩
/-- A prog of the strand. -/
def atProg (q : Prog) : State := withSt (fun t => { t with prog := q })
theorem witness_emit : let i : Instr := .emit z true 63
    Instr.readyIn i base = true ∧ base.st.canemit.getLsbD 63 = true ∧ (withSt (fun t => { t with canemit := 0 })).st.canemit.getLsbD 63 = false
    ∧ (((needsOf i).after base).fenceRun base.myScope .rel base.st.tmask 0).1 = true
    ∧ Instr.readyIn i (withSt (fun t => { t with canemit := 0 })) = true := by decide
/-- A signal that is present, absent and undecided at the tile, and one that a wave has decided. -/
theorem witness_present : let i : Instr := .present z 1 63
    Instr.readyIn i base = true ∧ base.g.test base.now 63 = none
    ∧ (withG (fun g => { g with present := 1#64 <<< 63 })).g.test 0 63 = some true
    ∧ (withG (fun g => { g with present := 1#64 <<< 63 })).g.relHere 0 63 = false
    ∧ (withG (fun g => { g with absentS := 1#64 <<< 63 })).g.test 0 63 = some false
    ∧ Instr.readyIn i (atProg (.answered 1 0 false true)) = true ∧ base.g.relHere 0 63 = false
    ∧ Instr.readyIn (.prev z 1 63) base = true := by decide
/-- The last watch entry that may open, one past it, and none to close. -/
theorem witness_watches : Instr.readyIn (.watch z .suspend 63 5) (withSt (fun t => { t with wdepth := 3 })) = true
    ∧ (needs (.watch z .suspend 63 5)).isSome = true ∧ (withSt (fun t => { t with wdepth := 4 })).st.guard z = true
    ∧ Instr.readyIn (.unwatch z) (withSt (fun t => { t with wdepth := 4 })) = true ∧ base.st.wdepth = 0 := by decide
theorem witness_masks : Instr.readyIn (.canemit z (.c 9) (r 1)) base = true ∧ Instr.readyIn (.disclaim z (r 1)) base = true
    ∧ Instr.readyIn (.instant z (.c 9)) base = true := by decide
theorem witness_pauses : (∀ i ∈ [Instr.pause z, .await z 5, .rbar z], Instr.readyIn i base = true
      ∧ (((needsOf i).after base).fenceRun base.myScope .rel base.st.tmask 0).1 = true)
    ∧ Instr.readyIn (.await z 5) (atProg (.answered 1 0 false true)) = true
    ∧ Instr.readyIn (.rbar z) (atProg (.fenced 2)) = true
    ∧ ((atProg (.fenced 2)).fenceRun base.myScope .acq 0 2).1 = true
    ∧ Instr.readyIn (.rexcuseOn z (.c 9)) base = true ∧ base.st.excused = false ∧ Instr.readyIn (.rexcuseOff z (.c 9)) base = true
    ∧ Instr.readyIn (.rexcuseOff z (.c 9)) (withSt (fun t => { t with excused := true })) = true := by decide
theorem witness_wake : let s := withSt (fun t => { t with run := .parked .operands })
    (s.strand? me0).map (·.run) = some (.parked .operands) ∧ Why.answered .operands = false
      ∧ s.g.st.toList.any Strand.atGbar = false := by decide
theorem witness_sample : (base.launch? 1).map (·.num) = some 1 ∧ (base.launch? 1).bind (·.wave) = none
    ∧ (base.launch? 1).map (·.started) = some true := by decide
/-- A sample under way to the group, with a strand active and with none. -/
def wave0 (act : Nat) : Wave :=
  { num := 0, inst := 1, act := act, ce := 2, em := 1, blk := 0, rbn := 0, tst := 0, rel := 0, rclock := [], waiting := [0] }
theorem witness_release : ∀ k ∈ [0, 1], let s := withL (fun l => { l with wave := some (wave0 k) })
    (s.launch? 1).bind (·.wave) = some (wave0 k) ∧ (wave0 k).waiting.contains 0 = true ∧ (wave0 k).cycle = false
      ∧ s.pointDue launch0 (wave0 k) = false ∧ s.exactWaits 1 (wave0 k).inst = false ∧ s.reactionScope launch0 = .die := by decide

/-! ### Hypotheses met: tasks, groups, launches (O29 to O35) -/

/-- A task that goes to address 24 with two numbers. -/
def task0 : TaskRec :=
  { target := 24, a := ⟨3, false⟩, b := ⟨5, false⟩, path := 1, parent := me0, parentTag := 0, cur := 0, rld := 0, clock := [] }
def queue (n : Nat) : State := withG (fun g => { g with deque := List.replicate n task0 })
theorem witness_fork : let i : Instr := .fork z 1 (p 1) (p 3) 5
    ∀ k ∈ [63, 64], Instr.readyIn i (queue k) = true ∧ (queue k).g.deque.length = k ∧ (queue k).det = false
      ∧ (((needsOf i).after (queue k)).fenceRun ((needsOf i).after (queue k)).stealScope .rel (queue k).st.tmask 0).1 = true
      ∧ (((needsOf i).after (queue k)).fenceRun ((needsOf i).after (queue k)).stealScope .rel (queue k).st.tmask 0).2.st.run = .ready := by
  decide
/-- A deterministic launch whose deque is full. -/
theorem witness_fork_det : let i : Instr := .fork z 1 (p 1) (p 3) 5
    let s : State := { queue 64 with launches := [{ launch0 with det := true }] }
    Instr.readyIn i s = true ∧ s.det = true
      ∧ (s.forkTarget ((s.st.path <<< 6) ||| BitVec.ofNat 64 s.st.nchild)).deque.length = 64 := by decide
theorem witness_join : Instr.readyIn (.join z) base = true ∧ base.st.outc = 0
    ∧ ((base.modSt (fun t => { t with prog := .fenced 2 })).fenceRun base.stealScope .acq base.st.tmask 2).1 = true
    ∧ Instr.readyIn (.join z) (withSt (fun t => { t with outc := 1 })) = true ∧ base.g.deque = []
    ∧ Instr.readyIn (.yield z) base = true := by decide
theorem witness_halt : Instr.readyIn (.halt z none) base = true ∧ Instr.readyIn (.halt z (some 500)) base = true
    ∧ Instr.readyIn (.halt z none) (withSt (fun t => { t with outc := 1 })) = true
    ∧ Instr.readyIn (.halt z (some 500)) (withSt (fun t => { t with outc := 1 })) = true := by decide
theorem witness_halt_fence : ((base.modSt (fun t => { t with clock := joinClock t.clock t.kidClock, kidClock := [] })).fenceRun .device .rel
      base.st.tmask 0).1 = true ∧ base.st.outstanding = [] ∧ (owing 1).st.outstanding ≠ []
    ∧ (((owing 1).modSt (fun t => { t with clock := joinClock t.clock t.kidClock, kidClock := [] })).fenceRun .device .rel 0 0).1 = true := by
  decide
/-- A strand of a task whose parent stands in slot 1. -/
def child : State :=
  withG (fun g => (g.modSt 1 (fun t => { t with outc := 1, run := .parked .join })).modSt 0 (fun t => { t with task := true, parent := some ⟨⟨1, 0⟩, 1⟩ }))
theorem witness_halted : let s := child
    s.st.task = true ∧ s.st.parent = some ⟨⟨1, 0⟩, 1⟩ ∧ (⟨⟨1, 0⟩, 1⟩ : StrandId) ≠ s.me ∧ (s.g.st[1]).serial = s.st.parentTag
      ∧ s.g.state ≠ .retired := by decide
theorem witness_launch : let i : Instr := .launch z (.c 9) (p 4)
    (∀ q ∈ [Prog.none, .copied []], Instr.readyIn i { cached 0 with g := (cached 0).g.modSt 0 (fun t => { t with prog := q }) } = true)
    ∧ (cached 0).checkCap (capReg (panelCap 0)) { ld := true, spaces := fun n => 2 ≤ n && n ≤ 4, align := 64 } = none
    ∧ (((needsOf i).after (cached 0)).fenceRun .device .rel 0 0).1 = true
    ∧ (match ((cached 0).readDescriptor (panelCap 0)).1 with | .ok _ => true | _ => false) = true
    ∧ (cached 0).myLaunch.isSome = true ∧ ((cached 0).tenant? 1).isSome = true ∧ (cached 0).deviceQueue 1 < 64 := by
  decide
theorem witness_trigger : Instr.readyIn (.trigger z) base = true
    ∧ (((needsOf (.trigger z)).after base).fenceRun .device .rel 0 0).1 = true := by decide
/-- LWAIT of launch 3, which names none; of launch 1, which runs; and of a dependent launch before its trigger. -/
theorem witness_lwait : let i : Instr := .lwait z (.c 9) (p 1)
    Instr.readyIn i base = true ∧ base.endStatus 1 3 = some 0xFF ∧ base.endStatus 1 1 = none
    ∧ (((needsOf i).after base).fenceRun .device .acq 0 0).1 = true
    ∧ Instr.readyIn i { base with launches := [launch0, { launch0 with num := 2, tnum := 3, after := some 1 }] } = true
    ∧ base.g.trig = false := by decide
theorem witness_who : ∀ f ∈ [0, 8], Instr.readyIn (.who z (.c 9) (BitVec.ofNat 4 f)) base = true := by decide
theorem witness_gbar : Instr.readyIn (.gbar z) base = true ∧ (((needsOf (.gbar z)).after base).fenceRun .tile .rel 0 0).1 = true
    ∧ (base.g.st[1]).active = false ∧ ((withG (fun g => g.modSt 1 (fun _ => strand0))).g.st[1]).active = true
    ∧ ((withG (fun g => g.modSt 1 (fun _ => strand0))).g.st[1]).atGbar = false
    ∧ Instr.readyIn (.gbar z) (atProg (.fenced 2)) = true ∧ ((atProg (.fenced 2)).fenceRun .tile .acq 0 2).1 = true := by decide
/-- A descriptor of one group of one strand with 4 KiB, and one of none, which is refused. -/
def descriptor0 (groups : Nat) : BitVec 512 := BitVec.ofNat 512 (groups * 2 ^ 64 + 1 * 2 ^ 96 + 12 * 2 ^ 104)
def booted : State := { base with dev := { base.dev with stage := 3, powered := true } }
theorem witness_queue : (booted.tenant? 1).isSome = true ∧ 1 ≤ booted.dev.stage
    ∧ booted.refuses (descriptor0 1) (booted.tenantDies 1) = false ∧ booted.refuses (descriptor0 0) (booted.tenantDies 1) = true := by
  decide +kernel
/-- The group of a queued launch on a die whose tiles are free. -/
def waitingState : State :=
  { withL (fun l => { l with px := 5, pw := 1, ph := 1 }) with
    g := { gid := ⟨1, 0⟩, state := .queued, homeDie := 0, st := group0.st, instant := 1 } }
theorem witness_placement : let x := waitingState.g
    waitingState.nextPlaced x = true ∧ (waitingState.tilesFor { launch0 with px := 5, pw := 1, ph := 1 } x).contains 5 = true := by decide
theorem witness_ageing : waitingState.g.state = .queued ∧ launch0.queuedAt ≤ waitingState.now
    ∧ (let s : State := { base with launches := [launch0, { launch0 with num := 2, after := some 1, started := false }], g := { group0 with trig := true } }
       (s.launch? 2).map (·.started) = some false ∧ ∀ g ∈ s.groups, g.trig = true) := by decide
theorem witness_task_start : let s := queue 2
    (s.g.st[1]).run = .idle ∧ s.canStart s.g = true ∧ launch0.cancelling = false ∧ s.g.deque = [task0] ++ [task0] := by decide
/-- Two groups in one steal domain: the first idle, the second with two tasks. -/
def thief : State :=
  { base with g := { group0 with st := Vector.replicate 8 {} }
              others := [{ group0 with gid := ⟨1, 1⟩, place := some ⟨0, 1⟩, deque := [task0, task0] }]
              launches := [{ launch0 with groups := 2 }] }
theorem witness_steal : thief.g.idleAll = true ∧ thief.g.stealing = false ∧ thief.g.store = []
    ∧ (thief.victims { launch0 with groups := 2 } thief.g)[thief.g.stealAt % max 1 (thief.victims { launch0 with groups := 2 } thief.g).length]?
      = some ⟨1, 1⟩ := by decide
theorem witness_steal_reply : let s (x : Option TaskRec) : State := { thief with steals := [⟨⟨1, 0⟩, ⟨1, 1⟩, x⟩] }
    (∀ x ∈ [none, some task0], ((s x).steals.find? (fun e => e.thief == ⟨1, 0⟩)).map (·.rec_) = some x) ∧ thief.g.idleSlot = some 0
      ∧ thief.canStart thief.g = true := by decide
theorem witness_store : let e : Stored := ⟨{ strand0 with run := .parked .join }, false⟩
    let s := withG (fun g => { g with store := [e] })
    s.g.store.find? Stored.returns = some e ∧ s.g.idleSlot = some 1 ∧ s.canStart s.g = true := by decide
/-- Every slot at JOIN with a child out, eight stored strands, a record waiting. -/
theorem witness_deadlock : let t : Strand := { strand0 with run := .parked .join, outc := 1 }
    let s := withG (fun g => { g with st := Vector.replicate 8 t, store := List.replicate 8 ⟨t, false⟩, deque := [task0] })
    (∀ j : Fin 8, (s.g.st[j]).atJoin = true) ∧ s.g.store.length = 8 ∧ (∀ j : Fin 8, s.g.fatal s.g.st[j] = false) := by decide
/-- The count at its limit. -/
theorem witness_watchdog : let s := withSt (fun t => { t with wdlim := 5, wdcount := 5 })
    s.g.state = .resident ∧ s.st.leaves = true ∧ s.st.wdlim.toNat ≤ s.st.count s.now (s.cycOf s.g) ∧ s.g.fatal s.st = false := by decide
theorem witness_retire : let s := withG (fun g => { g with st := Vector.replicate 8 {} })
    s.mayRetire s.g = true ∧ (s.groups.filter (fun h => h.gid == ⟨1, 0⟩)).length = 1
    ∧ (thief.others.map (fun h => decide (h.state ≠ .retired))) = [true] := by decide
/-- A strand in a committed park, and none. -/
theorem witness_cancel : (∀ k : Fin 8, (base.g.st[k]).committed = false)
    ∧ ((withSt (fun t => { t with run := .parked .commit, consumed := true, prog := .committing })).g.st[0]).committed = true := by decide
/-- A pair of tiles 5 and 6. -/
def paired (x : PairState) : State :=
  { base with dies := [{ v := 0, phys := 0, pairs := [{ num := 1, hot := 0, cool := 6, state := x, since := 0 }], nextPair := 2 }] }
theorem witness_rotation : (∀ x ∈ [PairState.hold, .swap], ((paired x).pair? 0 1).map (·.state) = some x)
    ∧ (paired .hold).g.on 0 0 = true
    ∧ ∀ g ∈ ({ paired .hold with g := { group0 with place := none } } : State).groups, (g.on 0 0 || g.on 0 6) = false := by decide

/-! ### Hypotheses met: values, translations, slices, the optical core -/

/-- A long result of slot 0 for c9, written on its way, or with a trap at its commit. -/
def late0 (u : Option Trap) : Late := { slot := 0, lo := 0, due := 9, dst := .reg (.c 9), v := 77, v2 := 0, flags := 5, trap := u, fp := true }
theorem witness_results : (let s := withG (fun g => { g with late := [late0 none] })
      (s.g.late.find? (fun l => l.lo ≤ s.now && l.trap.isNone)) = some (late0 none) ∧ (s.st.c[9]).stream = false)
    ∧ ∀ u ∈ [none, some ⟨Cause.fpe, 1, 0x01, 0⟩],
      let s := (withG (fun g => { g with late := [late0 u] })).modSt (fun t => { t with prog := .committing, run := .parked .commit, consumed := true })
      (s.g.late.find? (fun m => m.slot == 0 && m.lo ≤ s.now)) = some (late0 u) ∧ s.st.prog = .committing ∧ s.g.fatal s.st = false := by
  decide
/-- A value on its way to c9, whole, poisoned, or one of two halves. -/
def ret0 (half : Option Bool) (bad : Option Lane) (id : Nat) : InFlight :=
  { id := id, who := me0, dst := .c 9, v := 0x55, tag := false, bad := bad, half := half, home := .bank ⟨1, 0⟩ 0 }
def returned (half : Option Bool) (bad : Option Lane) : Bool :=
  let s : State := { base with rets := [ret0 half bad 1] }
  s.rets[0]? == some (ret0 half bad 1) && !(s.st.c[9]).stream
theorem witness_returns : (returned none none && returned none (some 4) && returned (some true) none) = true
    ∧ (let s : State := { base with rets := [ret0 (some false) none 1, ret0 (some true) none 2] }
       let r := ret0 (some false) none 1
       s.rets.find? (fun x => x.who == r.who && x.dst == r.dst && x.half == some (!false) && (x.id == r.id + 1 || r.id == x.id + 1))
         = some (ret0 (some true) none 2)) := by decide
/-- A strand whose miss went out to the panel page, which nothing maps, or the walk of space 3 in CTRL. -/
def walking (sp va : Nat) : State := withSt (fun t => { t with run := .parked .walk, walkWant := some { space := sp, va := va } })
theorem witness_walk_fails : (match ((walking 2 0x100000).walk 0 1 2 0x100000).1 with | .error _ => true | .ok _ => false) = true
    ∧ (walking 2 0x100000).st.walkWant = some { space := 2, va := 0x100000 }
    ∧ (walking 2 0x100000).walkerFree 0 { space := 2, va := 0x100000 } = true
    ∧ ((walking 2 0x100000).die? 0).map (fun d => (d.l2.find? (fun e => e.hits 2 0x100000)).isNone) = some true := by decide
theorem witness_refused : ∀ x ∈ [(256, false), (255, false), (0, true)],
    let s : State := { atProg (.refused 1 0 0 x.2) with now := x.1 * Config.cycleTicks }
    s.st.prog = .refused 1 0 0 x.2 ∧ (decide (0 + 256 * s.cycOf s.g ≤ s.now)) = decide (256 ≤ x.1) := by decide
theorem witness_probe : let m := msg0 .probe (.sp ⟨1, 0⟩ 0)
    let s := posted (.bank ⟨1, 0⟩ 0) m
    s.chan (chan0 (.bank ⟨1, 0⟩ 0)) = m :: [] ∧ s.unaccepted (chan0 (.bank ⟨1, 0⟩ 0)) = false := by decide
theorem witness_evict : ∀ d ∈ [0, 1], ((cached d).die? 0).map (fun x => x.lines.map (·.dirty)) = some [BitVec.ofNat 64 d] := by decide
/-- Two dies, brought up, the first with a block for the second in its send queue. -/
def blockMsg : OmcMsg :=
  { src := 0, dst := 1, flits := 2, ordered := false, relayed := false, key := ⟨me0, 0, 3⟩, joined := 0
    body := .block { uid := 1, who := me0, seq := 3, dst := ⟨1, 0⟩, off := 0, bar := 64, bytes := [], ordered := false, die := 1, clock := [] } }
def twoDies : State :=
  { base with dies := [{ v := 0, phys := 0, sendq := [blockMsg] }, { v := 1, phys := 1 }], dev := { base.dev with stage := 3 } }
theorem witness_window : twoDies.dev.stage = 3 ∧ (twoDies.die? 0).map (fun d => (d.v, d.relay.length, d.sendq)) = some (0, 0, [blockMsg])
    ∧ (((partnerOf 0 0 1).bind (fun q => twoDies.dies.find? (fun x => x.phys == q && x.live))).map (·.v)) = some 1
    ∧ ((partnerOf 0 0 0).isNone) = true ∧ ((twoDies.die? 0).map (fun d => d.nextWindow 1 twoDies.now)) = some 0 := by decide
theorem witness_subnets : (twoDies.die? 0).map (·.subnets) = some 1 := by decide

/-! ### Hypotheses met: pools -/

/-- Handles of pool 1, of no pool, without a permission. -/
def handle (n : Nat) : RegCell := capReg (poolHandle n)
def elem0 (k : Nat) : Elem := ⟨BitVec.ofNat 64 k, 9, 0, k, false⟩
def shard0 (v : Nat) (l : List Elem) (g : Option Lane) : Shard := { die := v, elems := l, g := g, seq := 9, issued := l.length, applied := l.length }
def pool0 (l : List Shard) : Pool :=
  { num := 1, launch := 1, tenant := 1, k := 2, w := 2, ageMax := 4, t0 := Config.omcCycleTicks, round := 1, shards := l, spillCap := 0 }
/-- A strand that holds the handle in c7, with a pool of one shard. -/
def sett (f : Shard → Shard) (det : Bool := false) : State :=
  { withC 7 (handle 1) with pools := [pool0 [f (shard0 0 [elem0 4, elem0 3] (some 3))]], launches := [{ launch0 with det := det }] }
theorem witness_handles : ∀ x ∈ [num 3, capReg (localCap 0), capReg (poolHandle 5), capReg (mkCap 3 7 0 64 0 0), capReg codeQ],
    Instr.readyIn (.pput z (p 7) (r 1)) (withC 7 x) = true ∧ Instr.readyIn (.ptakeX z 1 5 (p 7)) (withC 7 x) = true := by decide
theorem witness_handle_kinds : capSpace (poolHandle 5) = 6 ∧ capLD (poolHandle 5) = true ∧ capST (poolHandle 5) = true
    ∧ base.pool? (capCursor (poolHandle 5) % 2 ^ 16) = none ∧ capSpace (localCap 0) < 6
    ∧ 7 ≤ capSpace (mkCap 3 7 0 64 0 0) := by decide
/-- PINIT of a record in LOCAL, and with the record here: good, and of K = 0. -/
theorem witness_pinit : let i : Instr := .pinit z (.c 9) (p 3) (p 4)
    let s := base.modSt (fun t => { t with kernel := true })
    ReadyFor i (needsOf i) s
    ∧ ((needsOf i).after s).checkCap (cell (needsOf i) s 0) { ld := true, spaces := fun n => n == 0 || (2 ≤ n && n ≤ 4), align := 16 } = none
    ∧ ((needsOf i).after s).checkCap (cell (needsOf i) s 1) { ld := true, st := true, spaces := fun n => n == 2 || n == 3, align := 4096 } = none
    ∧ ((needsOf i).after s).myDies.length ≤ 1
    ∧ reaches ((needsOf i).after s) (cell (needsOf i) s 0) 0 { size := 16, rd := true, noCtrl := true } local0 :=
  ⟨ready (by decide), by decide, by decide, by decide, reaches_of (by decide)⟩
theorem witness_pinit_record : let i : Instr := .pinit z (.c 9) (p 3) (p 4)
    Instr.readyIn i (atProg (.answered 0x400020040 0 false true)) = true ∧ poolRecord 0x400020040 = some (64, 2, 4)
    ∧ poolRecord 0 = none ∧ base.noPoolRoom [0] 64 = false
    ∧ ({ base with pools := List.replicate 8 (pool0 [shard0 0 [] none]) } : State).noPoolRoom [0] 2 = true := by decide
/-- The shard of the pool is at hand. -/
theorem onShard_sett : ∀ s ∈ [sett id, sett id true], onShard s (handle 1) true true (pool0 [shard0 0 [elem0 4, elem0 3] (some 3)])
    (shard0 0 [elem0 4, elem0 3] (some 3)) := by
  intro s h
  simp only [List.mem_cons, List.mem_nil_iff, or_false] at h
  rcases h with rfl | rfl <;> exact ⟨by decide, by decide, fun _ => by decide, fun _ => by decide, by decide, by decide, by decide, by decide⟩
/-- A put that fits the budget, and one over it. -/
theorem witness_put : let i : Instr := .pput z (p 7) (r 1)
    let s := sett id
    let x := shard0 0 [elem0 4, elem0 3] (some 3)
    Instr.readyIn i s = true ∧ s.poolFull x = false ∧ x.puts = [] ∧ x.held = [] ∧ s.admits (pool0 [x]) x = true ∧ s.sramUsed 0 < 65536
    ∧ s.admits (pool0 [x]) { x with appliedNow := 2 } = false := by decide
/-- Takes: the least element is within G, nothing is, an element has aged, nothing is there and no G is. -/
theorem witness_take : (shard0 0 [elem0 4, elem0 3] (some 3)).candidate 0 4 false = some (elem0 3, false)
    ∧ (shard0 0 [elem0 4, elem0 3] (some 2)).candidate 0 4 false = none ∧ (shard0 0 [elem0 4, elem0 3] (some 2)).candidate 4 4 false = some (elem0 3, true)
    ∧ (shard0 0 [] none).candidate 0 4 false = none
    ∧ Instr.readyIn (.ptakeTry z 1 5 (p 7)) (sett id) = true ∧ Instr.readyIn (.ptakeWait z 1 5 (p 7)) (sett id true) = true
    ∧ (sett id true).det = true ∧ (sett id).det = false := by decide
theorem witness_exact_record : let i : Instr := .ptakeX z 1 5 (p 7)
    let s := sett id true
    let q := ((needsOf i).after s).modSt (fun t => { t with lease := none })
    Instr.readyIn i s = true ∧ (q.fenceRun s.myScope .rel s.st.tmask 0).1 = true
      ∧ (q.fenceRun s.myScope .rel s.st.tmask 0).2.pools = s.pools := by decide
/-- PSYNC before the round of its last put is in, and after. -/
theorem witness_queries : let s := sett id
    Instr.readyIn (.pbound z (.c 9) (p 7)) s = true ∧ Instr.readyIn (.psize z (.c 9) (p 7)) s = true ∧ Instr.readyIn (.psync z (p 7)) s = true
    ∧ Instr.readyIn (.pfree z (.c 9) (p 7)) s = true
    ∧ ∀ k ∈ [1, 2], ({ pool0 [] with lastPut := [(7, 0)], installed := k }).lastPut.lookup 7 = some 0 ∧ (decide (0 + 1 < k)) = (k == 2) := by
  decide
/-- Two shards whose summaries have met, and of which one has not. -/
def sum0 (l : List Nat) : Summary := { keys := l.map (BitVec.ofNat 64), leases := 0, applied := l.length, issued := l.length, size := l.length, round := 0 }
def exchange (seen : Bool) : State :=
  { twoDies with
    pools := [{ pool0 [{ shard0 0 [elem0 4] none with snap := some (sum0 [4]), seen := if seen then [(1, sum0 [7])] else [] },
                { shard0 1 [elem0 7] none with snap := some (sum0 [7]), seen := [(0, sum0 [4])] }] with maker := some (me0, .c 9) }] }
theorem witness_rounds : [true, false].map (fun b => ((exchange b).pool? 1).map (fun p => ((exchange b).complete p,
      emptyRound ((exchange b).roundSums p), p.shards.map (·.die)))) = [some (true, false, [0, 1]), some (false, false, [0, 1])]
    ∧ ((exchange true).pool? 1).map (fun p => (p.round, p.k, p.shards.all (fun h => h.puts.isEmpty && h.held.isEmpty))) = some (1, 2, true)
    ∧ ((exchange true).strand? me0).map (fun t => (t.c[9]).stream) = some false := by decide
def take0 (origin : Nat) : Take := { who := me0, pool := 1, pair := 5, pred := 1, a := .c 7, origin := origin, issuedAt := 0 }
theorem witness_summary : ((exchange false).shard? 1 0).map (fun x => x.seen.length) = some 0
    ∧ ((exchange false).shard? 1 1).bind (·.snap) = some (sum0 [7]) := by decide
theorem witness_takes_travel : (∀ b ∈ [true, false], let f : TakeFly := ⟨take0 0, 0, 1, b, 0⟩
      let s : State := { exchange true with takes := [f] }
      s.takes[0]? = some f ∧ (s.shard? 1 1).isSome = true ∧ f.dst ≠ f.take.origin)
    ∧ ({ shard0 1 [elem0 7] (some 7) with seen := [] } : Shard).candidate 0 4 false = some (elem0 7, false) := by decide
theorem witness_reply : let x : ReplyFly := { id := 5, take := take0 0, server := 1, elem := elem0 7, aged := false, g := 7, round := 0, crossed := some 9 }
    let a : LeaseAck := ⟨1, 5, 1, 0, 9⟩
    let s : State := { exchange true with replies := [x], leaseAcks := [a] }
    s.replies[0]? = some x ∧ (s.pool? 1).isSome = true ∧ (s.strand? me0).map (fun t => ((regC t 10).stream, (regC t 11).stream)) = some (false, false)
      ∧ s.leaseAcks[0]? = some a ∧ (s.shard? 1 1).isSome = true := by decide
/-- An exact take of a launch between two instants; its pool holds two elements or none. -/
def exact0 (l : List Elem) : State :=
  { withL (fun l => { l with wave := some (wave0 0), det := true }) with pools := [{ pool0 [shard0 0 l none] with exact := [⟨me0, 5, 1, 0, 1⟩] }] }
theorem witness_exact : ∀ l ∈ [[elem0 4, elem0 3], []],
    ((exact0 l).pools.filter (fun p => p.exact.any (fun x => x.who.g.launch == 1))) = (exact0 l).pools
    ∧ ((exact0 l).pool? 1).map (fun p => (p.launch, p.exact, p.least)) = some (1, [⟨me0, 5, 1, 0, 1⟩], if l.isEmpty then none else some (0, elem0 3))
    ∧ ((exact0 l).launch? 1).bind (·.wave) = some (wave0 0) := by decide

/-! ### Hypotheses met: control registers, points, translations, images, notifications -/

theorem witness_csrget : (∀ k ∈ [0x001, 0x10D, 0x306, 0x307, 0x014], Instr.readyIn (.csrget z (.c 9) (BitVec.ofNat 12 k)) base = true)
    ∧ base.fpOut = false ∧ noCsr 0x307 ∧ noCsr 0x014 ∧ csrDefined 0x306 = true ∧ csrDefined 0x10D = true := by
  refine ⟨by decide, by decide, ?_, ?_, by decide, by decide⟩ <;> unfold noCsr <;> decide
theorem witness_csrset : (∀ k ∈ [0x005, 0x00A, 0x101, 0x107, 0x307], Instr.readyIn (.csrset z (.c 9) (p 1) (BitVec.ofNat 12 k)) base = true
      ∧ Instr.readyIn (.csrset z (.c 9) (p 1) (BitVec.ofNat 12 k)) (withSt (fun t => { t with kernel := false })) = true)
    ∧ Instr.readyIn (.canrldWrite z (.c 9) (p 1)) base = true ∧ Instr.readyIn (.watchstWrite z (.c 9) (p 1)) base = true
    ∧ Instr.readyIn (.gstatDiscClear z (.c 9) (p 1)) base = true ∧ Instr.readyIn (.cpauseResume z (.c 9) (p 1)) base = true := by decide
/-- MBOX with bits 0 and 1; and c1 named while it is in a stream. -/
theorem witness_mbox : let i : Instr := .mboxWrite z (.c 9) (p 1)
    let s := base.modSt (fun t => { t with c := t.c.set 9 { stream := true } })
    Instr.readyIn i base = true ∧ base.g.arrivals = [] ∧ base.g.refusals = [] ∧ (∀ k : Fin 48, (base.st.c[k]).stream = false)
      ∧ Instr.readyIn (.mboxWrite z (.c 10) (p 2)) (s.modSt (fun t => { t with c := t.c.set 2 (num 0x200) })) = true
      ∧ (num 0x200).v.getLsbD 9 = true ∧ (s.st.c[9]).stream = true := by decide
theorem witness_cpause : let x : StreamD := { stream0 false with pause := some ⟨.copy, 1, 0⟩ }
    let s := withG (fun g => { g with streams := [x] })
    s.g.streams.find? (fun y => y.num == (((1#64 <<< 63)).extractLsb' 56 6).toNat && y.pause.isSome) = some x ∧ x.num < 32 := by decide
theorem witness_ckpt : Instr.readyIn (.ckpt z (.c 9)) base = true ∧ base.myLaunch = some launch0 ∧ launch0.recov = false
    ∧ Instr.readyIn (.ckpt z (.c 9)) (withL (fun l => { l with recov := true })) = true := by decide
theorem witness_tlbinv : Instr.readyIn (.tlbinvAll z) mapped = true ∧ Instr.readyIn (.tlbinvPage z (p 4)) mapped = true
    ∧ mapped.checkCap (capReg (panelCap 0)) { spaces := fun n => 2 ≤ n && n ≤ 5 } = none
    ∧ (∀ k : Fin 8, (mapped.g.st[k]).walkWant = none)
    ∧ (let s : State := { mapped with g := mapped.g.modSt 1 (fun t => { t with walkWant := some { space := 2, va := 0 } }) }
       Instr.readyIn (.tlbinvAll z) s = true ∧ (s.g.st[1]).walkWant ≠ none) := by decide

/-- A page of 2 MiB at 2 MiB of PANEL.P that lies at the start of panel memory, a capability over 128 KiB of it, and a state whose c7
holds it. -/
def page1 : TlbEntry := { tenant := 1, space := 2, page := 1, level := 2, pa := 0, chk := false, pol := 0, exec := true, wr := true, rd := true }
def imageCap : Quad := mkCap 0b11111011 2 0 131072 0 0x200000
def lines1 : List Line := (List.range 2048).map (fun k => ⟨k, 0, [], 0, 0, 0⟩)
def imaging (q : Prog) (m : Memory) (l : List Image) : State :=
  { base with
    dies := [{ v := 0, phys := 0, tlb := [(0, page1)], lines := lines1 }], mem := m, images := l
    g := { group0 with st := (Vector.replicate 8 ({} : Strand)).set 0 { strand0 with prog := q, c := regs0.set 7 (capReg imageCap) } } }
/-- A word of the image as an engine sees it. -/
theorem at_image (q : Prog) (m : Memory) (l : List Image) (k : Nat) (h : k < 131072) :
    ((imaging q m l).engAddr imageCap (k : Nat) true true)
      = (.ok (.mem k) k true (pointer 2 (0x200000 + k)), imaging q m l) := by
  have e1 : capCursor imageCap = 0x200000 := by decide
  have e2 : capSpace imageCap = 2 := by decide
  have e3 : capCHK imageCap = true := by decide
  have e4 : ((((0x200000 : Nat) : Int) + ((k : Nat) : Int)) % 2 ^ 44).toNat = 0x200000 + k := by omega
  have e5 : page1.hits 2 (0x200000 + k) = true := by
    have : (2097152 + k) / 2097152 = 1 := by omega
    simp [TlbEntry.hits, page1, pageBits, this]
  have e6 : (imaging q m l).tlbFind (imaging q m l).g.die (imaging q m l).tile 2 (0x200000 + k) = some page1 := by
    have d : (imaging q m l).die? (imaging q m l).g.die = some { v := 0, phys := 0, tlb := [(0, page1)], lines := lines1 } := by rfl
    have t : (imaging q m l).tile = 0 := by rfl
    simp [State.tlbFind, d, t, e5]
  have e7 : page1.phys (0x200000 + k) = k := by simp [TlbEntry.phys, page1, pageBits]; omega
  have e8 : physKey (imaging q m l).dev 2 k = some k := by
    have d : (imaging q m l).dev = {} := by rfl
    simp [physKey, placedKey, d]
    omega
  have e9 : page1.refuse (imaging q m l).myTenant true true false = none := by
    have : (imaging q m l).myTenant = 1 := by rfl
    rw [this]; decide
  have n9 : ((imaging q m l).myLaunch.map (·.tenant)).getD 0 = 1 := by rfl
  have e10 : (imaging q m l).grant (imaging q m l).myLaunch { space := 2, va := 0x200000 + k, rd := true, wr := true } page1 = .ok page1 := by
    have c : codePage (imaging q m l).myLaunch 2 (0x200000 + k) = false := by rfl
    have t : (imaging q m l).myTenant = 1 := by rfl
    rw [t] at e9
    simp [State.grant, n9, e9, c, e7, e8]
  have e11 : (imaging q m l).homeCut ((imaging q m l).homeUnder (imaging q m l).g.die k k 1) = false := by
    have d : (imaging q m l).die? (imaging q m l).g.die = some { v := 0, phys := 0, tlb := [(0, page1)], lines := lines1 } := by rfl
    have b : ¬ ctrlBase ≤ k := by simp [ctrlBase]; omega
    have f : (lines1.find? (fun l => l.key == k / 64)).isSome = true := by
      rw [List.find?_isSome]
      exact ⟨⟨k / 64, 0, [], 0, 0, 0⟩, List.mem_map.2 ⟨k / 64, List.mem_range.2 (by omega), rfl⟩, by simp⟩
    have v : (imaging q m l).g.die = 0 := by rfl
    have o : (imaging q m l).g.loc = some (.tile 0 0) := by rfl
    have x : (imaging q m l).offOn 0 = [] := by rfl
    rw [v] at d
    have u : (imaging q m l).homeUnder 0 k k 1 = .slice 0 (sliceOf { v := 0, phys := 0, tlb := [(0, page1)], lines := lines1 } k) := by
      simp [State.homeUnder, b, d, f]
    simp [v, u, State.homeCut, o, State.homeLoc, State.noWay, x]
  simp only [State.engAddr, e1, e2, e3, e4, State.engTranslate, e6, e10, e7, e8, e11, Bool.or_true, if_true, if_false,
    Bool.false_eq_true, Except.map]
/-- The words that the image takes. -/
def imageWord (w : Nat × Nat) : EngWord := ⟨w.1, w.2, .mem w.1, w.1, true, pointer 2 (0x200000 + w.1)⟩
/-- A fold that only appends. -/
theorem fold_ok {α β ε σ : Type} (F : Except ε (List β) × σ → α → Except ε (List β) × σ) (s : σ) (g : α → β) :
    ∀ (ws : List α) (a : List β), (∀ l, ∀ w ∈ ws, F (.ok l, s) w = (.ok (l ++ [g w]), s)) →
      ws.foldl F (.ok a, s) = (.ok (a ++ ws.map g), s)
  | [], a, _ => by simp
  | w :: r, a, h => by
    rw [List.foldl_cons, h a w (by simp), fold_ok F s g r _ (fun l x hx => h l x (by simp [hx]))]
    simp
theorem image_split : ∀ w ∈ splitWords 0x200000 69632, w.1 < 131072 ∧ w.1 + w.2 ≤ 131072 := by
  intro w h
  simp only [splitWords] at h
  obtain ⟨i, hi, rfl⟩ := by simpa using h
  simp only
  omega
theorem image_words (q : Prog) (m : Memory) (l : List Image) :
    (imaging q m l).engWords imageCap 0 69632 true true = (.ok ((splitWords 0x200000 69632).map imageWord), imaging q m l) := by
  have e1 : capCursor imageCap = 0x200000 := by decide
  have lt := image_split
  rw [State.engWords, e1, Nat.add_zero]
  revert lt
  generalize splitWords 0x200000 69632 = ws
  intro lt
  refine (fold_ok _ _ imageWord ws [] ?_).trans (by simp)
  intro l w hw
  have e := at_image q m ‹_› w.1 (lt w hw).1
  have z : (((0 : Nat) : Int) + (w.1 : Int)) = (w.1 : Int) := by omega
  simp only [z, e]
  rfl
/-- An image of the group whose bytes lie in the words. -/
def image0 : Image := { group := group0, seed := 0, by_ := 0, d := .c 9, held := [] }
def imageMem : Memory := (List.range 131072).map (fun k => (k, ((imaging .none [] []).imageAt image0 k).getD 0))
theorem read_mapped (f : Nat → Byte) (a : Nat) : ∀ l : List Nat, a ∈ l → Memory.read (l.map (fun k => (k, f k))) a = f a
  | [], h => by simp at h
  | k :: r, h => by
    simp only [List.map_cons, Memory.read]
    split
    · simp [*]
    · exact read_mapped f a r (by simp at h; rcases h with rfl | h; · contradiction
                                  · exact h)
theorem image_found (q : Prog) (ws : List (Nat × Nat)) (lt : ∀ w ∈ ws, w.1 < 131072 ∧ w.1 + w.2 ≤ 131072) :
    (imaging q imageMem [image0]).findImage (ws.map imageWord) = some image0 := by
  have at_eq (k : Nat) : (imaging q imageMem [image0]).imageAt image0 k = (imaging .none [] []).imageAt image0 k := by
    have e : (imaging q imageMem [image0]).launch? image0.group.gid.launch = (imaging .none [] []).launch? image0.group.gid.launch := rfl
    have h : (imaging q imageMem [image0]).imageHeader image0.group 0 = (imaging .none [] []).imageHeader image0.group 0 := by
      unfold State.imageHeader
      rw [e]
    rw [State.imageAt, State.imageByte, h, State.imageAt, State.imageByte]
  have m : (imaging q imageMem [image0]).mem = imageMem := by simp only [imaging]
  have t : (imaging q imageMem [image0]).memTags = [] := rfl
  have i : (imaging q imageMem [image0]).images = [image0] := rfl
  rw [State.findImage, i, List.find?_cons_of_pos]
  rw [Bool.and_eq_true]
  refine ⟨rfl, ?_⟩
  rw [List.all_eq_true]
  intro c hc
  simp only [imageCells, List.mem_flatMap, List.mem_map, List.mem_range] at hc
  obtain ⟨w, ⟨x, hx, rfl⟩, j, hj, rfl⟩ := hc
  have h : x.1 + j < 131072 := by
    have := (lt x hx).2
    simp only [imageWord] at hj
    omega
  simp only [imageWord, at_eq, m, t]
  split
  · rfl
  · rename_i b hb
    have := read_mapped (fun k => ((imaging .none [] []).imageAt image0 k).getD 0) (x.1 + j) (List.range 131072) (by simpa using h)
    have g : image0.group.spTags = [] := rfl
    rw [imageMem, this, hb, g]
    simp
theorem image_ask (q : Prog) (m : Memory) (l : List Image) : imageWords (needsOf (.ctxsave z (.c 9) (p 7))) (imaging q m l) (imaging q m l)
    ((splitWords 0x200000 69632).map imageWord) := by
  have a : (needsOf (.ctxsave z (.c 9) (p 7))).after (imaging q m l) = imaging q m l := by
    have h : ((imaging q m l).cell (.c 7)).stream = false := rfl
    have b : (imaging q m l).st.mbox = 0 := rfl
    show ((imaging q m l).pops [pop1 (p 7)]).2 = _
    simp [State.pops, State.pop, pop1, p, h, b, Strand.isMbox]
  have c : cell (needsOf (.ctxsave z (.c 9) (p 7))) (imaging q m l) 0 = capReg imageCap := by
    have h : ((imaging q m l).cell (.c 7)).stream = false := rfl
    have b : (imaging q m l).st.mbox = 0 := rfl
    have v : (imaging q m l).cell (.c 7) = capReg imageCap := rfl
    show (((imaging q m l).pops [pop1 (p 7)]).1).getD 0 {} = _
    simp only [State.pops, State.pop, pop1, p, h, b, Strand.isMbox]
    simp [v]
  have r : src (needsOf (.ctxsave z (.c 9) (p 7))) (imaging q m l) 0 = imageCap := congrArg RegCell.v c
  have z : (imaging q m l).g.size = 4096 := rfl
  unfold imageWords
  rw [a, c, r, z]
  have f1 : (capReg imageCap).tag = true := rfl
  have f2 : (capReg imageCap).v = imageCap := rfl
  have f3 : capSpace imageCap = 2 := by decide
  have f4 : capLD imageCap = true := by decide
  have f5 : capST imageCap = true := by decide
  have f6 : capCursor imageCap = 0x200000 := by decide
  exact ⟨by simp [State.checkCap, f1, f2, f3, f4, f5, f6], by decide, by decide, image_words q m l⟩
theorem witness_images : (∀ q ∈ [Prog.none, .answered 0 0 false true],
      Instr.readyIn (.ctxsave z (.c 9) (p 7)) (imaging q [] []) = true ∧ Instr.readyIn (.ctxload z (.c 9) (p 7)) (imaging q imageMem [image0]) = true)
    ∧ needsOf (.ctxsave z (.c 9) (p 7)) = needsOf (.ctxload z (.c 9) (p 7))
    ∧ (∀ ws, (imaging .none [] []).findImage ws = none)
    ∧ ((image0.group.st[0]).c[9]).stream = false := by
  refine ⟨by decide +kernel, rfl, fun _ => rfl, by decide⟩

theorem witness_notify : let i : Instr := .notify z (.c 9) (p 1) 255
    Instr.readyIn i base = true ∧ (((needsOf i).after base).fenceRun .device .rel base.st.tmask 0).1 = true
    ∧ base.tenant? base.myTenant = some tenant0 ∧ tenant0.notices.length < 1024 ∧ base.myLaunch = some launch0
    ∧ (let s : State := { base with tenants := [{ tenant0 with notices := List.replicate 1024 ⟨1, 2, 0, 3⟩ }] }
       Instr.readyIn i s = true ∧ ((s.tenant? 1).map (fun x => (x.notices.length, x.notices.head?))) = some (1024, some ⟨1, 2, 0, 3⟩)) := by
  decide +kernel

/-! ### Hypotheses met: stops, halts, points, errors -/

theorem noStop_of {s : State} (h : s.groups.all (fun g => g.stop.isNone) = true) : noStop s := fun g hg => by
  simpa using List.all_eq_true.1 h g hg
/-- The group of one idle strand set. -/
def quiet : State := { base with g := { group0 with st := Vector.replicate 8 {} } }
theorem witness_stops : runsOn base ⟨1, 0⟩ group0 0 ∧ noStop base ∧ noStop quiet :=
  ⟨⟨by decide, rfl, rfl, by decide, by decide, by decide⟩, noStop_of (by decide), noStop_of (by decide)⟩
theorem witness_quiet : quiet.holding quiet.g = false ∧ (∀ j : Fin 8, quiet.g.st[j] = {}) ∧ quiet.g.mx = [] ∧ quiet.g.late = []
    ∧ quiet.g.ops.isEmpty = true ∧ quiet.g.swrites = [] ∧ quiet.chans = [] ∧ quiet.rets = [] ∧ quiet.landed = [] ∧ quiet.replies = []
    ∧ quiet.dies.all (fun d => d.lines.isEmpty) = true := by decide
theorem witness_deadline : let q : Stop := ⟨.preempt, 0, none⟩
    let s := withG (fun g => { g with stop := some q })
    (s.group? ⟨1, 0⟩).map (·.stop) = some (some q) ∧ s.st.run = .ready ∧ s.st.prog = .none ∧ s.st.consumed = false := by decide
/-- A group that pauses while another waits and the die has no tile free; and a saved one that may come back. -/
def leaving : State :=
  { base with g := { group0 with st := Vector.replicate 8 {} }, others := [{ gid := ⟨1, 1⟩, state := .queued }]
              dies := [{ v := 0, phys := 0, off := List.range 144 }] }
theorem witness_leaves : leaving.g.state = .resident ∧ leaving.holding leaving.g = false ∧ (∀ k : Fin 8, (leaving.g.st[k]).run = .idle)
    ∧ (leaving.others.map (fun y => (y.gid.launch, y.homeDie, y.waits))) = [(1, 0, true)]
    ∧ (List.range 144).all (fun t => !leaving.tileFree 0 t ⟨1, 0⟩) = true := by decide
theorem witness_returns_to_tile : let s := withG (fun g => { g with state := .saved, place := none })
    s.nextPlaced s.g = true ∧ (s.tilesFor launch0 s.g).contains 0 = true := by decide
theorem witness_halts : (withL (fun l => { l with debugged := true })).g.state = .resident
    ∧ ((withL (fun l => { l with debugged := true })).launch? 1).map (·.debugged) = some true
    ∧ (withG (fun g => { g with dhalt := true })).g.dhalt = true ∧ base.g.arrivals = [] ∧ base.g.refusals = [] := by decide
/-- A launch whose instant has ended and that a CKPT has marked, its group on a tile or saved; and one with its escrow full. -/
def pointing (st : GState) (pl : Option Place) : State :=
  { withL (fun l => { l with recov := true, ckpt := true, wave := some (wave0 0) }) with g := { group0 with state := st, place := pl } }
theorem witness_points : ∀ x ∈ [(GState.resident, some (⟨0, 0⟩ : Place)), (.saved, none)],
    let s := pointing x.1 x.2
    s.noStops 1 = true ∧ ((s.launch? 1).map (fun l => (l.num, l.wave, s.pointDue l (wave0 0)))) = some (1, some (wave0 0), true)
      ∧ (s.region (s.regionOf 0)).draining = false ∧ s.g.state = x.1 := by decide
def full0 : Launch := { launch0 with recov := true, points := 1, escrow := List.replicate (Config.escrowShare 1) (0, 0) }
theorem witness_drain : let s := withL (fun _ => full0)
    s.escrowFull full0 = true ∧ (s.launch? 1).map (·.num) = some 1 ∧ runsOn s ⟨1, 0⟩ group0 0 ∧ noStop s := by
  refine ⟨?_, by rfl, ⟨by decide, rfl, rfl, by decide, by decide, by decide⟩, noStop_of (by decide)⟩
  simp [State.escrowFull, Launch.pointed, withL, full0, launch0]
/-- A launch with a point. -/
def point0 : Point :=
  { launch := 1, num := 1, instant := 2, wave := none, groups := [group0], pools := [], notifySeq := 0, kids := [] }
def rolling : State :=
  { withL (fun l => { l with recov := true, points := 1 }) with g := { group0 with state := .saved, place := none }, points := [point0] }
theorem witness_rollback : rolling.points.find? (fun p => p.launch == 1) = some point0
    ∧ (rolling.launch? 1).map (fun l => (l.status, l.recov, l.points, l.kids)) = some (none, true, 1, [])
    ∧ rolling.g.state = .saved ∧ point0.groups.find? (fun h => h.gid == ⟨1, 0⟩) = some group0 := by decide
theorem witness_errors : base.st.run = .ready ∧ base.g.fatal base.st = false ∧ launch0.recov = false
    ∧ (({ base with rets := [ret0 none none 1] } : State).rets.find? (fun x => x.who == me0 && x.dst == .c 9)) = some (ret0 none none 1) := by
  decide

/-! ### Hypotheses met: start, the host, power, drains, the debugger, the tools -/

/-- The device at a stage, with its live and failed regions. -/
def staged (stage : Nat) (live failed : BitVec 16) : State :=
  { base with dev := { base.dev with powered := true, accepted := some 0, stage := stage, live := live, failed := failed } }
theorem witness_stage1 : (staged 0 0 0).dev.powered = true ∧ (staged 0 0 0).dev.accepted ≠ none := by decide
theorem witness_join_region : (∀ k ∈ [1, 15], let s := staged 2 ((1#16 <<< k) - 1) 0
    (s.dev.live.getLsbD k = false ∧ s.dev.failed.getLsbD k = false ∧ (List.range k).all (fun j => s.dev.live.getLsbD j || s.dev.failed.getLsbD j) = true))
    ∧ (staged 2 0x7FFF 0x8000).dev.live ||| (staged 2 0x7FFF 0x8000).dev.failed = BitVec.allOnes 16 := by decide
/-- The tenant's panel and memory spaces map their first 4 GiB (R213): entries of the level-0 tables at 2^28 and 2^28 + 0x8000. -/
def pte0 : Nat := 1 + 2 ^ 47 + 2 ^ 48 + 2 ^ 49 + 2 ^ 50 + 2 ^ 54
def tables : State :=
  { base with
    tenants := [{ tenant0 with roots := [(2, 2 ^ 28), (3, 2 ^ 28 + 0x8000)], functions := [7] }]
    mem := (Memory.writes [] (2 ^ 28) (bytesOfNat 8 pte0)).writes (2 ^ 28 + 0x8000) (bytesOfNat 8 pte0)
    dev := { base.dev with hashedPart := 2 ^ 20, stage := 1 } }
/-- Addresses that translate to these. -/
def keysAre (x : Except (Nat × Nat) (List Nat)) (l : List Nat) : Bool := match x with | .ok k => k == l | .error _ => false
theorem keys_of {x : Except (Nat × Nat) (List Nat)} {l : List Nat} (h : keysAre x l = true) : x = .ok l := by
  unfold keysAre at h
  split at h
  · simpa using h
  · simp at h
theorem witness_host : tables.hostKeys 1 2 0x200000 true false 2 = .ok [0x200000, 0x200001]
    ∧ tables.hostKeys 1 2 0x200000 false true 2 = .ok [0x200000, 0x200001] ∧ tables.mem.wf = true ∧ [0x200000, 0x200001].Nodup
    ∧ (match tables.hostKeys 1 2 (2 ^ 32) true true 2 with | .error e => e == (0x10, 2 ^ 32) | .ok _ => false) = true
    ∧ tables.dev.stage ≠ 0 ∧ base.dev.stage = 0 ∧ (0 / 8 < (tables.dev.rootPort 0).parts) ∧ tables.functionOwner 7 = tables.tenant? 1 ∧ (tables.tenant? 1).map (·.num) = some 1 :=
  ⟨keys_of (by decide), keys_of (by decide), by decide, by decide, by decide, by decide, by decide, by decide, by decide, by decide⟩
theorem witness_rectangle : tables.dev.stage ≠ 0 ∧ (∀ t ∈ base.tenants, t.num = 1) ∧ base.launches.all (fun l => l.tenant != 2) = true
    ∧ (rectangleDies 0 0 8 16).length = 128 := by decide +kernel
theorem witness_writes : (base.die? 0).isSome = true ∧ (base.group? ⟨1, 0⟩).map (·.gid) = some ⟨1, 0⟩ ∧ (base.tenant? 1).isSome = true := by decide
theorem witness_power : ({ base with dev := { base.dev with lowSince := some 3 } } : State).dev.lowSince = some 3
    ∧ ((base.modRegion 15 (fun r => { r with throttleEnd := 1, throttled := true })).region 15).throttled = true
    ∧ ((base.modRegion 15 (fun r => { r with throttleEnd := 1, throttled := true })).region 0).throttled = false := by decide
theorem witness_drains : quiet.onRegion 1 = [] ∧ (quiet.region 1).drainAt = none ∧ (quiet.region 1).draining = false
    ∧ (quiet.die? 0).isSome = true ∧ base.regionOf group0.die = 0 ∧ (base.region 0).drainAt = none
    ∧ ((base.modRegion 0 (fun r => { r with drainAt := some 0 })).region 0).drainAt = some 0 := by decide
/-- ndbg attached to the launch, whose group it has halted; an object with a descriptor and a name. -/
def object0 : Object :=
  { num := 4, name := "a.ndo", linked := true, text := List.replicate 12 7, data := List.replicate 72 5, sdata := [], aligns := (64, 64, 16)
    launches := [0], symbols := [⟨"x", .data, 64, false⟩], relocs := [], textBase := 0, dataBase := 0x10000 }
def debugging (halt : Bool) (x : Option Nat) : State :=
  { tables with g := { group0 with dhalt := halt }, objects := [object0], dbg := { launch := x, tenant := 1, object := 4, streamRec := some 0 }
                dev := { tables.dev with stage := 1 } }
theorem witness_debugger : let s := debugging true (some 1)
    s.dbgGroup = some s.g ∧ s.group? s.g.gid = some s.g ∧ s.dbgLaunch = some launch0 ∧ s.dbg.object ≠ 0 ∧ s.dbg.breaks.length < 4
      ∧ (s.dbgGroups.map (fun g => (g.gid.num, g.dhalt))) = [(0, true)] ∧ (debugging true none).dbg.launch = none
      ∧ (s.groups.filter (fun h => h.gid == ⟨1, 0⟩)).length = 1 ∧ s.dbg.streamRec = some 0 ∧ s.allHalted = true := by decide
theorem witness_objects : let s := debugging true (some 1)
    s.objects.find? (fun x => x.num == object0.num) = some object0 ∧ s.dbgObject = some object0 ∧ object0.launches ≠ []
    ∧ object0.symbols.find? (fun z => z.name == "x" && z.sect == .data) = some ⟨"x", .data, 64, false⟩ := by decide
theorem witness_object_pages : let s := debugging true (some 1)
    (∃ ks, s.hostKeys 1 Config.codeSpace 0 false false 12 = .ok ks ∧ ∃ js, s.hostKeys 1 3 0x10000 false false 72 = .ok js ∧ (ks ++ js).Nodup)
    ∧ ∃ ks, s.hostKeys 1 3 (0x10000 + 64) false false 8 = .ok ks := by
  have k : ∀ x : Except (Nat × Nat) (List Nat), (match x with | .ok _ => true | .error _ => false) = true → ∃ l, x = .ok l := by
    intro x h
    cases x <;> simp at h ⊢
  refine ⟨⟨_, keys_of (l := (List.range 12)) (by decide), _, keys_of (l := (List.range 72).map (512 + ·)) ?_, ?_⟩, k _ (by decide)⟩
  all_goals decide
theorem witness_tools : readArgs {} ["a.nda"] = { sources := ["a.nda"] }
    ∧ (debugging true none).objects.find? (fun x => x.num == 9) = none ∧ (∃ q, linkObjects [object0] 1 (Config.freeLane 0).toNat = some q) :=
  ⟨by decide, by decide, ⟨_, rfl⟩⟩

/-! ### Hypotheses met: words under way, messages, fences, waves, pairs, meshes -/

/-- A word that goes on behind its retries, its capability kept. -/
theorem witness_underway : let i : Instr := .lde z (.c 9) (p 3) 0
    let s := withSt (fun t => { t with prog := .refused 65536 0 0 false, kept := [capReg (localCap 0)] })
    needs i = some (needsOf i) ∧ (needsOf i).o.konly = false ∧ s.st.guard z = true ∧ s.st.consumed = false
      ∧ reaches s (capReg (localCap 0)) 0 { size := 8, rd := true, localOnly := true } local0 :=
  ⟨rfl, by decide, by decide, by decide, reaches_of (by decide)⟩
/-- The message of every arrival has come to its tile. -/
theorem witness_mail_has_come : [(false, true, false), (false, true, true), (true, false, false)].all (fun x =>
    ((mailed x.1 x.2.1 x.2.2).headArrives ⟨.strand ⟨1, 0⟩ 0, .inbox ⟨1, 0⟩⟩).1) = true := by decide
theorem witness_probe_has_come : ((posted (.bank ⟨1, 0⟩ 0) (msg0 .probe (.sp ⟨1, 0⟩ 0))).headArrives (chan0 (.bank ⟨1, 0⟩ 0))).1 = true := by
  decide
/-- OFENCE with no probe out; with one sent, behind a message that is accepted. -/
theorem witness_ofence_probes : let p0 : OProbe := { who := me0, src := 0, dst := 1, seq := 2, sent := true }
    let s : State := { withSt (fun t => { t with outstanding := [omcMail] }) with oprobes := [p0], msgAcks := [{ key := ⟨me0, 0, 1⟩ }] }
    noProbe base ∧ base.omcWaits.all (fun o => !base.relayedOut (base.myKey o.seq)) = true
      ∧ Instr.readyIn (.ofence z) s = true ∧ (s.oprobes.map (·.who)) = [s.me] ∧ s.acceptedKey (s.myKey omcMail.seq) = true
      ∧ s.relayedOut (s.myKey omcMail.seq) = false ∧ omcMail.seq ≤ p0.seq :=
  ⟨fun _ h => (nomatch h), by decide⟩
/-- A block with nothing to send; and one, copied, for a group of another die with the optical core up. -/
def farBlock : State :=
  { ((withC 7 (capReg (mkCap 0b11111011 1 0 64 0 (2 ^ 28)))).modSt (fun t => { t with prog := .copied [] })) with
    others := [{ group0 with gid := ⟨1, 1⟩, place := some ⟨1, 0⟩, homeDie := 1 }], dies := [{ v := 0, phys := 0 }, { v := 1, phys := 15 }]
    dev := { base.dev with stage := 3 }, tenants := [{ tenant0 with width := 8, height := 16 }], launches := [{ launch0 with groups := 2 }] }
theorem witness_osend_none : let i : Instr := .osend z false (.c 7) (p 3) (p 3)
    let s := withC 7 (capReg (mkCap 0b11111011 0 0 0 0 0))
    Instr.readyIn i s = true ∧ min (capRest (src (needsOf i) s 2)) (capRest (src (needsOf i) s 0)) = 0 := by decide
theorem witness_osend_far : let i : Instr := .osend z false (.c 7) (p 3) (p 7)
    Instr.readyIn i farBlock = true ∧ ((farBlock.group? ⟨1, 1⟩).map (·.die)) = some 1 ∧ farBlock.g.die = 0 ∧ farBlock.inRectangle 1 = true
      ∧ farBlock.checkCap (farBlock.st.c[7]) { st := true, spaces := (· ≤ 1), align := 64 } = none
      ∧ farBlock.checkCap (farBlock.st.c[7]) barAsk = none ∧ (farBlock.barPlace (farBlock.st.c[7]).v).1 = ⟨1, 1⟩
      ∧ (farBlock.die? farBlock.g.die).isSome = true := by decide
theorem witness_osend_way : farBlock.overOmc 0 1 = true ∧ ((farBlock.group? ⟨1, 1⟩).map (farBlock.apart farBlock.g)) = some false := by
  decide +kernel
/-- The acquire that a test makes behind a release. -/
theorem witness_acquires : ((base.modSt (fun t => { t with prog := .fenced 2 })).fenceRun base.myScope .acq base.st.tmask 2).1 = true
    ∧ (withG (fun g => { g with emits := [(0, 63, true)] })).g.relHere 0 63 = true
    ∧ Instr.readyIn (.present z 1 63) (withSt (fun t => { t with prog := .answered 1 1 false true })) = true := by decide
theorem witness_watch_traps : let i : Instr := .watch z .weak 63 5
    needs i = some (needsOf i) ∧ (needsOf i).o.konly = false ∧ (withSt (fun t => { t with wdepth := 4 })).st.guard z = true
      ∧ base.st.consumed = false ∧ base.st.prog.came = false ∧ needs (.unwatch z) = some (needsOf (.unwatch z)) :=
  ⟨rfl, by decide, by decide, by decide, by decide, rfl⟩
/-- HALT's release behind its stage, and its acquire with the children gone. -/
theorem witness_halt_stages : (((base.modSt (fun t => { t with clock := joinClock t.clock t.kidClock, kidClock := [] })).fenceRun .device .rel
      base.st.tmask 3).1 = true)
    ∧ Instr.readyIn (.halt z none) (atProg (.fenced 0)) = true ∧ (atProg (.fenced 0)).st.outc = 0
    ∧ (((atProg (.fenced 0)).modSt (fun t => { t with prog := .fenced 2, clock := joinClock t.clock t.kidClock })).fenceRun base.stealScope .acq
      base.st.tmask 2).1 = true := by decide
/-- A pair whose group is held, and one whose group is not. -/
theorem witness_pairs : let held : State := (paired .hold).modSt (fun t => { t with held := true })
    (held.pair? 0 1).map (·.state) = some .hold ∧ held.chans = [] ∧ held.rets = [] ∧ held.g.allHeld = true ∧ held.g.mx = []
      ∧ held.g.state = .resident ∧ held.g.on 0 0 = true
      ∧ ((paired .hold).pair? 0 1).map (fun q => (paired .hold).pairHeld 0 q) = some false
      ∧ ((paired .swap).pair? 0 1).map (fun q => (paired .swap).g.on 0 q.hot) = some true := by decide
/-- A long result that waits for its commit, of its strand. -/
theorem witness_commit_owner : let l : Late := { late0 none with waits := true }
    let s := (withG (fun g => { g with late := [l] })).modSt (fun t => { t with prog := .committing, run := .parked .commit, consumed := true })
    s.g.late.find? (fun m => m.waits && m.slot == 0 && m.lo ≤ s.now) = some l ∧ (s.g.st[0]).serial = l.owner
      ∧ (base.g.st[0]).serial = (late0 none).owner ∧ (late0 none).waits = false := by decide
/-- A value that has its strand, and comes through the mesh. -/
theorem witness_value_way : let r := ret0 none none 1
    let s : State := { base with rets := [r] }
    (s.g.st[0]).serial = r.owner ∧ r.back = .value ∧ (s.goBack r).1.legs = [] ∧ r.trail.lost = false := by decide
/-- The page that tables of the tenant map, for which the strand has missed. -/
theorem witness_walk_ends : let q : WalkReq := { space := 2, va := 0x200000 }
    let s := tables.modSt (fun t => { t with run := .parked .walk, walkWant := some q })
    s.st.walkWant = some q ∧ s.l2Find 0 q = none ∧ s.walkerFree 0 q = true ∧ s.g.place = some ⟨0, 0⟩
      ∧ (match ((s.walk 0 1 2 0x200000).1).bind (s.grant (s.launch? 1) q) with | .ok _ => true | .error _ => false) = true := by decide
/-- A router that has held more than three quarters of its shared permits for 4,096 cycles. -/
def hotMesh : State :=
  { base with
    dies := [{ v := 0, phys := 0, hotSince := [((5, 0), 0)] }], now := 4096 * Config.cycleTicks
    rets := List.replicate 79 { ret0 none none 1 with trail := { legs := [.mesh 0 5 0 false], spot := some ⟨0, 5, 0, false⟩ } } }
theorem witness_hot : (hotMesh.watchMeshes.die? 0).map (fun d => (d.subnets, d.hotSince)) = some (1, [((5, 0), 0)])
    ∧ 0 + 4096 * Config.cycleTicks ≤ hotMesh.now := by decide +kernel
/-- A subnetwork that has carried nothing for 65,536 cycles. -/
theorem witness_idle : let s : State :=
      { base with dies := [{ v := 0, phys := 0, subnets := 2, idleSince := [(1, 0)] }], now := 65536 * Config.cycleTicks }
    (s.watchMeshes.die? 0).map (fun d => (d.subnets, d.idleSince.lookup 1)) = some (2, some 0) ∧ 0 + 65536 * Config.cycleTicks ≤ s.now := by
  decide
theorem witness_no_window : (twoDies.die? 0).map (·.live) = some true ∧ base.dev.stage < 3
    ∧ (({ twoDies with dies := [{ v := 0, phys := 0, live := false }] } : State).die? 0).map (·.live) = some false := by decide
theorem witness_control_idle : controlIdle tables ∧ controlIdle (debugging true (some 1)) := ⟨fun _ => rfl, fun _ => rfl⟩
/-- A launch that has ended, on a device whose region is drained; and parts that stand. -/
theorem witness_retirable : noneRuns (withL (fun l => { l with status := some 0 }))
    ∧ partStands base (.tile 0 11 11) ∧ partStands base (.slice 0 23) := by
  refine ⟨fun l h => ?_, ⟨by decide, by decide⟩, fun d h => ?_⟩
  · have : l = { launch0 with status := some 0 } := List.mem_singleton.mp h
    subst this
    decide
  · have h0 : base.die? 0 = some { v := 0, phys := 0 } := by decide
    rw [h0] at h
    cases h
    rfl
theorem witness_region_runs : let s := base
    (s.onRegion 0).map (·.gid) = [⟨1, 0⟩] ∧ runsOn s ⟨1, 0⟩ group0 0 ∧ (s.region 0).drainAt = none :=
  ⟨by decide, ⟨rfl, rfl, rfl, by decide, by decide, by decide⟩, by decide⟩
/-- An exact take is recorded before its release. -/
theorem witness_exact_fence : let i : Instr := .ptakeX z 1 5 (p 7)
    let s := sett id true
    let q := (((needsOf i).after s).modSt (fun t => { t with lease := none })).modPool 1 (fun y => { y with
      exact := y.exact.filter (fun x => x.who != s.me) ++ [⟨s.me, 5, 1, lane0 (handle 1), s.g.instant⟩] })
    (q.fenceRun s.myScope .rel s.st.tmask 0).1 = true
      ∧ ((q.fenceRun s.myScope .rel s.st.tmask 0).2.pool? 1).map (fun y => y.exact.map (·.who)) = some [me0] := by decide
/-- A wave whose every strand stands at RBAR, and has been counted there. -/
theorem witness_wave_barrier : let x := (withSt (fun t => { t with run := .parked .rbar }))
    let w : Wave := { wave0 1 with rbn := 1, parks := [(x.g.st[0]).parkSeen me0] }
    w.rbn = w.act ∧ (x.g.st[0]).atRbar = true ∧ w.counts x.g.st[0] me0 = true := by decide

/-! ### Hypotheses met: words, steps, traps, registers, the invariant -/

theorem test_decode_words : ∀ x ∈ words, decodeTableWord 96 x.1 = some x.2 := by decide
/-- Encoding and decoding meet their hypotheses, with a word of the general kind and one of the two that share theirs. -/
theorem witness_encodes : (encode (.ffma z .f32 .rup (.c 1) (r 2) (r 3))).isSome = true ∧ (Instr.ffma z .f32 .rup (.c 1) (r 2) (r 3)).wf = true
    ∧ (encode (.cpauseResume z (.c 1) (p 2))).isSome = true ∧ (Instr.cpauseResume z (.c 1) (p 2)).wf = true
    ∧ (match decode (.ofWords 0 0 0) with | .ok i => i == .nop z | .error _ => false) = true := by decide
/-- After withFetchWord the first strand of group 0 of launch 1 has its turn, and fetches the word. -/
def placed (w : Nat) : State := base.withFetchWord 96 w
def turn (w : Nat) : State := (({ placed w with agenda := [], now := 0 } : State).focus ⟨1, 0⟩).reach 0
theorem witness_turn : let s := placed (fields 0x041 1 0 0 (w := 3) (i := 1))
    let p := ({ s with agenda := [], now := s.now + 0 } : State).focus ⟨1, 0⟩
    s.agenda = [⟨0, .issue ⟨1, 0⟩⟩] ∧ p.g.gid = ⟨1, 0⟩ ∧ p.mayBegin p.g = true ∧ p.g.nextSlot p.cyc = some 0 := by decide
theorem witness_turn_runs : let q := turn (fields 0x041 1 0 0 (w := 3) (i := 1))
    q.boundaryTrap = none ∧ q.pastDeadline = false ∧ q.breakHit = none
    ∧ (match q.fetch with | .bytes l => (match decodeBytes l with | .ok (i, _) => i == .addi z .b64 (.c 1) (r 0) 1 | .error _ => false) | _ => false) = true := by
  decide
/-- A word that decodes to nothing; an untagged code capability; a page that no TLB holds. -/
theorem witness_bad_fetches : (match (turn (fields 0x00E 0 0 0)).fetch with
      | .bytes l => (match decodeBytes l with | .error e => e.detail == 0x02 | .ok _ => false) | _ => false) = true
    ∧ (match ((turn 0).modSt (fun t => { t with fcap := {} })).fetch with | .trap _ => true | _ => false) = true
    ∧ (match ({ turn 0 with dies := [{ v := 0, phys := 0 }] } : State).fetch with | .walk _ => true | _ => false) = true := by decide
/-- ERET at level U; ADD under a false guard; a register of the pair out of range is no word, so ILLEGAL by state is MRD.F64 of
c47; an empty source under the trap policy; an empty source, and an outstanding destination, that park. -/
theorem witness_issue : (needs (.eret z false)).map (·.o.konly) = some true ∧ (withSt (fun t => { t with kernel := false })).st.kernel = false
    ∧ (needs (.add ⟨true, 0, 0⟩ .b64 (.c 9) (r 1) (r 2))).isSome = true ∧ base.st.guard ⟨true, 0, 0⟩ = false
    ∧ (let s := withC 1 { full := false }
       (needs (.add z .b64 (.c 9) ⟨.c 1, true, false⟩ (r 2))).isSome = true ∧ s.st.guard z = true ∧ s.st.consumed = false
        ∧ (firstEmpty (s.readies [] (needsOf (.add z .b64 (.c 9) ⟨.c 1, true, false⟩ (r 2))).srcs)).isSome = true
        ∧ firstEmpty (s.readies [] (needsOf (.add z .b64 (.c 9) (r 1) (r 2))).srcs) = none
        ∧ anyNo (s.readies [] (needsOf (.add z .b64 (.c 9) (r 1) (r 2))).srcs) = true)
    ∧ (withC 9 { full := true, out := true }).dstBusy (.c 9) = true
    ∧ ((needs (.ptakeTry z 1 5 (p 7))).bind (fun n => n.o.ill ((withC 10 { stream := true }).modSt (fun t => { t with kernel := false })))).isSome = true := by
  decide
theorem witness_traps : base.g.fatal base.st = false ∧ (base.launch? base.g.gid.launch).isSome = true
    ∧ ({ cause := .align, lanes := 3, detail := 0, val := 5 } : Trap).unstated = false
    ∧ (∀ k ∈ [0, 1], (withSt (fun t => { t with depth := k })).g.fatal (withSt (fun t => { t with depth := k })).st = false)
    ∧ (withSt (fun t => { t with depth := 2 })).g.fatal (withSt (fun t => { t with depth := 2 })).st = true
    ∧ (withG (fun g => { g with tvec := 0 })).g.fatal base.st = true ∧ (base.tenant? launch0.tenant).map (·.num) = some launch0.tenant
    ∧ launch0.num = base.g.gid.launch := by decide
theorem witness_eret : Instr.readyIn (.eret z true) base = true
    ∧ Instr.readyIn (.eret z true) (withSt (fun t => { t with depth := 2, save := some ⟨1, 2, 3, {}, false⟩ })) = true := by decide
theorem witness_trap_and_brk : Instr.readyIn (.trap z 7 (p 1)) base = true ∧ Instr.readyIn (.brk z 9) base = true
    ∧ (base.myLaunch.map (·.debugged)).getD false = false
    ∧ Instr.readyIn (.brk z 9) (withL (fun l => { l with debugged := true })) = true
    ∧ ((withL (fun l => { l with debugged := true })).myLaunch.map (·.debugged)).getD false = true := by decide
theorem witness_written : (base.st.c[9]).stream = false ∧ (base.st.c[47]).stream = false
    ∧ ((({ thief with others := thief.others.map (fun g => { g with logical := 1 }) } : State).neighbour thief.g .east).map (·.gid)) = some ⟨1, 1⟩
    ∧ ((streaming true).st.c[9]).stream = true ∧ (streaming true).stream? 9 = some (stream0 true) := by decide
theorem witness_shared : let w : SWrite := ⟨8, 7, num 5⟩
    ({ group0 with swrites := [w] }).swrites = [w] ∧ w.due ≤ 8 ∧ 7 < w.due := by decide
/-- The cursor at address 0, and at the last from which 12 bytes more are in its reach. -/
theorem witness_advance : (∀ o ∈ [0, 2 ^ 39 - 13], let t := { strand0 with fcap := ⟨mkCap 5 3 0 64 o 0, true⟩ }
    0 ≤ capBase t.fcap.v + capOffset t.fcap.v ∧ capOffset t.fcap.v + 12 < 2 ^ 39 ∧ capBase t.fcap.v + capOffset t.fcap.v + 12 < 2 ^ 44) := by
  decide
theorem witness_frame : let i : Instr := .abs z .i16 (.c 9) (r 1)
    writesOne i = some (.c 9) ∧ i.wf = true ∧ ReadyFor i (needsOf i) base ∧ (∃ t, exec i base = .next t) :=
  ⟨rfl, by decide, ready (by decide), ⟨_, rfl⟩⟩
theorem witness_invariant : MemoryInv base ∧ ∃ t, step (placed 0) = .next t := by
  have h : ∀ o : Out, (match o with | .next _ => true | _ => false) = true → ∃ t, o = .next t := by
    intro o h
    cases o <;> simp at h ⊢
  exact ⟨⟨⟨by decide, by decide, by decide⟩, by decide, by decide⟩, h _ (by decide)⟩

/-! ### Hypotheses met: waits, checks, heads, ways -/

/-- A floating-point result of the strand is outstanding, so that the forms of FCSR wait. -/
theorem witness_fcsr_waits : let s := withG (fun g => { g with late := [late0 none] })
    s.fpOut = true ∧ Instr.readyIn (.csrget z (.c 8) 1) s = true ∧ Instr.readyIn (.fcsrget z (.c 8)) s = true
      ∧ Instr.readyIn (.fcsrset z (.c 8) (r 1) 1) s = true ∧ Instr.readyIn (.fflagclr z (.c 8) 1) s = true
      ∧ Instr.readyIn (.fcsrWrite z (.c 8) (p 1)) s = true := by decide
/-- MSTAT of a deterministic launch with the unit at work, and with it empty. -/
theorem witness_mstat_waits : let s : State := { withL (fun l => { l with det := true }) with g := { group0 with mx := [flight0] } }
    Instr.readyIn (.mstat z (.c 9)) s = true ∧ s.det = true ∧ s.g.mx ≠ []
      ∧ (withL (fun l => { l with det := true })).g.mx = [] := by decide
/-- The first check that an address in c7 fails. -/
def failsAt (i : Instr) (x : RegCell) (a : Ask) (off : Int) : Option Nat :=
  let s := withC 7 x
  if Instr.readyIn i s then (addressChecks ((needsOf i).after s) (cell (needsOf i) s 0) off a).findIdx? (·.1) else none
/-- An address for each of the checks: untagged, space 7, space 6, no LD, no ST, STC of a capability without CST, a reserved policy
of a capability that takes it from the access, past the bounds, misaligned. -/
theorem witness_address_checks : (let ld : Instr := .ld z .b64 ⟨false, 0⟩ (.c 9) (p 7) 0
      let a : Ask := { size := 8, rd := true, pol := some ⟨false, 0⟩ }
      [failsAt ld (num 3) a 0, failsAt ld (capReg (mkCap 3 7 0 64 0 0)) a 0, failsAt ld (capReg (poolHandle 5)) a 0
        , failsAt ld (capReg (mkCap 2 0 0 64 0 0)) a 0, failsAt ld (capReg (mkCap 0b11111011 2 0 64 57 0x100000)) a 0
        , failsAt ld (capReg (localCap 4)) a 0, failsAt ld (capReg (localCap 0)) a 0]
        = [some 0, some 1, some 2, some 3, some 7, some 8, none])
    ∧ failsAt (.st z .b64 ⟨false, 0⟩ (p 7) (r 1) 0) (capReg (mkCap 1 0 0 64 0 0)) { size := 8, wr := true, pol := some ⟨false, 0⟩ } 0 = some 4
    ∧ failsAt (.stc z ⟨false, 0⟩ (p 7) (r 4) 0) (capReg (mkCap 3 0 0 64 0 0))
        { size := 16, wr := true, pol := some ⟨false, 0⟩, noCtrl := true, extra := stcChecks (capReg (panelCap 0)) } 0 = some 5
    ∧ failsAt (.ld z .b64 ⟨true, 3⟩ (.c 9) (p 7) 0) (capReg (localCap 0)) { size := 8, rd := true, pol := some ⟨true, 3⟩ } 0 = some 6
    ∧ failsAt (.lde z (.c 9) (p 7) 0) (capReg (panelCap 0)) { size := 8, rd := true, localOnly := true } 0 = some 2 := by decide
/-- GROUP of a group that the launch has not. -/
theorem witness_no_group : failsAt (.ld z .b64 ⟨false, 0⟩ (.c 9) (p 7) 0) (capReg (mkCap 0b11111011 1 0 64 0 (2 ^ 28)))
      { size := 8, rd := true, pol := some ⟨false, 0⟩ } 0 = none
    ∧ capSpace (mkCap 0b11111011 1 0 64 0 (2 ^ 28)) = 1 ∧ (match base.groupAt 1 with | .bad d => d == 1 | _ => false) = true := by decide
/-- Accesses of 16 bytes that are waited for, at the head of their channel, whole and with one word behind them. -/
theorem witness_word_heads : ∀ a ∈ [Act.load .w7 (.c 9), .loadRest (.c 9) true 5, .store 16 77],
    let m := msg0 a (.sp ⟨1, 0⟩ 0)
    let s := posted (.bank ⟨1, 0⟩ 0) m
    s.chan (chan0 (.bank ⟨1, 0⟩ 0)) = [m] ∧ m.also = none ∧ s.canPerform (.bank ⟨1, 0⟩ 0) = true ∧ (s.deadAt m).isNone = true
      ∧ (s.headArrives (chan0 (.bank ⟨1, 0⟩ 0))).1 = true ∧ m.chk = false ∧ s.waitsFor me0 m.id = false := by decide
/-- OSEND's source on its way to the port of its die from a tile that is none, and from an attachment. -/
def porting (tile : Nat) : State :=
  withG (fun g => { g with place := some ⟨0, tile⟩, st := g.st.set 0 { strand0 with run := .parked .portCopy } })
/-- The bulk pool of the router of tile 16 is full. -/
def crowded : State :=
  let w : Trail := { legs := [.mesh 0 16 65 false], spot := some ⟨0, 16, 0, false⟩ }
  { porting 16 with
    rets := List.replicate 100 { ret0 none none 1 with trail := w }
    blocks := List.replicate 10 { uid := 1, who := me0, seq := 3, dst := ⟨1, 0⟩, off := 0, bar := 64, bytes := [], ordered := false, die := 1
                                  clock := [], coming := true, trail := w } }
theorem witness_port_way : ((porting 16).goOn .bulk unitFlits ((porting 16).portWay (porting 16).g 0)).legs = []
    ∧ ((porting (attachment [] 16)).goOn .bulk unitFlits ((porting (attachment [] 16)).portWay (porting (attachment [] 16)).g 0)).legs = []
    ∧ (crowded.goOn .bulk unitFlits (crowded.portWay crowded.g 0)).legs ≠ [] ∧ (crowded.g.st[0]).run = .parked .portCopy := by
  decide +kernel
/-- An uncorrectable word in the source of an OSEND. -/
theorem witness_bad_source : (withG (fun g => { g with badWords := [3] })).g.badFrom 0 64 = some 3
    ∧ base.g.badFrom 0 64 = none := by decide
/-- The 65th child; a FORK of a deterministic launch with room. -/
theorem witness_fork_limits : (let i : Instr := .fork z 1 (p 1) (p 3) 5
      let s := withSt (fun t => { t with nchild := 64 })
      needs i = some (needsOf i) ∧ (needsOf i).o.konly = false ∧ s.st.guard z = true ∧ s.st.consumed = false ∧ s.st.nchild = 64)
    ∧ (let i : Instr := .fork z 1 (p 1) (p 3) 5
       let s : State := { queue 63 with launches := [{ launch0 with det := true }] }
       Instr.readyIn i s = true ∧ s.det = true ∧ (s.forkTarget ((s.st.path <<< 6) ||| BitVec.ofNat 64 s.st.nchild)).deque.length = 63
         ∧ (((needsOf i).after s).fenceRun ((needsOf i).after s).stealScope .rel s.st.tmask 0).1 = true) :=
  ⟨⟨rfl, by decide, by decide, by decide, by decide⟩, by decide⟩
/-- A launch with a dependent one that has not started. -/
theorem witness_dependents : let s : State := { base with launches := [launch0, { launch0 with num := 2, tnum := 2, after := some 1, started := false }] }
    s.launches.map (fun x => (x.num, x.after, x.started, x.status)) = [(1, none, true, none), (2, some 1, false, none)]
      ∧ (s.launch? 2).map (·.num) = some 2 ∧ (s.launch? 1).map (·.status) = some none := by decide
/-- A refusal by the group that the thief has asked. -/
theorem witness_steal_refused : let e : Steal := ⟨⟨1, 0⟩, ⟨1, 1⟩, none⟩
    let s : State := { thief with steals := [e] }
    let l := { launch0 with groups := 2 }
    (s.steals.find? (fun e => e.thief == ⟨1, 0⟩)) = some e ∧ (s.victims l s.g)[s.g.stealAt % max 1 (s.victims l s.g).length]? = some e.victim
      ∧ l.cancelling = false ∧ s.g.store.all (fun y => !y.returns) = true := by decide

/-! ### Hypotheses met: pools, points, drains, the debugger -/

/-- Handles without LD, without ST, of another tenant's pool, and of a pool with no shard on the die. -/
theorem witness_handle_rights : capLD (mkCap 2 6 0 0 0 1) = false ∧ capST (mkCap 2 6 0 0 0 1) = true ∧ capSpace (mkCap 2 6 0 0 0 1) = 6
    ∧ capST (mkCap 1 6 0 0 0 1) = false ∧ capLD (mkCap 1 6 0 0 0 1) = true ∧ capSpace (mkCap 1 6 0 0 0 1) = 6
    ∧ (∀ x ∈ [capReg (mkCap 2 6 0 0 0 1), capReg (mkCap 1 6 0 0 0 1)],
        Instr.readyIn (.pput z (p 7) (r 1)) (withC 7 x) = true ∧ Instr.readyIn (.pbound z (.c 9) (p 7)) (withC 7 x) = true)
    ∧ (let s : State := { sett id with pools := [{ pool0 [shard0 0 [] none] with tenant := 2 }] }
       Instr.readyIn (.pput z (p 7) (r 1)) s = true ∧ (s.pool? 1).map (·.tenant) = some 2 ∧ s.myTenant = 1)
    ∧ (let s : State := { sett id with pools := [pool0 [shard0 1 [] none]] }
       Instr.readyIn (.pput z (p 7) (r 1)) s = true ∧ ((s.pool? 1).bind (fun p => p.shard? s.g.die)).isNone = true) := by decide
/-- Takes that come by the end of their window, with the rounds by then: home, and at another shard that has an element for it. -/
theorem witness_takes_come : (let f : TakeFly := ⟨take0 0, 1, 0, true, 0⟩
      let s : State := { exchange true with takes := [f] }
      s.takes[0]? = some f ∧ ((roundsBy { s with takes := s.takes.eraseIdx 0 } (115 * Config.nsTicks)).shard? 1 0).isSome = true)
    ∧ (let f : TakeFly := ⟨take0 0, 0, 1, false, 0⟩
       let s : State := { exchange true with takes := [f], pools := [pool0 [shard0 0 [elem0 4] none, shard0 1 [elem0 7] (some 7)]] }
       let u := roundsBy { s with takes := s.takes.eraseIdx 0 } (115 * Config.nsTicks)
       f.dst ≠ f.take.origin ∧ ((u.pool? 1).bind (fun p => (u.shard? 1 1).map (fun h => (h.candidate p.last p.ageMax (u.poolDet p)).isSome))) = some true)
    ∧ ((exchange false).shard? 1 0).map (fun x => (x.missed, x.seen)) = some ([], []) := by decide +kernel
/-- A wave that ends the instant of a launch with points, its group saved. -/
theorem witness_point_falls : let s := pointing .saved none
    ((s.launch? 1).map (fun l => (l.num, l.status, l.wave, s.pointDue l (wave0 0)))) = some (1, none, some (wave0 0), true)
      ∧ s.noStops 1 = true ∧ s.chans = [] ∧ (∀ v ∈ launch0.dies, (s.region (s.regionOf v)).draining = false)
      ∧ s.dies.all (fun d => d.lines.isEmpty) = true ∧ s.g.state = .saved := by decide
/-- A launch that goes back to a point with nothing written since; errors of it, and of no launch. -/
theorem witness_rolls_back : (rolling.launch? 1).map (fun l => (l.num, l.status, l.recov, l.points)) = some (1, none, true, 1)
    ∧ (rolling.launch? 1).map (fun l => (l.undo.isEmpty, l.kids.isEmpty)) = some (true, true) ∧ point0.entries.isEmpty = true ∧ rolling.dies.all (fun d => d.lines.isEmpty) = true
    ∧ errorLaunch (.unit me0) = 1 ∧ errorLaunch (.part (.link 3)) = 0 ∧ (base.launch? 0).isNone = true := by decide
/-- A launch whose share of the escrow is full, and whose group is saved. -/
theorem witness_drain_commits : let s : State := { withL (fun _ => full0) with g := { (withL (fun _ => full0)).g with state := .saved } }
    s.escrowFull full0 = true ∧ s.launch? 1 = some full0 ∧ s.noStops 1 = true ∧ s.chans = []
      ∧ s.dies.all (fun d => d.lines.isEmpty) = true ∧ s.others = [] ∧ s.g.state = .saved := by
  refine ⟨?_, by rfl, by rfl, by rfl, by decide, by rfl, by rfl⟩
  simp [State.escrowFull, Launch.pointed, withL, full0, launch0]
/-- CKPT of a launch with points and of one without. -/
theorem witness_ckpt_writes : ∀ b ∈ [true, false], let s := withL (fun l => { l with recov := b })
    Instr.readyIn (.ckpt z (.c 9)) s = true ∧ (s.myLaunch.map (fun l => (l.num, l.status, l.recov))) = some (1, none, b)
      ∧ (s.st.c[9]).stream = false := by decide
/-- BRK of a launch that is debugged, and of one that is not. -/
theorem witness_brk : ∀ b ∈ [true, false], Instr.readyIn (.brk z 9) (withL (fun l => { l with debugged := b })) = true
    ∧ ((withL (fun l => { l with debugged := b })).myLaunch.map (·.debugged)).getD false = b := by decide
/-- A part with 3 lasting faults, and one with a single error. -/
def wornPart (n : Nat) : State :=
  { quiet with g := { quiet.g with state := .retired, place := none }, launches := [{ launch0 with status := some 0 }]
               dev := { quiet.dev with faults := List.replicate n ⟨.tile 0 11 11, 0, true⟩ } }
theorem witness_worn : (wornPart 3).worn (.tile 0 11 11) = true ∧ (wornPart 3).partIn 0 (.tile 0 11 11) = true
    ∧ lastingOf (wornPart 2) (.tile 0 11 11) = 2 ∧ correctedOf (wornPart 2) (.tile 0 11 11) = 0 ∧ (wornPart 3).onRegion 0 = []
    ∧ ((wornPart 3).region 0).draining = false ∧ ((wornPart 3).region 0).drainAt = none := by decide
/-- ndbg with the prompt and without; an element in its record of streams. -/
theorem witness_running : (debugging true (some 1)).dbg.running = false
    ∧ ({ debugging true (some 1) with dbg := { (debugging true (some 1)).dbg with running := true } } : State).dbg.running = true
    ∧ (let s : State := { debugging true (some 1) with dbg := { (debugging true (some 1)).dbg with streamLog := [.entered 9 1 0 0] } }
       s.dbg.streamRec = some 0 ∧ s.dbg.streamLog[0]? = some (.entered 9 1 0 0)) := by decide
/-- An optical core in use: OSLOT has a die to tell of. -/
theorem witness_oslot_up : let s : State := { base with dev := { base.dev with stage := 3 } }
    Instr.readyIn (.oslot z (.c 9)) s = true ∧ (s.die? s.g.die).isSome = true ∧ s.det = false := by decide
/-- A packet that meets a header error. -/
theorem witness_packets : (mailed false true false).packets.length = 2
    ∧ (posted (.bank ⟨1, 0⟩ 0) (msg0 .probe (.sp ⟨1, 0⟩ 0))).packets.length = 1 := by decide
/-- A message that the strand has had outstanding for MSGTIM cycles. -/
theorem witness_msglost : let s : State := { owing 2 with now := 0x400000 * Config.cycleTicks }
    (s.strand? me0).map (fun t => (t.outstanding.find? (fun o => o.seq == 1)).map (fun o => s.g.msgtim ≤ o.counted + ((o.since.map (fun f => (s.now - f) / s.cycOf s.g)).getD 0)))
      = some (some True) ∨ s.g.msgtim ≤ (s.now - 0) / s.cycOf s.g := by
  exact .inr (by decide)

end Sys2Proof.Tests
end

/-! PROOFS. The start of the module: power-good, stages 1 to 3, the signed measurements and the state at reset
(R30, R437 to R442, R455). -/

namespace Sys2Proof.Machine

/-! ### The arms of the start -/

theorem exec_powerGood : ∀ s : State, exec .powerGood s = execPowerGood s := by intros; rfl
theorem exec_stage1 : ∀ s : State, exec .stage1 s = execStage1 s := by intros; rfl
theorem exec_regionJoin : ∀ (k : Nat) (passes : Bool) (s : State),
    exec (.regionJoin k passes) s = execRegionJoin k passes s := by intros; rfl
theorem exec_stage3 : ∀ s : State, exec .stage3 s = execStage3 s := by intros; rfl
theorem exec_spdmMeasurement : ∀ (tn k : Nat) (s : State),
    exec (.spdmMeasurement tn k) s = execSpdmMeasurement tn k s := by intros; rfl

/-! ### Stage 0 -/

/-- The image that stage 0 accepts is no older than the rollback counter (R438). -/
theorem Device.rollbackCounter_le_of_accept {d : Device} {fresh k : Nat} (h : d.accept fresh = some k) :
    d.rollbackCounter ≤ if k = 0 then d.slot0 else d.slot1 := by
  unfold Device.accept at h
  split at h
  next h0 =>
    obtain rfl : 0 = k := Option.some.inj h
    simpa using (Bool.and_eq_true_iff.mp h0).2
  next =>
    split at h
    next h1 =>
      obtain rfl : 1 = k := Option.some.inj h
      simpa using (Bool.and_eq_true_iff.mp h1).2
    next => cases h

/-! ### A region that joins -/

theorem State.region_modRegion_self (s : State) (k : Nat) (f : Region → Region) :
    (s.modRegion k f).region k = f (s.region k) := by
  simp [State.region, State.modRegion]

theorem bit_or_shiftLeft_self (x : BitVec 16) (k : Nat) (hk : k < 16) : (x ||| 1#16 <<< k).getLsbD k = true := by
  simp [hk]

theorem State.join_stage (s : State) (k : Nat) : (s.join k).dev.stage = s.dev.stage := rfl
theorem State.join_live (s : State) (k : Nat) : (s.join k).dev.live = s.dev.live ||| 1#16 <<< k := rfl
theorem State.join_reduced (s : State) (k : Nat) : (s.join k).dev.reduced = s.dev.reduced ||| 1#16 <<< k := rfl
theorem State.join_region (s : State) (k : Nat) : (s.join k).region k = { reduced := true } :=
  s.region_modRegion_self k (fun _ => { reduced := true })

/-- A join brings dies up in their place: what a new die has as its old one, the list keeps. -/
theorem State.join_dies_map {α : Type} (s : State) (k : Nat) (f : Die → α)
    (hf : ∀ d : Die, ∀ b : Bool, f { s.dev.newDie d.v d.phys with live := b } = f d) :
    (s.join k).dies.map f = s.dies.map f := by
  simp only [State.join, List.map_map]
  refine List.map_congr_left fun d _ => ?_
  simp only [Function.comp_apply]
  split
  · exact hf d _
  · rfl

theorem joined_join (s : State) (k : Nat) (hk : k < 16) : Claims.joined (s.join k) k := by
  refine ⟨?_, ?_, ?_⟩
  · rw [State.join_live]; exact bit_or_shiftLeft_self _ k hk
  · rw [State.join_reduced]; exact bit_or_shiftLeft_self _ k hk
  · rw [State.join_region]

/-! ### Stages 1 to 3 -/

/-- Stage 1 of an accepted image: the live dies of the map take their virtual numbers in order, and region 0 joins. -/
theorem exec_stage1_of_accepted (s : State) (hp : s.dev.powered = true) (ha : s.dev.accepted ≠ none) (h0 : s.dev.stage = 0) :
    ∃ u : State, exec .stage1 s = .next (u.join 0) ∧ u.dev.stage = 1
      ∧ u.dies = (List.range s.dev.goodDies.length).map (fun v => s.dev.newDie v (s.dev.goodDies.getD v 0)) := by
  have hguard : (!s.dev.powered || s.dev.accepted.isNone || s.dev.stage != 0) = false := by
    simp [hp, h0, Option.isSome_iff_ne_none.mpr ha]
  exact ⟨_, by rw [exec_stage1, execStage1, hguard]; rfl, rfl, rfl⟩

/-- The turn of region k, when each below it has joined or failed: in stage 2 it joins, or is marked failed. -/
theorem exec_regionJoin_in_turn (s : State) (k : Nat) (passes : Bool) (hk : k < 16) (hs : s.dev.stage = 1 ∨ s.dev.stage = 2)
    (hl : s.dev.live.getLsbD k = false) (hf : s.dev.failed.getLsbD k = false)
    (hb : ∀ j, j < k → s.dev.live.getLsbD j = true ∨ s.dev.failed.getLsbD j = true) :
    ∃ u : State, u.dev = { s.dev with stage := 2 } ∧ exec (.regionJoin k passes) s = .next (if passes then u.join k
      else { u.modRegion k (fun _ => {}) with dev := { u.dev with failed := u.dev.failed ||| 1#16 <<< k } }) := by
  have hall : (List.range k).all (fun j => s.dev.live.getLsbD j || s.dev.failed.getLsbD j) = true := by
    simpa using hb
  have hstage : (s.dev.stage == 1 || s.dev.stage == 2) = true := by simpa using hs
  have hin : ¬ 16 ≤ k := by omega
  rw [exec_regionJoin, execRegionJoin]
  simp only [hall, hstage, hin, hl, hf]
  refine ⟨_, ?_, rfl⟩
  split <;> rfl

/-- Once every region has joined or failed, stage 3 ends the reduced clock of each and calibrates every die. -/
theorem exec_stage3_of_tried (s : State) (h2 : s.dev.stage = 2) (ht : s.dev.live ||| s.dev.failed = BitVec.allOnes 16) :
    exec .stage3 s = .next { s with
      dev := { s.dev with stage := 3, reduced := 0 }
      regions := s.regions.map (fun r => { r with reduced := false })
      dies := s.dies.map (fun d => { d with cal := true, plup := 15 }) } := by
  simp [exec_stage3, execStage3, h2, ht]

end Sys2Proof.Machine

namespace Sys2Proof.Claims
open Sys2Proof.Machine

theorem powerGoodStartsAnew : PowerGoodStartsAnew := by
  intro s
  refine ⟨_, exec_powerGood s, ⟨rfl, rfl⟩, ?_, ?_, rfl, rfl, rfl, rfl, rfl, rfl, rfl, rfl, rfl, rfl, rfl, rfl, rfl, rfl, rfl, ?_⟩
  · simp only [Option.isNone_iff_eq_none]
  · exact fun q hq => List.mem_append_left _ hq
  · exact fun k hk => Device.rollbackCounter_le_of_accept (d := s.dev.stored) hk

theorem stage1BringsUpRegion0 (s : State) (hp : s.dev.powered = true) (ha : s.dev.accepted ≠ none) (h0 : s.dev.stage = 0) :
    ∃ t : State, exec .stage1 s = .next t ∧ t.dev.stage = 1 ∧ joined t 0 ∧ t.dies.map (·.phys) = s.dev.goodDies
      ∧ t.dies.map (·.v) = List.range s.dev.goodDies.length := by
  obtain ⟨u, hexec, hstage, hdies⟩ := exec_stage1_of_accepted s hp ha h0
  refine ⟨_, hexec, hstage, joined_join u 0 (by decide), ?_, ?_⟩
  · rw [u.join_dies_map 0 (·.phys) (fun _ _ => rfl), hdies, List.map_map]
    exact List.ext_getElem (by simp) (by simp +contextual [Device.newDie])
  · rw [u.join_dies_map 0 (·.v) (fun _ _ => rfl), hdies, List.map_map]
    exact List.map_id _

theorem stagesFollow : StagesFollow := by
  intro s
  refine ⟨stage1BringsUpRegion0 s, fun k hk hs hl hf hb => ⟨?_, ?_⟩, fun h2 ht => ?_⟩
  · obtain ⟨u, hdev, hexec⟩ := exec_regionJoin_in_turn s k true hk hs hl hf hb
    exact ⟨_, hexec, by rw [if_pos rfl, State.join_stage, hdev], joined_join u k hk⟩
  · obtain ⟨u, hdev, hexec⟩ := exec_regionJoin_in_turn s k false hk hs hl hf hb
    exact ⟨_, hexec, by simp [hdev], bit_or_shiftLeft_self _ k hk, by simp [hdev]⟩
  · refine ⟨_, exec_stage3_of_tried s h2 ht, rfl, rfl, fun k => ?_, fun d hd => ?_⟩
    · simp [State.region]
    · obtain ⟨_, _, rfl⟩ := List.mem_map.mp hd
      rfl

theorem measurementsAreSigned : MeasurementsAreSigned := by
  intro s tn k hp h1 h5 htn
  have hguard : ¬ (!s.dev.powered || k < 1 || 5 < k || (k = 5 && (s.tenant? tn).isNone)) = true := by
    have hk : ¬ k < 1 := by omega
    simpa [hp, hk, h5, Option.isSome_iff_ne_none] using htn
  refine ⟨_, _, _, _, (exec_spdmMeasurement tn k s).trans (congrArg Host.Outcome.next (if_neg hguard)), rfl, ?_, ?_, ?_⟩
  · rintro rfl; rfl
  · rintro rfl ha; simp [ha]
  · rintro rfl ha; simp [ha]

theorem nothingRunsAtReset : NothingRunsAtReset :=
  ⟨rfl, rfl, rfl, rfl, rfl, rfl, rfl, rfl, rfl, rfl, rfl, fun _ => rfl⟩

theorem memoryInvAtReset : MemoryInvAtReset :=
  ⟨⟨Memory.reset_wf, rfl, List.forall_mem_nil _⟩, List.forall_mem_nil _, List.forall_mem_nil _⟩

end Sys2Proof.Claims

/-- Settles O46: each move of the start by the equation of its arm, and a region's join by what `State.join` gives. -/
theorem theModuleComesUp : Obligations.TheModuleComesUp :=
  ⟨Sys2Proof.Claims.powerGoodStartsAnew, Sys2Proof.Claims.stagesFollow, Sys2Proof.Claims.measurementsAreSigned⟩

/-- Settles O58, by evaluation of the fields of the state at reset. -/
theorem resetIsQuietAndInOrder : Obligations.ResetIsQuietAndInOrder :=
  ⟨Sys2Proof.Claims.nothingRunsAtReset, Sys2Proof.Claims.memoryInvAtReset⟩

/-! PROOFS. The tools and the debugger's records: what the control die stores at the homes, the translation of an object's
pages, RUN, NDBG, the printed records, NDAS and NDLD (R65, R72, R73, R88, R230, R457, R461 to R465). -/

namespace Sys2Proof.Machine

/-! ### Lists with keys -/

section KeyedLists
variable {α β : Type} [DecidableEq α]

theorem lookD_cons (x : α × β) (l : List (α × β)) (k : α) (d : β) :
    lookD (x :: l) k d = if k = x.1 then x.2 else lookD l k d := by
  obtain ⟨k', v⟩ := x
  by_cases h : k = k'
  · simp [lookD, h]
  · simp [lookD, List.lookup_cons, beq_eq_false_iff_ne.mpr h, h]

theorem lookD_insertKey (k k₀ : α) (v d : β) (l : List (α × β)) :
    lookD (insertKey l k v) k₀ d = if k₀ = k then v else lookD l k₀ d := by
  induction l with
  | nil => exact lookD_cons (k, v) [] k₀ d
  | cons x r ih =>
    by_cases h : x.1 = k
    · by_cases h0 : k₀ = k <;> simp [insertKey, lookD_cons, h, h0]
    · by_cases h0 : k₀ = x.1 <;> simp [insertKey, lookD_cons, h, ih, h0]

theorem lookD_filter_ne (k k₀ : α) (d : β) (l : List (α × β)) :
    lookD (l.filter (fun x => x.1 != k)) k₀ d = if k₀ = k then d else lookD l k₀ d := by
  induction l with
  | nil => simp [lookD]
  | cons x r ih =>
    by_cases h : x.1 = k
    · rw [List.filter_cons_of_neg (by simp [h]), ih, lookD_cons, h]
      split <;> rfl
    · by_cases h0 : k₀ = x.1 <;> simp [lookD_cons, h, ih, h0]

end KeyedLists

/-! ### Channels -/

@[simp] theorem State.setChan_mem (s : State) (c : ChanId) (l : List Msg) : (s.setChan c l).mem = s.mem := by
  unfold State.setChan; split <;> rfl

theorem State.chan_setChan (s : State) (c c₀ : ChanId) (l : List Msg) :
    (s.setChan c l).chan c₀ = if c₀ = c then l else s.chan c₀ := by
  cases l with
  | nil => exact lookD_filter_ne c c₀ [] s.chans
  | cons m r => exact lookD_insertKey c c₀ (m :: r) [] s.chans

/-- A packet on its way changes only what the dies know of their meshes and send queues. -/
theorem State.carry_eq (s : State) (t : Trail) (c : MeshClass) (n : Nat) (key : MsgKey) (body : OmcLoad) :
    ∃ ds, (s.carry t c n key body).2 = { s with dies := ds } := by
  have hcarried : ∀ u, ∃ ds, s.carried t u = { s with dies := ds } := fun u => by
    unfold State.carried; split
    · exact ⟨s.dies, rfl⟩
    · exact ⟨_, rfl⟩
  obtain ⟨ds, hds⟩ := hcarried (s.goOn c n t)
  simp only [State.carry, hds, State.joinPort]
  split
  · exact ⟨_, rfl⟩
  · exact ⟨ds, rfl⟩

@[simp] theorem State.goMsg_mem (s : State) (c : ChanId) (m : Msg) : (s.goMsg c m).2.mem = s.mem := by
  obtain ⟨ds, hds⟩ := s.carry_eq m.trail m.act.meshClass m.act.flits m.key (.access c m.id)
  rw [State.goMsg, hds]

@[simp] theorem State.goMsg_chan (s : State) (c c₀ : ChanId) (m : Msg) : (s.goMsg c m).2.chan c₀ = s.chan c₀ := by
  obtain ⟨ds, hds⟩ := s.carry_eq m.trail m.act.meshClass m.act.flits m.key (.access c m.id)
  rw [State.goMsg, hds]; rfl

@[simp] theorem State.enter_mem (s : State) (c : ChanId) (m : Msg) : (s.enter c m).mem = s.mem := by
  simp [State.enter, State.enterBy]

/-- A message that enters stands last in its channel, with its way. -/
theorem State.chan_enter (s : State) (c : ChanId) (m : Msg) : ∃ t, ∀ c₀,
    (s.enter c m).chan c₀ = if c₀ = c then s.chan c ++ [{ m with trail := t }] else s.chan c₀ := by
  simp only [State.enter, State.enterBy, State.chan_setChan, State.goMsg_chan]
  exact ⟨_, fun _ => rfl⟩

/-! ### What the control die stores at the memory homes (R230, R232) -/

/-- The home of an address lies on a memory die, at a module port or on the control die (R208 to R211). -/
theorem keyHome_cases (k : Nat) :
    (∃ d b, keyHome k = .mem d b) ∨ (∃ q, keyHome k = .modPort q) ∨ keyHome k = .control := by
  unfold keyHome
  split
  · exact .inl ⟨_, _, rfl⟩
  · split
    · exact .inr (.inl ⟨_, rfl⟩)
    · exact .inr (.inr rfl)

theorem State.canPerform_keyHome (s : State) (k : Nat) : s.canPerform (keyHome k) = true := by
  obtain ⟨d, b, h⟩ | ⟨q, h⟩ | h := keyHome_cases k <;> rw [h] <;> rfl

/-- A message that puts bytes at an address of memory, in one piece and for no strand. -/
structure Msg.Puts (m : Msg) (k : Nat) (bs : List Byte) : Prop where
  who : m.who = none
  act : m.act = .put bs
  target : m.target = .mem k
  also : m.also = none

/-- A put of no strand at the home of its address writes its bytes there, and no channel changes. -/
theorem State.performMsg_put (s : State) {k : Nat} {m : Msg} {bs : List Byte} (hm : m.Puts k bs) :
    (s.performMsg (keyHome k) m).mem = s.mem.writes k bs ∧ (s.performMsg (keyHome k) m).chans = s.chans := by
  obtain ⟨hwho, hact, ht, -⟩ := hm
  obtain ⟨d, b, h⟩ | ⟨q, h⟩ | h := keyHome_cases k <;> rw [h] <;>
    simp [State.performMsg, State.prepare, State.homeWrite, State.logWrite, State.writeMem, hwho, hact, ht]

/-- A put that is alone in its channel is taken from it and performed. -/
theorem State.performHead_put (s : State) {k : Nat} {a : Agent} {m : Msg} {bs : List Byte} (hc : s.chan ⟨a, keyHome k⟩ = [m])
    (hm : m.Puts k bs) : s.performHead ⟨a, keyHome k⟩ = (s.setChan ⟨a, keyHome k⟩ []).performMsg (keyHome k) m := by
  have hread : s.readAfter ⟨a, keyHome k⟩ m = none := by unfold State.readAfter; simp [hm.act]
  simp [State.performHead, hc, hm.act, Msg.otherHome, hm.also, hread, s.canPerform_keyHome k]

/-- A channel that holds one put alone is drained: the bytes are written and no other channel has changed. -/
theorem State.drainTo_put (s : State) (n : Nat) {k : Nat} {a : Agent} {m : Msg} {bs : List Byte}
    (hc : s.chan ⟨a, keyHome k⟩ = [m]) (hm : m.Puts k bs) :
    (State.drainTo (n + 1) ⟨a, keyHome k⟩ none s).mem = s.mem.writes k bs
      ∧ ∀ c₀, (State.drainTo (n + 1) ⟨a, keyHome k⟩ none s).chan c₀ = if c₀ = ⟨a, keyHome k⟩ then [] else s.chan c₀ := by
  obtain ⟨hmem, hchans⟩ := (s.setChan ⟨a, keyHome k⟩ []).performMsg_put hm
  rw [← s.performHead_put hc hm] at hmem hchans
  have hchan : ∀ c₀, (s.performHead ⟨a, keyHome k⟩).chan c₀ = if c₀ = ⟨a, keyHome k⟩ then [] else s.chan c₀ := fun c₀ => by
    rw [State.chan, hchans]; exact s.chan_setChan _ c₀ []
  have hone : State.drainTo (n + 1) ⟨a, keyHome k⟩ none s
      = State.drainTo n ⟨a, keyHome k⟩ none (s.performHead ⟨a, keyHome k⟩) := by
    simp [State.drainTo, hc, hm.act, Msg.otherHome, hm.also]
  have hdone : State.drainTo n ⟨a, keyHome k⟩ none (s.performHead ⟨a, keyHome k⟩) = s.performHead ⟨a, keyHome k⟩ := by
    cases n <;> simp [State.drainTo, hchan]
  rw [hone, hdone]
  exact ⟨by rw [hmem, setChan_mem], hchan⟩

/-- With nothing of the control die before a home, what it puts there is written at once, and nothing of it waits. -/
theorem State.agentPut_control (s : State) (hs : Claims.controlIdle s) (k : Nat) (bs : List Byte) :
    (s.agentPut .control (keyHome k) (.mem k) bs none).mem = s.mem.writes k bs
      ∧ Claims.controlIdle (s.agentPut .control (keyHome k) (.mem k) bs none) := by
  let m : Msg := { id := s.nextId, who := none, act := .put bs, target := .mem k }
  obtain ⟨t, hchan⟩ := s.newId.2.chan_enter ⟨.control, keyHome k⟩ m
  have humem : (s.newId.2.enter ⟨.control, keyHome k⟩ m).mem = s.mem := State.enter_mem ..
  have hput : s.agentPut .control (keyHome k) (.mem k) bs none = State.drainTo
      (s.newId.2.enter ⟨.control, keyHome k⟩ m).chanFuel ⟨.control, keyHome k⟩ none (s.newId.2.enter ⟨.control, keyHome k⟩ m) := rfl
  have hidle : ∀ h, s.newId.2.chan ⟨.control, h⟩ = [] := hs
  generalize s.newId.2.enter ⟨.control, keyHome k⟩ m = u at hchan humem hput
  have halone : u.chan ⟨.control, keyHome k⟩ = [{ m with trail := t }] := by rw [hchan, if_pos rfl, hidle]; rfl
  obtain ⟨hmem, hdrained⟩ := u.drainTo_put (2 * (u.chans.map (fun c => c.2.length)).sum) (bs := bs) halone ⟨rfl, rfl, rfl, rfl⟩
  rw [hput, State.chanFuel]
  refine ⟨by rw [hmem, humem], fun h => ?_⟩
  by_cases hh : (⟨.control, h⟩ : ChanId) = ⟨.control, keyHome k⟩
  · rw [hdrained, if_pos hh]
  · rw [hdrained, if_neg hh, hchan, if_neg hh, hidle]

/-! ### Bytes at a list of addresses -/

/-- Memory with a byte written at each of some addresses, in order. -/
def Memory.scatter (m : Memory) (l : List (Nat × Byte)) : Memory := l.foldl (fun m x => m.write x.1 x.2) m

theorem Memory.read_scatter_of_notMem {b : Nat} : ∀ (l : List (Nat × Byte)) (m : Memory), m.wf = true → b ∉ l.map Prod.fst →
    (m.scatter l).read b = m.read b
  | [], _, _, _ => rfl
  | x :: r, m, hwf, hb => by
    obtain ⟨hx, hr⟩ : b ≠ x.1 ∧ b ∉ r.map Prod.fst := by simpa using hb
    calc (m.scatter (x :: r)).read b = (m.write x.1 x.2).read b :=
          Memory.read_scatter_of_notMem r (m.write x.1 x.2) (m.write_wf _ _ hwf) hr
      _ = m.read b := by rw [Memory.read_write m _ _ _ hwf, if_neg hx]

theorem Memory.read_scatter_of_mem {x : Nat × Byte} : ∀ (l : List (Nat × Byte)) (m : Memory), m.wf = true →
    (l.map Prod.fst).Nodup → x ∈ l → (m.scatter l).read x.1 = x.2
  | y :: r, m, hwf, hd, hx => by
    obtain ⟨hy, hr⟩ := List.nodup_cons.mp hd
    have hwf' := m.write_wf y.1 y.2 hwf
    obtain rfl | hx := List.mem_cons.mp hx
    · exact (Memory.read_scatter_of_notMem r _ hwf' hy).trans (by rw [Memory.read_write m _ _ _ hwf, if_pos rfl])
    · exact Memory.read_scatter_of_mem r _ hwf' hr hx

/-- What the control die stores stands at the addresses, byte by byte. -/
theorem State.hostStore_mem (s : State) (hs : Claims.controlIdle s) (ks : List Nat) (bs : List Byte) :
    (s.hostStore ks bs).mem = s.mem.scatter (ks.zip bs) := by
  unfold State.hostStore
  induction ks.zip bs generalizing s with
  | nil => rfl
  | cons x r ih =>
    obtain ⟨hmem, hidle⟩ := s.agentPut_control hs x.1 [x.2]
    rw [List.foldl_cons, ih _ hidle, hmem]
    rfl

theorem State.hostStore_append (s : State) {ks : List Nat} {bs : List Byte} (h : ks.length = bs.length) (js : List Nat)
    (cs : List Byte) : (s.hostStore ks bs).hostStore js cs = s.hostStore (ks ++ js) (bs ++ cs) := by
  simp only [State.hostStore, List.zip_append h, List.foldl_append]

/-- Bytes stored at distinct addresses are read there, and every other address reads as before (R230). -/
theorem State.read_hostStore (s : State) (hwf : s.mem.wf = true) (hs : Claims.controlIdle s) {ks : List Nat} {bs : List Byte}
    (hlen : ks.length = bs.length) (hd : ks.Nodup) :
    (∀ j k, ks[j]? = some k → (s.hostStore ks bs).mem.read k = bs.getD j 0)
      ∧ ∀ b, b ∉ ks → (s.hostStore ks bs).mem.read b = s.mem.read b := by
  rw [s.hostStore_mem hs]
  have hkeys : (ks.zip bs).map Prod.fst = ks := List.map_fst_zip (Nat.le_of_eq hlen)
  refine ⟨fun j k hk => ?_, fun b hb => Memory.read_scatter_of_notMem _ _ hwf (by rwa [hkeys])⟩
  obtain ⟨hj, rfl⟩ := List.getElem?_eq_some_iff.mp hk
  have hj' : j < bs.length := hlen ▸ hj
  have hmem : (ks[j], bs[j]) ∈ ks.zip bs :=
    List.mem_iff_getElem?.mpr
      ⟨j, List.getElem?_zip_eq_some.mpr ⟨List.getElem?_eq_getElem hj, List.getElem?_eq_getElem hj'⟩⟩
  rw [List.getD_eq_getElem?_getD, List.getElem?_eq_getElem hj']
  exact Memory.read_scatter_of_mem _ _ hwf (by rwa [hkeys]) hmem

/-! ### The addresses of an object's pages (R214) -/

theorem State.hostKeys_succ {s : State} {tn sp a : Nat} {rd wr : Bool} {n : Nat} {ks : List Nat}
    (h : s.hostKeys tn sp a rd wr (n + 1) = .ok ks) :
    ∃ l k, s.hostKeys tn sp a rd wr n = .ok l ∧ ks = l ++ [k] := by
  unfold State.hostKeys at h ⊢
  rw [List.range_succ, List.foldl_append, List.foldl_cons, List.foldl_nil] at h
  split at h
  next => cases h
  next l hl =>
    split at h
    next k _ => exact ⟨l, k, hl, (Except.ok.inj h).symm⟩
    next => cases h

/-- One address for each byte. -/
theorem State.hostKeys_length {s : State} {tn sp a : Nat} {rd wr : Bool} : ∀ {n : Nat} {ks : List Nat},
    s.hostKeys tn sp a rd wr n = .ok ks → ks.length = n
  | 0, _, h => by cases h; rfl
  | n + 1, ks, h => by
    obtain ⟨l, k, hl, rfl⟩ := State.hostKeys_succ h
    rw [List.length_append, State.hostKeys_length hl]; rfl

/-! ### The arms of the tools -/

theorem exec_run : ∀ (root : Bool) (s : State), exec (.run root) s = execRun root s := by intros; rfl
theorem exec_ndbgLoad : ∀ (tn n : Nat) (s : State), exec (.ndbgLoad tn n) s = execNdbgLoad tn n s := by intros; rfl
theorem exec_ptracePrint : ∀ (a b : Nat) (s : State), exec (.ptracePrint a b) s = execPtracePrint a b s := by intros; rfl
theorem exec_rounds : ∀ (a b : Nat) (s : State), exec (.rounds a b) s = execRounds a b s := by intros; rfl
theorem exec_streamsPrint : ∀ s : State, exec .streamsPrint s = execStreamsPrint s := by intros; rfl
theorem exec_regions : ∀ s : State, exec .regions s = execRegions s := by intros; rfl
theorem exec_rbarPrint : ∀ (n : Nat) (s : State), exec (.rbarPrint n) s = execRbarPrint n s := by intros; rfl
theorem exec_dmem : ∀ (label : String) (n : Nat) (s : State), exec (.dmem label n) s = execDmem label n s := by intros; rfl
theorem exec_ndas : ∀ (options : List String) (files : UserFiles) (s : State),
    exec (.ndas options files) s = execNdas options files s := by intros; rfl
theorem exec_ndld : ∀ (objects : List Nat) (s : State), exec (.ndld objects) s = execNdld objects s := by intros; rfl

/-! ### At the prompt (R457, R460) -/

theorem State.atPrompt_of_idle {s : State} (h : s.dbg.running = false) (f : State → State) : s.atPrompt f = .next (f s) := by
  simp [State.atPrompt, h]

/-- A command given at the prompt that prints one answer does nothing else. -/
theorem prints_of_atPrompt {i : Instr} {s : State} {f : State → State} {x : Shown} (hi : exec i s = s.atPrompt f)
    (hf : f s = s.print x) : Claims.prints i s x := fun h => by
  rw [hi, State.atPrompt_of_idle h, hf]; rfl

theorem Launch.ite_code (l : Launch) (b : Prop) [Decidable b] (c : Option (List Byte)) :
    (if b then { l with code := c } else l) = { l with code := if b then c else l.code } := by
  split <;> rfl

/-- A launch that is queued stands last, with its tenant, its number, its code, its root and its entry (R340). -/
theorem State.queueLaunch_appends (s : State) (tn : Nat) (d : BitVec 512) (cb cl : Nat) (root : Option (Nat × Nat))
    (sdata : List Byte) (after : Option Nat) (x : Tenant) (hx : s.tenant? tn = some x) :
    ∃ l : Launch, (s.queueLaunch tn d cb cl root sdata after).2.launches = s.launches ++ [l] ∧ l.tenant = tn
      ∧ l.tnum = Claims.numberOf x ∧ l.dataRoot = root ∧ l.sdata = sdata ∧ l.codeBase = cb ∧ l.codeLen = cl
      ∧ l.entry = (d.extractLsb' 0 64).toNat := by
  refine ⟨_, congrArg (fun l => s.launches ++ [l]) (Launch.ite_code _ _ _), rfl, ?_, rfl, rfl, rfl, rfl, rfl⟩
  simp [hx, Claims.numberOf]

/-- RUN of an object that has a descriptor, for a tenant, once stage 1 has come (R457, R461). -/
theorem exec_run_of_object {s : State} {o : Object} {x : Tenant} (root : Bool) (hrun : s.dbg.running = false)
    (ho : s.dbgObject = some o) (hx : s.tenant? s.dbg.tenant = some x) (hstage : 1 ≤ s.dev.stage) (hl : o.launches ≠ []) :
    ∃ b : Debugger, exec (.run root) s = .next { (s.queueLaunch s.dbg.tenant o.descriptor o.textBase o.text.length
      (if root then some (o.dataBase, o.data.length) else none) o.sdata none).2 with dbg := b } := by
  have hguard : ((s.tenant? s.dbg.tenant).isNone || decide (s.dev.stage < 1) || o.launches.isEmpty) = false := by
    simp [hx, hl]; omega
  rw [exec_run, execRun, State.atPrompt_of_idle hrun]
  simp only [ho, hguard]
  exact ⟨_, rfl⟩

/-- An object whose pages translate is stored at their addresses (R457). -/
theorem State.loadObject_of_keys {s : State} {tn : Nat} {o : Object} {ks js : List Nat}
    (hk : s.hostKeys tn Config.codeSpace o.textBase false false o.text.length = .ok ks)
    (hj : s.hostKeys tn 3 o.dataBase false false o.data.length = .ok js) :
    s.loadObject tn o = some (s.hostStore (ks ++ js) (o.text ++ o.data)) := by
  rw [State.loadObject, hk, hj, ← s.hostStore_append (State.hostKeys_length hk)]

/-- NDBG of a linked object whose pages translate: the object is stored, and ndbg attaches to it anew. -/
theorem exec_ndbgLoad_of_linked {s u : State} {tn : Nat} {o : Object} (ho : s.objects.find? (fun x => x.num == o.num) = some o)
    (hlinked : o.linked = true) (hu : s.loadObject tn o = some u) :
    exec (.ndbgLoad tn o.num) s = .next { u with dbg := { tenant := tn, object := o.num } } := by
  simp [exec_ndbgLoad, execNdbgLoad, ho, hlinked, hu]

/-! ### NDAS and NDLD (R64, R65, R72) -/

/-- The state after NDAS has assembled one file, with what it made of it and the names that cannot be written (R65). -/
def State.assembled (s : State) (r : AsmResult) (locked : List String) : State :=
  let objs := r.object.toList.filter (fun o => !locked.contains o.name)
  let shut := objs.length < r.object.toList.length || r.listing.toList.any (fun l => locked.contains l.1)
  { s with
    nextId := s.nextId + 1
    objects := s.objects.filter (fun o => !objs.any (fun q => q.name == o.name)) ++ objs
    tools := s.tools ++ [⟨if shut then 2 else if r.object.isNone then 1 else 0, r.diags,
      r.listing.toList.filter (fun l => !locked.contains l.1)⟩] }

theorem exec_ndas_file (s : State) {name text : String} (locked : List String)
    (hargs : readArgs {} [name] = { sources := [name] }) :
    exec (.ndas [name] ⟨[(name, text)], locked⟩) s
      = .next (s.assembled (({ sources := [name] } : AsmCommand).file [(name, text)] s.nextId name text) locked) := by
  have hfound : [name].filterMap (fun n => ([(name, text)].lookup n).map (fun t => (n, t))) = [(name, text)] := by simp
  have hresult : ∀ c : AsmCommand, [(name, text)].zipIdx.map (fun x => c.file [(name, text)] (s.nextId + x.2) x.1.1 x.1.2)
      = [c.file [(name, text)] s.nextId name text] := fun _ => rfl
  rw [exec_ndas, execNdas, hargs]
  simp only [hfound, hresult]
  generalize AsmCommand.file _ _ _ _ _ = r
  obtain ⟨_ | o, ds, _ | l⟩ := r <;> simp [State.assembled]

/-- NDAS of a file that is not there ends with status 2. -/
theorem exec_ndas_missing (s : State) {name : String} (hargs : readArgs {} [name] = { sources := [name] }) :
    exec (.ndas [name] ⟨[], []⟩) s = .next { s with tools := s.tools ++ [⟨2, [], []⟩] } := by
  rw [exec_ndas, execNdas, hargs]
  simp

/-- The link of one object that succeeds adds what it makes (R72, R73). -/
theorem exec_ndld_linked {s : State} {o q : Object} (ho : s.objects.find? (fun x => x.num == o.num) = some o)
    (hq : linkObjects [o] s.nextId (Config.freeLane s.fresh).toNat = some q) :
    exec (.ndld [o.num]) s = .next { s with
      objects := s.objects ++ [q], nextId := s.nextId + 1, fresh := s.fresh + 1, tools := s.tools ++ [⟨0, [], []⟩] } := by
  simp [exec_ndld, execNdld, ho, hq]

/-- NDLD of an object that is not there ends with status 2. -/
theorem exec_ndld_missing {s : State} {k : Nat} (hk : s.objects.find? (fun x => x.num == k) = none) :
    exec (.ndld [k]) s = .next { s with tools := s.tools ++ [⟨2, [], []⟩] } := by
  have hnone : [k].filterMap (fun n => s.objects.find? (fun o => o.num == n)) = [] := by simpa using hk
  simp [exec_ndld, execNdld, hnone]

end Sys2Proof.Machine

namespace Sys2Proof.Claims
open Sys2Proof.Machine

theorem objectsAreRun : ObjectsAreRun := by
  intro s o ho
  refine ⟨fun root x hrun hobj hx hstage hl => ?_, fun tn ks js hlinked hwf hidle hks hjs hd => ?_⟩
  · have hdbg : s.dbgObject = some o := by rw [State.dbgObject, hobj, ho]
    obtain ⟨b, hexec⟩ := exec_run_of_object root hrun hdbg hx hstage hl
    obtain ⟨l, hadd, hfields⟩ := s.queueLaunch_appends s.dbg.tenant o.descriptor o.textBase o.text.length
      (if root then some (o.dataBase, o.data.length) else none) o.sdata none x hx
    exact ⟨_, l, hexec, hadd, hfields⟩
  · have hk := State.hostKeys_length hks
    have hj := State.hostKeys_length hjs
    obtain ⟨hread, hkeep⟩ := s.read_hostStore hwf hidle (bs := o.text ++ o.data) (by simp [hk, hj]) hd
    refine ⟨_, exec_ndbgLoad_of_linked ho hlinked (State.loadObject_of_keys hks hjs), rfl, fun j k hjk => ?_, fun j k hjk => ?_, hkeep⟩
    · have hlt : j < ks.length := (List.getElem?_eq_some_iff.mp hjk).1
      rw [hread j k (by rw [List.getElem?_append_left hlt, hjk]), List.getD_eq_getElem?_getD, List.getD_eq_getElem?_getD,
        List.getElem?_append_left (hk ▸ hlt)]
    · have hat : (ks ++ js)[ks.length + j]? = some k := by
        rw [List.getElem?_append_right (Nat.le_add_right ..), Nat.add_sub_cancel_left, hjk]
      rw [hread _ k hat, List.getD_eq_getElem?_getD, List.getD_eq_getElem?_getD, hk,
        List.getElem?_append_right (Nat.le_add_right ..), Nat.add_sub_cancel_left]

theorem recordsArePrinted : RecordsArePrinted := by
  intro s
  refine ⟨fun a b => ?_, fun a b => ?_, fun g hg => ?_, fun l hl => ⟨?_, fun n => ?_⟩, fun o l y n ks ho hl hend hy hks => ?_⟩
  · exact ⟨_, prints_of_atPrompt (exec_ptracePrint a b s) rfl, fun x => by simp⟩
  · exact ⟨_, prints_of_atPrompt (exec_rounds a b s) rfl, fun x => by simp⟩
  · refine ⟨_, prints_of_atPrompt (exec_streamsPrint s) (by simp only [hg]; rfl), by simp, fun k t num elem tile hk => ?_⟩
    simp [hk, StreamNote.since, State.dbgStart]
  · refine ⟨_, prints_of_atPrompt (exec_regions s) (by simp only [hl]; rfl), by simp, fun k x hk => ?_⟩
    obtain ⟨hk, rfl⟩ := List.getElem?_eq_some_iff.mp hk
    simp [State.regionRow]
  · exact ⟨_, _, prints_of_atPrompt (exec_rbarPrint n s) (by simp only [hl]; rfl), by simp⟩
  · have hhalt : (l.status.isNone && !s.allHalted) = false := by
      rcases hend with h | h <;> simp [h]
    refine ⟨_, prints_of_atPrompt (exec_dmem y.name n s) (by simp only [ho, hl, hy, hhalt, hks]; rfl), by simp, fun k x hk => ?_⟩
    obtain ⟨hk, rfl⟩ := List.getElem?_eq_some_iff.mp hk
    simp

theorem toolsEndWithAStatus : ToolsEndWithAStatus := by
  intro s
  refine ⟨fun name text r hr hargs => ?_, fun name text r o hr hargs ho => ?_, fun name hargs => ?_, fun o q ho hq => ?_,
    fun k hk => ?_⟩
  · subst hr
    refine ⟨_, exec_ndas_file s [] hargs, ?_, fun o ho => ?_, rfl, rfl⟩
    · simp [State.assembled]
    · simp [State.assembled, ho]
  · subst hr
    refine ⟨_, exec_ndas_file s [o.name] hargs, ?_, ?_⟩
    · simp [State.assembled, ho]
    · simp [State.assembled, ho]
  · exact ⟨_, exec_ndas_missing s hargs, rfl, rfl⟩
  · exact ⟨_, exec_ndld_linked ho hq, rfl, rfl⟩
  · exact ⟨_, exec_ndld_missing hk, rfl, rfl⟩

end Sys2Proof.Claims

/-- Settles O45: RUN and NDBG by what the queue appends and what the control die stores at an object's addresses, the records by the
equation of their print, NDAS and NDLD by the state that each leaves. -/
theorem toolsRunAndPrint : Obligations.ToolsRunAndPrint :=
  ⟨Sys2Proof.Claims.objectsAreRun, Sys2Proof.Claims.recordsArePrinted, Sys2Proof.Claims.toolsEndWithAStatus⟩

/-! PROOFS. CVT and the block-scale instructions: lanes written one by one, the header in lane 0, the commit of an
instruction whose flags are not enabled, and what each of the five executes (R100, R103, R109, R111 to R114). -/

namespace Sys2Proof

/-! ### The lanes of the formats (R97, R109) -/

theorem Fmt.lane_mul_lanes (f : Fmt) : f.lane * f.lanes = 128 := by cases f <;> rfl
theorem Fmt.lane_pos (f : Fmt) : 0 < f.lane := by cases f <;> decide
theorem FTy.width_mul_lanes (t : FTy) : t.fmt.width * t.lanes = 128 := by cases t <;> rfl
theorem FTy.width_pos (t : FTy) : 0 < t.fmt.width := by cases t <;> decide

/-- The lanes of one format are a multiple of the other's. -/
theorem Fmt.min_lanes_dvd_max_lanes (x y : Fmt) : min x.lanes y.lanes ∣ max x.lanes y.lanes := by
  cases x <;> cases y <;> decide

theorem part_lt_of_cvt_wf {h : Head} {rm : RMode} {sat : Bool} {part : BitVec 4} {x y : Fmt} {d : Reg} {a : Src}
    (hwf : (Instr.cvt h rm sat part x y d a).wf = true) :
    part.toNat * min x.lanes y.lanes < max x.lanes y.lanes :=
  of_decide_eq_true (Bool.and_eq_true_iff.mp hwf).2

/-- The group of lanes that a legal PART names lies inside the format of more lanes. -/
theorem Fmt.part_inside (x y : Fmt) (part : Nat) (h : part * min x.lanes y.lanes < max x.lanes y.lanes) :
    part * min x.lanes y.lanes + min x.lanes y.lanes ≤ max x.lanes y.lanes := by
  obtain ⟨c, hc⟩ := Fmt.min_lanes_dvd_max_lanes x y
  rw [hc, Nat.mul_comm part] at h
  have hpart : part < c := Nat.lt_of_mul_lt_mul_left h
  calc part * min x.lanes y.lanes + min x.lanes y.lanes
      = min x.lanes y.lanes * (part + 1) := by rw [Nat.mul_succ, Nat.mul_comm]
    _ ≤ min x.lanes y.lanes * c := Nat.mul_le_mul_left _ hpart
    _ = max x.lanes y.lanes := hc.symm

end Sys2Proof

namespace Sys2Proof.Machine
open Claims

/-! ### Lanes -/

/-- A lane that is one of the first n has room in a register of at least n lanes. -/
theorem lane_inside {w n k : Nat} (hn : w * n ≤ 128) (hk : k < n) : w * k + w ≤ 128 :=
  Nat.le_trans (Nat.mul_le_mul_left w hk) hn

/-- A register in which m lanes from lane p on were replaced, one after the other. -/
theorem laneAt_foldl_setLane (w : Nat) (f : Nat → BitVec w) (q : Quad) (p j m : Nat) (hm : w * (p + m) ≤ 128)
    (hj : w * j + w ≤ 128) :
    laneAt w ((List.range m).foldl (fun q k => setLane w q (p + k) (f k)) q) j
      = if p ≤ j ∧ j < p + m then f (j - p) else laneAt w q j := by
  induction m with
  | zero =>
    have hout : ¬ (p ≤ j ∧ j < p + 0) := by omega
    exact (if_neg hout).symm
  | succ m ih =>
    have ih := ih (Nat.le_trans (Nat.mul_le_mul_left w (Nat.add_le_add_left m.le_succ p)) hm)
    rw [List.range_succ, List.foldl_append, List.foldl_cons, List.foldl_nil,
      laneAt_setLane w _ _ _ _ (lane_inside hm (by omega)) hj, ih]
    by_cases hlast : j = p + m
    · have hin : p ≤ j ∧ j < p + (m + 1) := by omega
      rw [if_pos hlast, if_pos hin, hlast, Nat.add_sub_cancel_left]
    · have hsame : (p ≤ j ∧ j < p + (m + 1)) = (p ≤ j ∧ j < p + m) := propext (by omega)
      simp only [hlast, hsame, if_false]

/-- Codes packed one per lane are held lane by lane. -/
theorem holdsCodes_packCodes (t : FTy) (l : List (Nat × Flags)) (hl : l.length = t.lanes) :
    holdsCodes t (packCodes t.fmt.width l) l := by
  intro k hk
  have hw := FTy.width_mul_lanes t
  rw [packCodes, laneAt_packLanes _ (FTy.width_pos t) _ (by simp [hl, hw]) k (lane_inside (Nat.le_of_eq hw) hk)]
  simp [List.getD_eq_getElem?_getD, hl, hk]

/-! ### CVT's lanes (R109) -/

/-- A lane that CVT has placed: converted inside its group, and outside it D's own or zero. -/
theorem laneAt_cvtPlace (part : Nat) (x y : Fmt) (q : Quad) (l : List (Nat × Flags)) (j : Nat)
    (hp : part * min x.lanes y.lanes < max x.lanes y.lanes) (hj : j < y.lanes) :
    laneAt y.lane (cvtPlace part x y q l) j
      = (let p := if x.lanes < y.lanes then part * min x.lanes y.lanes else 0
         if p ≤ j ∧ j < p + min x.lanes y.lanes then BitVec.ofNat _ (l.getD (j - p) (0, 0)).1
         else if x.lanes < y.lanes then laneAt y.lane q j else 0) := by
  have hgroup := Fmt.part_inside x y part hp
  have hw := Fmt.lane_mul_lanes y
  have hin := lane_inside (Nat.le_of_eq hw) hj
  simp only [cvtPlace, cvtReads, decide_eq_true_eq]
  split
  · have hroom : part * min x.lanes y.lanes + min x.lanes y.lanes ≤ y.lanes := by omega
    exact laneAt_foldl_setLane y.lane (fun k => BitVec.ofNat y.lane (l.getD k (0, 0)).1) q _ j _
      (Nat.le_trans (Nat.mul_le_mul_left _ hroom) (Nat.le_of_eq hw)) hin
  · have hroom : 0 + min x.lanes y.lanes ≤ y.lanes := by omega
    rw [laneAt_foldl_setLane y.lane (fun k => BitVec.ofNat y.lane (l.getD k (0, 0)).1) 0 _ j _
      (Nat.le_trans (Nat.mul_le_mul_left _ hroom) (Nat.le_of_eq hw)) hin]
    simp [laneAt]

/-! ### Headers (R100, R111) -/

theorem laneAt_zero (w : Nat) (q : Quad) : laneAt w q 0 = q.setWidth w := by
  apply BitVec.eq_of_getLsbD_eq
  intro i hi
  simp [laneAt, hi]

theorem withHeader_setWidth (q : Quad) (hd : Nat) : (withHeader q hd).setWidth 32 = BitVec.ofNat 32 hd := by
  rw [← laneAt_zero, withHeader, laneAt_setLane 32 q 0 0 _ (by decide) (by decide), if_pos rfl]

/-- Replacing lane 0 keeps the bits above it. -/
theorem setLane_zero_getLsbD_above {w i : Nat} (q : Quad) (v : BitVec w) (hi : w ≤ i) :
    (setLane w q 0 v).getLsbD i = q.getLsbD i := by
  by_cases hlt : i < 128
  · simp [setLane, hlt, hi]
  · rw [BitVec.getLsbD_of_ge _ _ (by omega), BitVec.getLsbD_of_ge _ _ (by omega)]

theorem withHeader_above (q : Quad) (hd : Nat) : (withHeader q hd).extractLsb' 32 96 = q.extractLsb' 32 96 := by
  apply BitVec.eq_of_getLsbD_eq
  intro i hi
  rw [BitVec.getLsbD_extractLsb', BitVec.getLsbD_extractLsb', withHeader,
    setLane_zero_getLsbD_above q _ (Nat.le_add_right 32 i)]

/-- The header of a block is the low word of its first register. -/
theorem quadBits_mod (l : List RegCell) : quadBits l % 2 ^ 32 = ((l.getD 0 {}).v.setWidth 32).toNat := by
  rw [BitVec.toNat_setWidth, quadBits, opv, show (2 : Nat) ^ 128 = 2 ^ 32 * 2 ^ 96 from rfl, Nat.mul_assoc,
    Nat.add_mul_mod_self_left]

theorem quadBits_values (n : Needs) (s : State) : quadBits (n.values s) % 2 ^ 32 = blockHeader n s 0 :=
  quadBits_mod (n.values s)

theorem quadBits_drop_values (n : Needs) (s : State) : quadBits ((n.values s).drop 1) % 2 ^ 32 = blockHeader n s 1 := by
  rw [quadBits_mod, blockHeader, src, List.getD_eq_getElem?_getD, List.getElem?_drop, ← List.getD_eq_getElem?_getD]

/-! ### The end of an instruction whose flags meet no enable, and of one that traps with none (R103) -/

@[simp] theorem Needs.after_mode (n : Needs) (s : State) (rm : RMode) : (n.after s).mode rm = s.mode rm := by
  cases rm <;> simp [State.mode]
@[simp] theorem Needs.after_enables (n : Needs) (s : State) : (n.after s).enables = s.enables := by
  simp [State.enables]

theorem fpeTrap_of_noTrap {s : State} {lf : List Flags} (h : noTrap s lf) : fpeTrap s.enables lf = none := by
  rw [fpeTrap]
  exact if_pos h

theorem allFlags_singleton (f : Flags) : allFlags [f] = f := Nat.zero_or f

theorem State.finish_trap (s : State) (ops : List Opnd) (t : Trap) (fl : Flags) : s.finish ops (.trap t fl)
    = (s.modSt (fun st => { st with fcsr := st.fcsr ||| BitVec.ofNat 64 fl })).trap t := rfl

/-- No flag leaves the strand as it is. -/
theorem State.modSt_fcsr_or_zero (s : State) :
    s.modSt (fun st => { st with fcsr := st.fcsr ||| BitVec.ofNat 64 0 }) = s := by
  simp only [State.modSt, Group.modSt, Group.setSt, BitVec.or_zero]
  exact congrArg (fun v => { s with g := { s.g with st := v } }) s.set_st

/-! ### What the five instructions execute -/

/-- Where the instruction has needs, it issues with them and with this body. -/
def Issues (i : Instr) (s : State) (body : List RegCell → State → Res) : Prop :=
  ∀ n, needs i = some n → exec i s = .next (s.issue n.h n.o n.srcs n.dsts body)

theorem opv_values (n : Needs) (s : State) (k : Nat) : (opv (n.values s) k).v = src n s k := rfl

section Executes
variable {i : Instr} {n : Needs} {s : State} {body : List RegCell → State → Res}

theorem Issues.exec_of_ok {u : State} (hi : Issues i s body) (hr : ReadyFor i n s)
    (hb : body (n.values s) (n.after s) = .ok u) : exec i s = .next (done u) := by
  rw [hi n hr.1, State.issue_met n s body hr.2, hb]
  rfl

/-- An instruction that commits flags of which none is enabled raises them and writes. -/
theorem Issues.exec_of_commit {lf : List Flags} {write : State → State} (hi : Issues i s body) (hr : ReadyFor i n s)
    (hf : noTrap s lf) (hb : body (n.values s) (n.after s) = (n.after s).commit lf write) :
    exec i s = .next (done (write (flagged (n.after s) (allFlags lf)))) := by
  refine hi.exec_of_ok hr (hb.trans ?_)
  rw [State.commit, Needs.after_enables, fpeTrap_of_noTrap hf]
  rfl

/-- An instruction whose body traps leaves the flags that it names, and what it has read is put back. -/
theorem Issues.exec_of_trap {t : Trap} {fl : Flags} (hi : Issues i s body) (hr : ReadyFor i n s)
    (hb : body (n.values s) (n.after s) = .trap t fl) :
    exec i s = .next ((s.modSt (fun st => { st with fcsr := st.fcsr ||| BitVec.ofNat 64 fl })).trap t) := by
  rw [hi n hr.1, State.issue_met n s body hr.2, hb, State.finish_trap]

/-- A body that refuses a block's header traps MFORMAT. -/
theorem Issues.exec_of_mformat {e : Nat} (hi : Issues i s body) (hr : ReadyFor i n s)
    (hb : body (n.values s) (n.after s) = (n.after s).mformat e 0) : ∃ v, exec i s = .next (s.trap ⟨.mformat, 0, e, v⟩) :=
  ⟨_, (hi.exec_of_trap hr hb).trans (by rw [State.modSt_fcsr_or_zero])⟩

variable {h : Head} {rm : RMode} {sat : Bool} {t : FTy} {f : BFmt} {d : Reg} {a : Src} {q : Fin 12} {part : BitVec 6}

theorem exec_cvt_of_noTrap {part : BitVec 4} {x y : Fmt} (hr : ReadyFor (.cvt h rm sat part x y d a) n s)
    (hf : noTrap s ((cvtLanes (s.mode rm) sat part.toNat x y (src n s 0)).map (·.2))) :
    let l := cvtLanes (s.mode rm) sat part.toNat x y (src n s 0)
    exec (.cvt h rm sat part x y d a) s
      = .next (done ((flagged (n.after s) (allFlags (l.map (·.2)))).writeReg d (cvtPlace part.toNat x y (src n s 1) l))) := by
  have hi : Issues (.cvt h rm sat part x y d a) s _ := fun m hm => by cases hm; rfl
  exact hi.exec_of_commit (write := fun u => u.writeReg d _) hr hf (by simp only [Needs.after_mode, opv_values])

theorem exec_blkset_of_scaleOk (hr : ReadyFor (.blkset h rm f d a) n s) {r : Nat × Flags}
    (hc : convBin bf16 (s.mode rm) false (f32.decode (laneAt 32 (src n s 0) 0).toNat) = r) (hf : noTrap s [r.2])
    (hok : scaleOk r.1 = true) :
    exec (.blkset h rm f d a) s
      = .next (done ((flagged (n.after s) r.2).writeReg d (withHeader (src n s 1) (mkHeader f r.1)))) := by
  have hi : Issues (.blkset h rm f d a) s _ := fun m hm => by cases hm; rfl
  have hexec := hi.exec_of_commit hr hf (by
    simp only [Needs.after_mode, Needs.after_enables, opv_values, codeAt, hc, fpeTrap_of_noTrap hf, hok, if_true]; rfl)
  rwa [allFlags_singleton] at hexec

theorem exec_blkset_of_not_scaleOk (hr : ReadyFor (.blkset h rm f d a) n s) {r : Nat × Flags}
    (hc : convBin bf16 (s.mode rm) false (f32.decode (laneAt 32 (src n s 0) 0).toNat) = r) (hf : noTrap s [r.2])
    (hbad : scaleOk r.1 = false) :
    ∃ v, exec (.blkset h rm f d a) s
      = .next ((s.modSt (fun st => { st with fcsr := st.fcsr ||| BitVec.ofNat 64 r.2 })).trap ⟨.mformat, 0, 0x04, v⟩) := by
  have hi : Issues (.blkset h rm f d a) s _ := fun m hm => by cases hm; rfl
  exact ⟨_, hi.exec_of_trap hr (by
    simp only [Needs.after_mode, Needs.after_enables, opv_values, codeAt, hc, fpeTrap_of_noTrap hf, hbad]; rfl)⟩

theorem exec_blkfit_of_noTrap (hr : ReadyFor (.blkfit h t f d a) n s) (hf : noTrap s [(blkFit t f (src n s 0)).2]) :
    let r := blkFit t f (src n s 0)
    exec (.blkfit h t f d a) s
      = .next (done ((flagged (n.after s) r.2).writeReg d (withHeader (src n s 1) (mkHeader f r.1)))) := by
  have hi : Issues (.blkfit h t f d a) s _ := fun m hm => by cases hm; rfl
  have hexec := hi.exec_of_commit hr hf (by simp only [opv_values]; rfl)
  rwa [allFlags_singleton] at hexec

theorem exec_blkget_of_empty {te : Bool} (hr : ReadyFor (.blkget h t rm d q te part) n s)
    (hh : header (blockHeader n s 0) = .empty) : exec (.blkget h t rm d q te part) s = .next (wrote n s d 0) := by
  have hi : Issues (.blkget h t rm d q te part) s _ := fun m hm => by cases hm; rfl
  exact hi.exec_of_ok hr (by simp only [quadBits_values, hh])

theorem exec_blkget_of_bad {te : Bool} {e : Nat} (hr : ReadyFor (.blkget h t rm d q te part) n s)
    (hh : header (blockHeader n s 0) = .bad e) :
    ∃ v, exec (.blkget h t rm d q te part) s = .next (s.trap ⟨.mformat, 0, e, v⟩) := by
  have hi : Issues (.blkget h t rm d q te part) s _ := fun m hm => by cases hm; rfl
  exact hi.exec_of_mformat hr (by simp only [quadBits_values, hh])

theorem exec_blkget_of_ok {te : Bool} {scale : Q} (hr : ReadyFor (.blkget h t rm d q te part) n s)
    (hh : header (blockHeader n s 0) = .ok f scale)
    (hf : noTrap s ((blkGetLanes t (s.mode rm) f scale part.toNat (quadBits (n.values s))).map (·.2))) :
    let l := blkGetLanes t (s.mode rm) f scale part.toNat (quadBits (n.values s))
    exec (.blkget h t rm d q te part) s
      = .next (done ((flagged (n.after s) (allFlags (l.map (·.2)))).writeReg d (packCodes t.fmt.width l))) := by
  have hi : Issues (.blkget h t rm d q te part) s _ := fun m hm => by cases hm; rfl
  exact hi.exec_of_commit (write := fun u => u.writeReg d _) hr hf (by simp only [quadBits_values, hh, Needs.after_mode])

theorem exec_blkput_of_empty (hr : ReadyFor (.blkput h t rm sat q a part) n s)
    (hh : header (blockHeader n s 1) = .empty) :
    ∃ v, exec (.blkput h t rm sat q a part) s = .next (s.trap ⟨.mformat, 0, 0x03, v⟩) := by
  have hi : Issues (.blkput h t rm sat q a part) s _ := fun m hm => by cases hm; rfl
  exact hi.exec_of_mformat hr (by simp only [quadBits_drop_values, hh])

theorem exec_blkput_of_bad {e : Nat} (hr : ReadyFor (.blkput h t rm sat q a part) n s)
    (hh : header (blockHeader n s 1) = .bad e) :
    ∃ v, exec (.blkput h t rm sat q a part) s = .next (s.trap ⟨.mformat, 0, e, v⟩) := by
  have hi : Issues (.blkput h t rm sat q a part) s _ := fun m hm => by cases hm; rfl
  exact hi.exec_of_mformat hr (by simp only [quadBits_drop_values, hh])

/-- A lane of BLKPUT put into the block, where it has an element. -/
def blkPutInto (f : BFmt) (b : Nat) (x : Option (Nat × Nat) × Flags) : Nat :=
  match x.1 with
  | some (i, c) => f.setElement b i c
  | none => b

theorem exec_blkput_of_ok {scale : Q} (hr : ReadyFor (.blkput h t rm sat q a part) n s)
    (hh : header (blockHeader n s 1) = .ok f scale)
    (hf : noTrap s ((blkPutLanes t (s.mode rm) sat f scale part.toNat (src n s 0)).map (·.2))) :
    let l := blkPutLanes t (s.mode rm) sat f scale part.toNat (src n s 0)
    exec (.blkput h t rm sat q a part) s = .next (done ((flagged (n.after s) (allFlags (l.map (·.2)))).writeQuad q
      (l.foldl (blkPutInto f) (quadBits ((n.values s).drop 1))))) := by
  have hi : Issues (.blkput h t rm sat q a part) s _ := fun m hm => by cases hm; rfl
  exact hi.exec_of_commit (write := fun u => u.writeQuad q _) hr hf (by
    simp only [quadBits_drop_values, hh, Needs.after_mode, opv_values]; rfl)

end Executes

/-! ### The lanes of BLKGET and BLKPUT (R113, R114) -/

theorem blkPutLanes_flags (t : FTy) (mode : RMode) (sat : Bool) (f : BFmt) (scale : Q) (part : Nat) (a : Quad) :
    (blkPutLanes t mode sat f scale part a).map (·.2) = (List.range t.lanes).map (fun k =>
      if decide (part * t.lanes + k < f.count) then
        (f.fmt.conv mode sat ((t.fmt.decode (code t a k)).scale ((Q.ofInt 1).div scale))).2 else 0) := by
  rw [blkPutLanes, List.map_map]
  refine List.map_congr_left fun k _ => ?_
  by_cases hin : part * t.lanes + k < f.count <;> simp [hin, code, codeAt]

theorem blkPutLanes_foldl (t : FTy) (mode : RMode) (sat : Bool) (f : BFmt) (scale : Q) (part : Nat) (a : Quad) (b : Nat) :
    (blkPutLanes t mode sat f scale part a).foldl (blkPutInto f) b = (List.range t.lanes).foldl (fun (b : Nat) k =>
      if decide (part * t.lanes + k < f.count) then f.setElement b (part * t.lanes + k)
        (f.fmt.conv mode sat ((t.fmt.decode (code t a k)).scale ((Q.ofInt 1).div scale))).1 else b) b := by
  rw [blkPutLanes, List.foldl_map]
  congr 1
  funext b k
  by_cases hin : part * t.lanes + k < f.count <;> simp [hin, blkPutInto, code, codeAt]

end Sys2Proof.Machine

namespace Sys2Proof.Claims
open Sys2Proof.Machine

theorem cvtConvertsLanes : CvtConvertsLanes := by
  intro n s h rm sat part x y d a hwf hr m from_ upto r fl hf
  have hpart := part_lt_of_cvt_wf hwf
  have hl : cvtLanes (s.mode rm) sat part.toNat x y (src n s 0) = (List.range m).map r := rfl
  have hfl : (cvtLanes (s.mode rm) sat part.toNat x y (src n s 0)).map (·.2) = fl := by rw [hl, List.map_map]; rfl
  have hexec := exec_cvt_of_noTrap hr (hfl ▸ hf)
  have hgroup := Fmt.part_inside x y part.toNat hpart
  have hupto : upto + m ≤ y.lanes := by
    simp only [upto, m]
    split <;> omega
  refine ⟨_, by rw [hexec, hfl], fun k hk => ?_, fun j hj hout => ?_⟩
  · rw [laneAt_cvtPlace part.toNat x y _ _ _ hpart (by omega), hl]
    have hin : upto ≤ upto + k ∧ upto + k < upto + m := by omega
    have hk' : ((List.range m).map r).getD (upto + k - upto) (0, 0) = r k := by
      simp [List.getD_eq_getElem?_getD, hk]
    exact (if_pos hin).trans (by rw [hk'])
  · have hj' : j < y.lanes := by
      rwa [← Fmt.lane_mul_lanes y, Nat.mul_div_cancel_left _ (Fmt.lane_pos y)] at hj
    have hnot : ¬ (upto ≤ j ∧ j < upto + m) := by omega
    rw [laneAt_cvtPlace part.toNat x y _ _ _ hpart hj']
    exact if_neg hnot

theorem blockHeaders : BlockHeaders := by
  intro n s h f d a
  refine ⟨fun rm hr hf => ⟨fun hok => ?_, fun hbad => ?_⟩, fun t hr hf => ?_⟩
  · exact ⟨_, exec_blkset_of_scaleOk hr rfl hf hok, withHeader_setWidth _ _, withHeader_above _ _⟩
  · exact exec_blkset_of_not_scaleOk hr rfl hf hbad
  · exact ⟨_, exec_blkfit_of_noTrap hr hf, withHeader_setWidth _ _, withHeader_above _ _⟩

theorem blockElements : BlockElements := by
  intro n s h t rm q part
  refine ⟨fun d te hr => ⟨exec_blkget_of_empty hr, fun e => exec_blkget_of_bad hr, fun f scale hh hf => ?_⟩,
    fun sat a hr => ⟨exec_blkput_of_empty hr, fun e => exec_blkput_of_bad hr, fun f scale hh hf => ?_⟩⟩
  · exact ⟨_, exec_blkget_of_ok hr hh hf, holdsCodes_packCodes t _ (by simp [blkGetLanes])⟩
  · have hfl := blkPutLanes_flags t (s.mode rm) sat f scale part.toNat (src n s 0)
    have hexec := exec_blkput_of_ok hr hh (hfl ▸ hf)
    simp only [hfl, blkPutLanes_foldl] at hexec
    exact hexec

end Sys2Proof.Claims

/-- Settles O10: each instruction by the body that it issues, CVT's register lane by lane through the writes of its group, and a
block by its checked header. -/
theorem conversionsAndBlocks : Obligations.ConversionsAndBlocks :=
  ⟨Sys2Proof.Claims.cvtConvertsLanes, Sys2Proof.Claims.blockHeaders, Sys2Proof.Claims.blockElements⟩

/-! PROOFS. The short floating-point instructions, FABS, FNEG, FCLASS and FCMP: the lanes that each computes and the body
that it issues (R103, R110, R152 to R160). -/

namespace Sys2Proof

theorem FTy.lanes_pos (t : FTy) : 0 < t.lanes := by cases t <;> decide
theorem FTy.lanes_eq_div (t : FTy) : 128 / t.fmt.width = t.lanes := by cases t <;> rfl

end Sys2Proof

namespace Sys2Proof.Machine
open Claims

/-! ### Lanes of a floating-point type -/

/-- A register packed from one code for each lane of a floating-point type. -/
theorem laneAt_packLanes_fp (t : FTy) (l : List (BitVec t.fmt.width)) (hl : l.length = t.lanes) (k : Nat) (hk : k < t.lanes) :
    laneAt t.fmt.width (packLanes t.fmt.width l) k = l.getD k 0 :=
  have hw := Nat.le_of_eq t.width_mul_lanes
  laneAt_packLanes _ t.width_pos l (hl ▸ hw) k (lane_inside hw hk)

theorem laneAt_mapLanes_fp (t : FTy) (f : BitVec t.fmt.width → BitVec t.fmt.width) (a : Quad) (k : Nat) (hk : k < t.lanes) :
    laneAt t.fmt.width (mapLanes t.fmt.width f a) k = f (laneAt t.fmt.width a k) := by
  rw [mapLanes, lanesOf, t.lanes_eq_div, laneAt_packLanes_fp t _ (by simp) k hk]
  simp [List.getD_eq_getElem?_getD, hk]

theorem fpLanes_eq (t : FTy) (q : Quad) : fpLanes t q = (List.range t.lanes).map (code t q) := rfl

theorem fpMap2_eq (t : FTy) (f : Nat → Nat → Nat × Flags) (a b : Quad) :
    fpMap2 t f a b = (List.range t.lanes).map (fun k => f (code t a k) (code t b k)) := by
  rw [fpMap2, fpLanes_eq, fpLanes_eq, List.zipWith_map, List.zipWith_self]

theorem ofNat_code (t : FTy) (q : Quad) (k : Nat) : BitVec.ofNat t.fmt.width (code t q k) = laneAt t.fmt.width q k := by
  simp [code]

/-! ### The short instructions issue the body of their lane function (R103) -/

/-- The body of a lane instruction: every lane computed under the mode in force, and the commit of its flags and codes. -/
def lanesBody (f : FpFn) (l : List RegCell) (s : State) : Res :=
  let r := (List.range f.t.lanes).map (f.lane (s.mode f.rm) (fun j => (opv l j).v))
  s.commit (r.map (·.2)) (fun u => u.writeReg f.d (packCodes f.t.fmt.width r))

theorem fp1_issues (h : Head) (t : FTy) (rm : RMode) (d : Reg) (a : Src) (g : RMode → Nat → Nat × Flags) (s : State) :
    fp1 h t rm d a g s = .next (s.issue h { ill := illMode rm } [sop a] [d]
      (lanesBody ⟨t, d, rm, fun m q k => g m (code t (q 0) k)⟩)) := by
  simp only [fp1, fpLanes_eq, List.map_map, Function.comp_def]
  unfold lanesBody
  simp only [List.map_map, Function.comp_def]

theorem fp2_issues (h : Head) (t : FTy) (rm : RMode) (d : Reg) (a b : Src) (g : RMode → Nat → Nat → Nat × Flags) (s : State) :
    fp2 h t rm d a b g s = .next (s.issue h { ill := illMode rm } [sop a, sop b] [d]
      (lanesBody ⟨t, d, rm, fun m q k => g m (code t (q 0) k) (code t (q 1) k)⟩)) := by
  simp only [fp2, fpMap2_eq]
  rfl

theorem fp3_issues (h : Head) (t : FTy) (rm : RMode) (d : Reg) (a b : Src) (g : Fused) (s : State) :
    fp3 h t rm d a b g s = .next (s.issue h { ill := orIll (illMode rm) (illStream d) } [sop a, sop b, dop d] [d]
      (lanesBody ⟨t, d, rm, fun m q k => t.fmt.fused g m (code t (q 0) k) (code t (q 1) k) (code t (q 2) k)⟩)) := by
  simp only [fp3, fpLanes_eq, List.zip_map', List.map_map, Function.comp_def]
  unfold lanesBody
  simp only [List.map_map, Function.comp_def]

theorem Issues.of_exec {i : Instr} {n : Needs} {s : State} {body : List RegCell → State → Res} (hn : needs i = some n)
    (he : exec i s = .next (s.issue n.h n.o n.srcs n.dsts body)) : Issues i s body := fun m hm => by
  obtain rfl : n = m := Option.some.inj (hn.symm.trans hm)
  exact he


/-- Each short instruction issues with the body of its lane function. -/
theorem issues_of_fpShort {i : Instr} {f : FpFn} (hf : fpShort i = some f) (s : State) : Issues i s (lanesBody f) := by
  unfold fpShort at hf
  split at hf <;> cases hf
  case h_1 h t rm d a b => exact .of_exec rfl (fp2_issues h t rm d a b t.fmt.fadd s)
  case h_2 h t rm d a b => exact .of_exec rfl (fp2_issues h t rm d a b t.fmt.fsub s)
  case h_3 h t rm d a b => exact .of_exec rfl (fp2_issues h t rm d a b t.fmt.fmul s)
  case h_4 h t rm d a b => exact .of_exec rfl (fp3_issues h t rm d a b .fma s)
  case h_5 h t rm d a b => exact .of_exec rfl (fp3_issues h t rm d a b .fms s)
  case h_6 h t rm d a b => exact .of_exec rfl (fp3_issues h t rm d a b .nfma s)
  case h_7 h t d a b => exact .of_exec rfl (fp2_issues h t .rne d a b (fun _ => t.fmt.fminmax false) s)
  case h_8 h t d a b => exact .of_exec rfl (fp2_issues h t .rne d a b (fun _ => t.fmt.fminmax true) s)
  case h_9 h t rm exact d a => exact .of_exec rfl (fp1_issues h t rm d a (fun m => t.fmt.frint m exact) s)
  case h_10 h t rm d a b =>
    have hlane := fp2_issues h t rm d a b (fun m x y => t.fmt.fscale m x (BitVec.ofNat t.fmt.width y).toInt) s
    simp only [ofNat_code] at hlane
    exact .of_exec rfl hlane
  case h_11 h t rm signed sat d a => exact .of_exec rfl rfl
  case h_12 h t rm signed d a => exact .of_exec rfl rfl

/-- A lane instruction none of whose flags is enabled raises them and writes the code of every lane. -/
theorem exec_fpShort {i : Instr} {n : Needs} {f : FpFn} {s : State} (hf : fpShort i = some f) (hr : ReadyFor i n s)
    (hn : noTrap s (f.flags n s)) : exec i s = .next (done ((flagged (n.after s) (allFlags (f.flags n s))).writeReg f.d
      (packCodes f.t.fmt.width (f.all n s)))) :=
  (issues_of_fpShort hf s).exec_of_commit (write := fun u => u.writeReg f.d _) hr hn (by
    simp only [lanesBody, Needs.after_mode, opv_values]; rfl)

/-! ### Signs and classes (R156, R158) -/

/-- The register that FABS, FNEG or FCLASS writes, from the one that it reads. -/
def bitsOut : Instr → Quad → Quad
  | .fabs _ t _ _ => mapLanes t.fmt.width (fun x => x &&& ~~~(1#t.fmt.width <<< (t.fmt.width - 1)))
  | .fneg _ t _ _ => mapLanes t.fmt.width (fun x => x ^^^ (1#t.fmt.width <<< (t.fmt.width - 1)))
  | .fclass _ t _ _ => fun q => packLanes t.fmt.width ((fpLanes t q).map (fun c => BitVec.ofNat _ (t.fmt.fclass c)))
  | _ => id

theorem exec_fpBits {i : Instr} {n : Needs} {s : State} {t : FTy} {d : Reg} {f : Nat → Nat → Bool}
    (hf : fpBits i = some (t, d, f)) (hr : ReadyFor i n s) : exec i s = .next (wrote n s d (bitsOut i (src n s 0))) := by
  have hi : Issues i s (fun l u => .ok (u.writeReg d (bitsOut i (opv l 0).v))) := by
    unfold fpBits at hf
    split at hf <;> cases hf <;> exact .of_exec rfl rfl
  exact hi.exec_of_ok hr rfl

/-- Bit j of a word with the top bit alone. -/
theorem topBit_getLsbD {w j : Nat} (hj : j < w) : (1#w <<< (w - 1)).getLsbD j = decide (j = w - 1) := by
  have htop : w - 1 < w := by omega
  rw [← BitVec.twoPow_eq, BitVec.getLsbD_twoPow, decide_eq_true htop, Bool.true_and]
  exact decide_eq_decide.mpr eq_comm

theorem code_testBit (t : FTy) (q : Quad) (k j : Nat) : (code t q k).testBit j = (laneAt t.fmt.width q k).getLsbD j := rfl

theorem laneAt_bitsOut {i : Instr} {t : FTy} {d : Reg} {f : Nat → Nat → Bool} (hf : fpBits i = some (t, d, f)) (q : Quad)
    {k j : Nat} (hk : k < t.lanes) (hj : j < t.fmt.width) :
    (laneAt t.fmt.width (bitsOut i q) k).getLsbD j = f (code t q k) j := by
  unfold fpBits at hf
  split at hf <;> cases hf
  case h_1 =>
    rw [bitsOut, laneAt_mapLanes_fp t _ q k hk, BitVec.getLsbD_and, BitVec.getLsbD_not, topBit_getLsbD hj,
      ← code_testBit]
    simp [hj, Bool.and_comm]
  case h_2 =>
    rw [bitsOut, laneAt_mapLanes_fp t _ q k hk, BitVec.getLsbD_xor, topBit_getLsbD hj, ← code_testBit,
      Bool.xor_comm]
  case h_3 =>
    have hlane : ((fpLanes t q).map (fun c => BitVec.ofNat t.fmt.width (t.fmt.fclass c))).getD k 0
        = BitVec.ofNat _ (t.fmt.fclass (code t q k)) := by simp [fpLanes_eq, List.getD_eq_getElem?_getD, hk]
    rw [bitsOut, laneAt_packLanes_fp t _ (by simp [fpLanes]) k hk, hlane, BitVec.getLsbD_ofNat, decide_eq_true hj,
      Bool.true_and]

/-! ### FCMP (R157) -/

/-- The flags of the lanes that FCMP compares: every lane's, or those of lane 0 alone. -/
theorem fcmp_flags (c : Comb) (n : Nat) (hn : 0 < n) (g : Nat → Flags) :
    (if c = .lane0 then ((List.range n).map g).headD 0 :: (((List.range n).map g).drop 1).map (fun _ => 0)
      else (List.range n).map g) = (List.range n).map (fun k => if c = .lane0 ∧ k ≠ 0 then 0 else g k) := by
  obtain ⟨m, rfl⟩ := Nat.exists_eq_add_one.mpr hn
  by_cases hc : c = .lane0
  · simp [hc, List.range_succ_eq_map]
  · simp [hc]

/-- The joined conditions of n lanes. -/
theorem join_iff_combines (c : Comb) (n : Nat) (hn : 0 < n) (g : Nat → Bool) :
    Comb.join c ((List.range n).map g) = true ↔ combines c n (fun k => g k = true) := by
  obtain ⟨m, rfl⟩ := Nat.exists_eq_add_one.mpr hn
  cases c with
  | lane0 => simp [Comb.join, combines, List.range_succ_eq_map]
  | all => simp [Comb.join, combines]
  | any => simp [Comb.join, combines]

theorem exec_fcmp_of_noTrap {n : Needs} {s : State} {h : Head} {t : FTy} {cc : FCond} {c : Comb} {p : Pred} {a b : Src}
    (hr : ReadyFor (.fcmp h t cc c p a b) n s) :
    let r (k : Nat) := t.fmt.fcmp cc (code t (src n s 0) k) (code t (src n s 1) k)
    let fl := (List.range t.lanes).map (fun k => if c = .lane0 ∧ k ≠ 0 then 0 else (r k).2)
    noTrap s fl → exec (.fcmp h t cc c p a b) s = .next (done ((flagged (n.after s) (allFlags fl)).writePred p
      (Comb.join c ((List.range t.lanes).map (fun k => (r k).1))))) := by
  intro r fl hf
  have hi : Issues (.fcmp h t cc c p a b) s _ := .of_exec rfl rfl
  have hlanes : (fpLanes t (src n s 0)).zipWith (t.fmt.fcmp cc) (fpLanes t (src n s 1)) = (List.range t.lanes).map r := by
    rw [fpLanes_eq, fpLanes_eq, List.zipWith_map, List.zipWith_self]
  refine hi.exec_of_commit (write := fun u => u.writePred p _) hr hf ?_
  simp only [opv_values, hlanes, List.map_map, Function.comp_def, fcmp_flags c t.lanes t.lanes_pos (fun k => (r k).2), fl]

end Sys2Proof.Machine

namespace Sys2Proof.Claims
open Sys2Proof.Machine

theorem floatingPointWritesLanes : FloatingPointWritesLanes := by
  intro i n f s hf hr hn
  exact ⟨_, exec_fpShort hf hr hn, holdsCodes_packCodes f.t _ (by simp [FpFn.all])⟩

theorem signsAndClasses : SignsAndClasses := by
  intro i n s t d f hf hr
  exact ⟨_, exec_fpBits hf hr, fun k j hk hj => laneAt_bitsOut hf _ hk hj⟩

theorem fcmpWritesPredicate : FcmpWritesPredicate := by
  intro n s h t cc c p a b hr r fl hf
  exact ⟨_, exec_fcmp_of_noTrap hr hf, join_iff_combines c t.lanes t.lanes_pos (fun k => (r k).1)⟩

end Sys2Proof.Claims

/-- Settles O7: each short instruction by the body that it shares with its lane function, the signs and classes bit by bit, FCMP by
the flags and the join of the lanes that it compares. -/
theorem floatingPointWritesLanes : Obligations.FloatingPointWritesLanes :=
  ⟨Sys2Proof.Claims.floatingPointWritesLanes, Sys2Proof.Claims.signsAndClasses, Sys2Proof.Claims.fcmpWritesPredicate⟩

/-! PROOFS. The instructions of FCSR and the random generators (R147, R165 to R167, R171, R172, R427). -/

namespace Sys2Proof.Machine
open Claims

/-! ### Parks (R45) -/

/-- What is put back at a park changes of the strand only its c registers and its order clock. -/
theorem State.unpop_st (s : State) : ∀ (ops : List Opnd) (u : State), ∃ c k, (u.unpop s ops).st = { u.st with c := c, clock := k }
  | [], u => ⟨u.st.c, u.st.clock, rfl⟩
  | o :: ops, u => by
    have hone : ∃ c k, (u.unpop s [o]).st = { u.st with c := c, clock := k } := by
      simp only [State.unpop, List.foldl_cons, List.foldl_nil]
      split
      · exact ⟨_, _, rfl⟩
      · split
        · exact ⟨u.st.c, s.st.clock, by rw [State.st_modSt]; rfl⟩
        · split
          · rw [State.st_modSt]
            simp only [*, Strand.setCell]
            split <;> exact ⟨_, _, rfl⟩
          · exact ⟨_, _, rfl⟩
      · exact ⟨_, _, rfl⟩
    obtain ⟨c, k, hu⟩ := hone
    obtain ⟨c', k', hr⟩ := State.unpop_st s ops (u.unpop s [o])
    exact ⟨c', k', hr.trans (by rw [hu])⟩

@[simp] theorem State.unpop_st_fcap (u s : State) (ops : List Opnd) : (u.unpop s ops).st.fcap = u.st.fcap := by
  obtain ⟨_, _, h⟩ := s.unpop_st ops u; rw [h]
@[simp] theorem State.unpop_st_fcsr (u s : State) (ops : List Opnd) : (u.unpop s ops).st.fcsr = u.st.fcsr := by
  obtain ⟨_, _, h⟩ := s.unpop_st ops u; rw [h]

/-- An instruction whose body parks puts back what it has read, and its strand parks. -/
theorem Issues.exec_of_park {i : Instr} {n : Needs} {s u : State} {body : List RegCell → State → Res} {w : Why}
    (hi : Issues i s body) (hr : ReadyFor i n s) (hb : body (n.values s) (n.after s) = .park w u) :
    exec i s = .next ((u.unpop s n.srcs).modSt (fun st => st.park w s.now s.cyc)) := by
  rw [hi n hr.1, State.issue_met n s body hr.2, hb]
  rfl

/-! ### FCSR (R147, R165, R166, R427) -/

@[simp] theorem Needs.after_fpOut (n : Needs) (s : State) : (n.after s).fpOut = s.fpOut := by simp [State.fpOut]

/-- Two changes of the strand that agree on it are one. -/
theorem State.modSt_congr {s : State} {f g : Strand → Strand} (h : f s.st = g s.st) : s.modSt f = s.modSt g :=
  congrArg (fun t => { s with g := s.g.setSt s.slot t }) h

/-- A write of the CSR that is FCSR does what the FCSR instructions do, under FCSR's mask. -/
theorem State.csrAccess_fcsr (s : State) (d : Reg) (v : Lane) :
    s.csrAccess 0x001 d (some v) = s.env d (fun o => (o &&& ~~~0x71F1F) ||| (v &&& 0x71F1F)) := by
  unfold State.csrAccess State.env
  by_cases hout : s.fpOut = true
  · simp [hout, csrDefined, csrWritable]
  · simp [hout, csrDefined, csrWritable]
    rfl

/-- Each FCSR instruction issues with the wait for the results outstanding and its change of FCSR. -/
theorem issues_of_fcsrOps {i : Instr} {d : Reg} {f : Lane → Lane → Lane} (hf : fcsrOps i = some (d, f)) (s : State) :
    Issues i s (fun l u => u.env d (fun o => f o (lane0 (opv l 0)))) := by
  unfold fcsrOps at hf
  split at hf <;> cases hf
  case h_1 | h_2 | h_3 => exact .of_exec rfl rfl
  case h_4 h a =>
    have hset : exec (.fcsrWrite h d a) s = .next (s.csrset h d a 0x001) := rfl
    simp only [State.csrset, State.csrAccess_fcsr] at hset
    exact .of_exec rfl hset

theorem State.env_of_out {s : State} (h : s.fpOut = true) (d : Reg) (f : Lane → Lane) : s.env d f = .park .value s := by
  simp [State.env, h]

theorem State.env_of_not_out {s : State} (h : s.fpOut = false) (d : Reg) (f : Lane → Lane) :
    s.env d f = .ok ((s.modSt (fun t => { t with fcsr := f s.st.fcsr })).writeReg d (quad2 s.st.fcsr 0)) := by
  simp only [State.env, h, Bool.false_eq_true, if_false]

/-! ### The random generators (R167, R171, R172) -/

/-- The two drawings of RND, each an output of the generator and a step of it. -/
theorem exec_rnd {n : Needs} {s : State} {h : Head} {d : Reg} (hr : ReadyFor (.rnd h d) n s) :
    let a := (n.after s).draw
    exec (.rnd h d) s = .next (done (a.2.draw.2.writeReg d (quad2 a.1 a.2.draw.1))) := by
  have hi : Issues (.rnd h d) s _ := .of_exec rfl rfl
  exact hi.exec_of_ok hr rfl

theorem exec_rndstate {n : Needs} {s : State} {h : Head} {d : Reg} (hr : ReadyFor (.rndstate h d) n s) :
    exec (.rndstate h d) s = .next (wrote n s d (quad2 s.st.gen0 s.st.gen1)) := by
  have hi : Issues (.rndstate h d) s _ := .of_exec rfl rfl
  exact hi.exec_of_ok hr (by simp only [Needs.after_st_gen0, Needs.after_st_gen1])

/-- The test for a state of all zeros, as a Boolean. -/
theorem ite_and_zero (u v k : Lane) : (if decide (u = 0) && decide (v = 0) then k else v) = if u = 0 ∧ v = 0 then k else v := by
  simp only [Bool.and_eq_true, decide_eq_true_eq]

theorem exec_rndstateW {n : Needs} {s : State} {h : Head} {d : Reg} {a : Src} (hr : ReadyFor (.rndstateW h d a) n s) :
    let u := (src n s 0).setWidth 64
    let v := (src n s 0).extractLsb' 64 64
    exec (.rndstateW h d a) s = .next (done (((n.after s).modSt (fun t =>
      { t with gen0 := u, gen1 := if u = 0 ∧ v = 0 then 0x9E3779B97F4A7C15 else v })).writeReg d (quad2 s.st.gen0 s.st.gen1))) := by
  have hi : Issues (.rndstateW h d a) s _ := .of_exec rfl rfl
  exact hi.exec_of_ok hr (by simp only [ite_and_zero, Needs.after_st_gen0, Needs.after_st_gen1]; rfl)

end Sys2Proof.Machine

namespace Sys2Proof.Claims
open Sys2Proof.Machine

theorem fcsrInstructions : FcsrInstructions := by
  intro i n s d f hf hr
  refine ⟨fun hout => ?_, fun hout => ?_⟩
  · exact (issues_of_fcsrOps hf s).exec_of_ok hr (by
      rw [State.env_of_not_out (by simp [hout]), Needs.after_st_fcsr]; rfl)
  · refine ⟨_, (issues_of_fcsrOps hf s).exec_of_park hr (State.env_of_out (by simp [hout]) d _), ?_, ?_, ?_, ?_⟩ <;> simp

theorem randomInstructions : RandomInstructions := by
  intro n s h d a x y next
  refine ⟨fun hr => (exec_rnd hr).trans ?_, exec_rndstate, exec_rndstateW⟩
  simp only [State.draw, Gen.step, State.modSt_modSt, State.st_modSt, Needs.after_st_gen0, Needs.after_st_gen1]
  rfl

end Sys2Proof.Claims

/-- Settles O9: each FCSR instruction by the change of FCSR that it issues with or without results outstanding, the random instructions
by the steps of the generator. -/
theorem fcsrAndRandomInstructions : Obligations.FcsrAndRandomInstructions :=
  ⟨Sys2Proof.Claims.fcsrInstructions, Sys2Proof.Claims.randomInstructions⟩

/-! PROOFS. The accumulators: which reads leave them and the record of their writers alone, a write of one by its elements, the
result of MRD, and the fields of MSTAT (R144, R174, R175, R191, R192, R194). -/

namespace Sys2Proof.Machine
open Claims

/-! ### What the reads of an instruction leave alone (R175) -/

theorem ReadyFor.srcs_eq {i : Instr} {n m : Needs} {s : State} (hr : ReadyFor i n s) (hm : needs i = some m) : n.srcs = m.srcs :=
  congrArg Needs.srcs (Option.some.inj (hr.1.symm.trans hm))

/-- An instruction without sources executes in the state in which it issues. -/
theorem Needs.after_of_no_srcs {n : Needs} (h : n.srcs = []) (s : State) : n.after s = s := by
  rw [Needs.after, h]
  rfl

@[simp] theorem Needs.after_det (n : Needs) (s : State) : (n.after s).det = s.det := by
  simp [State.det, State.myLaunch, State.launch?]

/-- What the barriers of R175 take of the strands in the slots: serial and barriers. -/
def Group.barKeys (g : Group) : Vector (Nat × List Nat) 8 := g.st.map (fun t => (t.serial, t.bars))

theorem Group.barsOf_eq (g : Group) (slot : Fin 8) (serial : Nat) :
    g.barsOf slot serial = if (g.barKeys[slot]).1 = serial then (g.barKeys[slot]).2
      else (((g.barKeys.toList ++ g.store.map (fun x => (x.st.serial, x.st.bars))).find?
        (fun x => x.1 == serial)).map (·.2)).getD (lookD g.goneBars serial []) := by
  have hkeys : g.barKeys.toList ++ g.store.map (fun x => (x.st.serial, x.st.bars))
      = (g.st.toList ++ g.store.map (·.st)).map (fun t => (t.serial, t.bars)) := by
    simp [Group.barKeys, Vector.toList_map, Function.comp_def]
  have hslot : g.barKeys[slot] = ((g.st[slot]).serial, (g.st[slot]).bars) := by simp [Group.barKeys]
  rw [hkeys, hslot, List.find?_map, Group.barsOf]
  split
  · rfl
  · simp only [Function.comp_def]
    split <;> simp [*]

@[simp] theorem Needs.after_barKeys (n : Needs) (s : State) : (n.after s).g.barKeys = s.g.barKeys := by
  obtain ⟨c, k, l, d, w, h⟩ := n.after_eq s
  rw [h]
  simp only [Group.barKeys, State.popped, Vector.map_set]
  rw [← Vector.map_set (f := fun t : Strand => (t.serial, t.bars)) (a := s.st), s.set_st]

@[simp] theorem Needs.after_accConflict (n : Needs) (s : State) (a : Fin 4) :
    (n.after s).accConflict a = s.accConflict a := by
  simp [State.accConflict, Group.barsOf_eq]

/-! ### Writes of an accumulator (R174, R175) -/

theorem State.onAcc_write {s : State} {a : Fin 4} (h : s.accConflict a = none) (k : State → Res) :
    s.onAcc [] (some a) k = k (s.noteAcc a) := by
  simp [State.onAcc, h]

theorem State.onAcc_read {s : State} {a : Fin 4} (h : s.accConflict a = none) (k : State → Res) :
    s.onAcc [a] none k = k s := by
  simp [State.onAcc, h]

theorem Group.accAt_setAcc_same (g : Group) (a : Fin 4) (f : Nat → BitVec 32) {e : Nat} (he : e < 64) :
    (g.setAcc a f).accAt a e = f e := by
  simp [Group.accAt, Group.setAcc, Vector.getD, he]

theorem Group.setAcc_acc_ne (g : Group) {a b : Fin 4} (f : Nat → BitVec 32) (h : b ≠ a) :
    (g.setAcc a f).acc[b] = g.acc[b] :=
  Vector.getElem_set_ne a.isLt b.isLt (fun he => h (Fin.ext he.symm))

/-- An accumulator written by its elements, and its writer recorded. -/
def State.wroteAcc (s : State) (a : Fin 4) (f : Nat → BitVec 32) : State := (s.noteAcc a).modG (fun g => g.setAcc a f)

theorem accChange_wroteAcc (s : State) (a : Fin 4) (f : Nat → BitVec 32) : accChange s (done (s.wroteAcc a f)) := rfl

theorem State.wroteAcc_accAt (s : State) (a : Fin 4) (f : Nat → BitVec 32) {e : Nat} (he : e < 64) :
    (done (s.wroteAcc a f)).g.accAt a e = f e :=
  (s.noteAcc a).g.accAt_setAcc_same a f he

theorem State.wroteAcc_acc_ne (s : State) {a b : Fin 4} (f : Nat → BitVec 32) (h : b ≠ a) :
    (done (s.wroteAcc a f)).g.acc[b] = s.g.acc[b] :=
  (s.noteAcc a).g.setAcc_acc_ne f h

/-! ### The lines of an accumulator (R192) -/

/-- The row of an element, or its column. -/
def lineOf (col : Bool) (e : Nat) : Nat := if col then e % 8 else e / 8
/-- Its place in that line. -/
def placeOf (col : Bool) (e : Nat) : Nat := if col then e / 8 else e % 8

theorem lineAt_lt (col : Bool) (k : BitVec 3) {m : Nat} (hm : m < 8) : lineAt col k m < 64 := by
  have hk : k.toNat < 8 := k.isLt
  cases col <;> simp only [lineAt, Bool.false_eq_true, if_true, if_false] <;> omega

theorem lineOf_lineAt (col : Bool) (k : BitVec 3) {m : Nat} (hm : m < 8) : lineOf col (lineAt col k m) = k.toNat := by
  have hk : k.toNat < 8 := k.isLt
  cases col <;> simp only [lineAt, lineOf, Bool.false_eq_true, if_true, if_false] <;> omega

theorem placeOf_lineAt (col : Bool) (k : BitVec 3) {m : Nat} (hm : m < 8) : placeOf col (lineAt col k m) = m := by
  have hk : k.toNat < 8 := k.isLt
  cases col <;> simp only [lineAt, placeOf, Bool.false_eq_true, if_true, if_false] <;> omega

/-- An element of line k stands at its place in it. -/
theorem eq_lineAt_of_lineOf {col : Bool} {k : BitVec 3} {e : Nat} (h : lineOf col e = k.toNat) :
    e = lineAt col k (placeOf col e) := by
  cases col <;> simp only [lineAt, lineOf, placeOf, Bool.false_eq_true, if_true, if_false] at h ⊢ <;> omega

theorem placeOf_lt {col : Bool} {e : Nat} (he : e < 64) : placeOf col e < 8 := by
  cases col <;> simp only [placeOf, Bool.false_eq_true, if_true, if_false] <;> omega

/-- What MWR makes of an accumulator: line k takes the new words, and each other element stays. -/
def lineWritten (col : Bool) (k : BitVec 3) (word old : Nat → BitVec 32) (e : Nat) : BitVec 32 :=
  if lineOf col e = k.toNat then word (placeOf col e) else old e

theorem lineWritten_lineAt (col : Bool) (k : BitVec 3) (word old : Nat → BitVec 32) {m : Nat} (hm : m < 8) :
    lineWritten col k word old (lineAt col k m) = word m := by
  rw [lineWritten, if_pos (lineOf_lineAt col k hm), placeOf_lineAt col k hm]

theorem lineWritten_of_ne (col : Bool) (k : BitVec 3) (word old : Nat → BitVec 32) {e : Nat} (he : e < 64)
    (h : ∀ m, m < 8 → e ≠ lineAt col k m) : lineWritten col k word old e = old e :=
  if_neg fun hline => h _ (placeOf_lt he) (eq_lineAt_of_lineOf hline)

/-- MWR takes the old elements from the accumulator as it stands once the write is recorded, which changes none. -/
theorem State.noteAcc_lineWritten (s : State) (a : Fin 4) (col : Bool) (k : BitVec 3) (word : Nat → BitVec 32) :
    (s.noteAcc a).modG (fun g => g.setAcc a (lineWritten col k word (g.accAt a)))
      = s.wroteAcc a (lineWritten col k word (s.g.accAt a)) := by
  have hold : (s.noteAcc a).g.accAt a = s.g.accAt a := rfl
  simp only [State.wroteAcc, State.modG, hold]

/-! ### What MZERO, MWR and MRD execute -/

theorem exec_mzero {n : Needs} {s : State} {h : Head} {ad : Fin 4} (hc : s.accConflict ad = none)
    (hr : ReadyFor (.mzero h ad) n s) : exec (.mzero h ad) s = .next (done (s.wroteAcc ad (fun _ => 0))) := by
  have hi : Issues (.mzero h ad) s _ := .of_exec rfl rfl
  have hafter := Needs.after_of_no_srcs (hr.srcs_eq rfl) s
  exact hi.exec_of_ok hr (by rw [hafter, State.onAcc_write hc]; rfl)

theorem exec_mwr {n : Needs} {s : State} {h : Head} {col : Bool} {ad : Fin 4} {a : Fin 24} {te : Bool} {k : BitVec 3}
    (hc : s.accConflict ad = none) (hr : ReadyFor (.mwr h col ad a te k) n s) :
    exec (.mwr h col ad a te k) s = .next (done ((n.after s).wroteAcc ad
      (lineWritten col k (fun m => laneAt 32 (src n s (m / 4)) (m % 4)) (s.g.accAt ad)))) := by
  have hi : Issues (.mwr h col ad a te k) s _ := .of_exec rfl rfl
  have hold : (n.after s).g.accAt ad = s.g.accAt ad := by funext e; simp [Group.accAt]
  refine hi.exec_of_ok hr ((State.onAcc_write (by rw [Needs.after_accConflict, hc]) _).trans ?_)
  rw [← hold, ← State.noteAcc_lineWritten]
  rfl

/-- Four elements of a line from element j on, as a register. -/
def lineQuad (g : Group) (as : Fin 4) (col : Bool) (k : BitVec 3) (j : Nat) : Quad :=
  packLanes 32 ((List.range 4).map (fun m => g.accAt as (lineAt col k (j + m))))

theorem laneAt_lineQuad (g : Group) (as : Fin 4) (col : Bool) (k : BitVec 3) (j : Nat) {m : Nat} (hm : m < 4) :
    laneAt 32 (lineQuad g as col k j) m = g.accAt as (lineAt col k (j + m)) := by
  rw [lineQuad, laneAt_packLanes 32 (by decide) _ (by simp) m (by omega)]
  simp [List.getD_eq_getElem?_getD, hm]

/-- The result of an MRD that issues now. -/
def mrdLate (s : State) (col : Bool) (d : Fin 24) (as : Fin 4) (k : BitVec 3) : Late :=
  { slot := s.slot, owner := s.st.serial, lo := s.now + 8 * s.cyc, due := s.now + 8 * s.cyc, dst := .pair d,
    v := lineQuad s.g as col k 0, v2 := lineQuad s.g as col k 4, flags := 0, trap := none, fp := false }

theorem exec_mrd {n : Needs} {s : State} {h : Head} {col : Bool} {d : Fin 24} {as : Fin 4} {k : BitVec 3}
    (hc : s.accConflict as = none) (hr : ReadyFor (.mrd h col d as k) n s) :
    exec (.mrd h col d as k) s = .next (done ((pairRegs d).foldl State.markOut
      (s.modG (fun g => { g with late := g.late ++ [mrdLate s col d as k] })))) := by
  have hi : Issues (.mrd h col d as k) s _ := .of_exec rfl rfl
  have hafter := Needs.after_of_no_srcs (hr.srcs_eq rfl) s
  exact hi.exec_of_ok hr (by rw [hafter, State.onAcc_read hc]; rfl)

/-! ### MSTAT (R194) -/

/-- The busy marks of the four accumulators as a number. -/
def busyBits (b : Fin 4 → Bool) : Nat :=
  (List.range 4).foldl (fun (n : Nat) k => n + if b (Fin.ofNat 4 k) then 2 ^ k else 0) 0

/-- The number whose bits, lowest first, are four marks. -/
def fourBits (w x y z : Bool) : Nat :=
  0 + (if w then 2 ^ 0 else 0) + (if x then 2 ^ 1 else 0) + (if y then 2 ^ 2 else 0) + (if z then 2 ^ 3 else 0)

theorem fourBits_lt : ∀ w x y z : Bool, fourBits w x y z < 2 ^ 4 := by decide
theorem fourBits_testBit : ∀ w x y z : Bool, (fourBits w x y z).testBit 0 = w ∧ (fourBits w x y z).testBit 1 = x
    ∧ (fourBits w x y z).testBit 2 = y ∧ (fourBits w x y z).testBit 3 = z := by decide

theorem busyBits_eq (b : Fin 4 → Bool) : busyBits b = fourBits (b 0) (b 1) (b 2) (b 3) := rfl

theorem busyBits_lt (b : Fin 4 → Bool) : busyBits b < 2 ^ 4 := fourBits_lt (b 0) (b 1) (b 2) (b 3)

theorem busyBits_testBit (b : Fin 4 → Bool) (a : Fin 4) : (busyBits b).testBit a.val = b a := by
  obtain ⟨h0, h1, h2, h3⟩ := fourBits_testBit (b 0) (b 1) (b 2) (b 3)
  rw [busyBits_eq]
  match a with
  | 0 => exact h0
  | 1 => exact h1
  | 2 => exact h2
  | 3 => exact h3

/-- The fields of MSTAT as a number. -/
def mstatWord (g : Group) : Nat :=
  g.mxDone % 2 ^ 32 * 2 ^ 32 + g.fmtB * 2 ^ 16 + g.fmtA * 2 ^ 8 + g.mx.length % 16 * 16 + busyBits g.accBusy

theorem exec_mstat {n : Needs} {s : State} {h : Head} {d : Reg} (hr : ReadyFor (.mstat h d) n s)
    (hgo : s.det = false ∨ s.g.mx = []) :
    exec (.mstat h d) s = .next (wrote n s d (quad2 (BitVec.ofNat 64 (mstatWord s.g)) 0)) := by
  have hi : Issues (.mstat h d) s _ := .of_exec rfl rfl
  have hafter := Needs.after_of_no_srcs (hr.srcs_eq rfl) s
  have hno : (s.det && !s.g.mx.isEmpty) = false := by
    obtain h | h := hgo <;> simp [h]
  exact hi.exec_of_ok hr (by simp only [hafter, hno]; rfl)

theorem exec_mstat_parks {n : Needs} {s : State} {h : Head} {d : Reg} (hr : ReadyFor (.mstat h d) n s)
    (hdet : s.det = true) (hmx : s.g.mx ≠ []) :
    exec (.mstat h d) s = .next (s.modSt (fun st => st.park .value s.now s.cyc)) := by
  have hi : Issues (.mstat h d) s _ := .of_exec rfl rfl
  have hsrcs : n.srcs = [] := hr.srcs_eq rfl
  have hafter := Needs.after_of_no_srcs hsrcs s
  have hyes : (s.det && !s.g.mx.isEmpty) = true := by simp [hdet, hmx]
  rw [hi.exec_of_park (w := .value) (u := s) hr (by simp only [hafter, hyes]; rfl), hsrcs]
  rfl

theorem quad2_zero_toNat {v : Nat} (hv : v < 2 ^ 64) : (quad2 (BitVec.ofNat 64 v) 0).toNat = v := by
  simp [quad2]
  omega

/-- A field of a register whose upper lane is zero, as a number. -/
theorem quad2_zero_field {v : Nat} (hv : v < 2 ^ 64) (p w : Nat) :
    ((quad2 (BitVec.ofNat 64 v) 0).extractLsb' p w).toNat = v / 2 ^ p % 2 ^ w := by
  rw [BitVec.extractLsb'_toNat, Nat.shiftRight_eq_div_pow, quad2_zero_toNat hv]

/-- MSTAT's fields, read from its word. -/
theorem mstatWord_fields (g : Group) (ha : g.fmtA < 256) (hb : g.fmtB < 256) :
    mstatWord g < 2 ^ 64 ∧ mstatWord g / 2 ^ 4 % 2 ^ 4 = g.mx.length % 16 ∧ mstatWord g / 2 ^ 8 % 2 ^ 8 = g.fmtA
      ∧ mstatWord g / 2 ^ 16 % 2 ^ 8 = g.fmtB ∧ mstatWord g / 2 ^ 32 % 2 ^ 32 = g.mxDone % 2 ^ 32 := by
  have hbusy := busyBits_lt g.accBusy
  unfold mstatWord
  omega

theorem mstatWord_testBit (g : Group) (a : Fin 4) : (mstatWord g).testBit a.val = g.accBusy a := by
  have hsplit : mstatWord g = 2 ^ 4 * (g.mxDone % 2 ^ 32 * 2 ^ 28 + g.fmtB * 2 ^ 12 + g.fmtA * 2 ^ 4 + g.mx.length % 16)
      + busyBits g.accBusy := by
    unfold mstatWord
    omega
  rw [hsplit, Nat.testBit_two_pow_mul_add _ (busyBits_lt g.accBusy), if_pos a.isLt, busyBits_testBit]

end Sys2Proof.Machine

namespace Sys2Proof.Claims
open Sys2Proof.Machine

theorem accumulatorWrites : AccumulatorWrites := by
  intro n s h ad hc
  refine ⟨fun hr => ?_, fun col a te k hr => ?_⟩
  · exact ⟨_, exec_mzero hc hr, accChange_wroteAcc s ad _, fun e he => s.wroteAcc_accAt ad _ he,
      fun b hb => s.wroteAcc_acc_ne _ hb⟩
  · refine ⟨_, exec_mwr hc hr, accChange_wroteAcc _ ad _, fun m hm => ?_, fun e he hout => ?_, fun b hb => ?_⟩
    · rw [State.wroteAcc_accAt _ ad _ (lineAt_lt col k hm), lineWritten_lineAt col k _ _ hm]
    · rw [State.wroteAcc_accAt _ ad _ he, lineWritten_of_ne col k _ _ he hout]
    · rw [State.wroteAcc_acc_ne _ _ hb, Needs.after_g_acc]

theorem mrdResultIsUnderWay : MrdResultIsUnderWay := by
  intro n s h col d as k hc hr
  refine ⟨mrdLate s col d as k, exec_mrd hc hr, rfl, rfl, rfl, rfl, rfl, rfl, fun m hm => ⟨?_, ?_⟩⟩
  · rw [mrdLate, laneAt_lineQuad s.g as col k 0 hm, Nat.zero_add]
  · rw [mrdLate, laneAt_lineQuad s.g as col k 4 hm, Nat.add_comm]

theorem mstatShowsTheUnit : MstatShowsTheUnit := by
  intro n s h d hr
  refine ⟨fun hgo ha hb => ?_, fun hdet hmx => ⟨_, exec_mstat_parks hr hdet hmx, ?_, ?_, ?_, ?_⟩⟩
  · obtain ⟨hlt, hlen, hfa, hfb, hdone⟩ := mstatWord_fields s.g ha hb
    refine ⟨_, exec_mstat hr hgo, BitVec.eq_of_toNat_eq ?_, fun a => ?_, ?_, ?_, ?_, ?_⟩
    · rw [quad2_zero_field hlt, Nat.div_eq_of_lt hlt]; rfl
    · rw [BitVec.getLsbD, quad2_zero_toNat hlt, mstatWord_testBit]
    · rw [quad2_zero_field hlt, hlen]
    · rw [quad2_zero_field hlt, hfa]
    · rw [quad2_zero_field hlt, hfb]
    · rw [quad2_zero_field hlt, hdone]
  all_goals simp

end Sys2Proof.Claims

/-- Settles O11: MZERO and MWR by the elements that they write, MRD by the line that stands at issue, MSTAT by the fields of its word. -/
theorem accumulatorsAreWrittenAndRead : Obligations.AccumulatorsAreWrittenAndRead :=
  ⟨Sys2Proof.Claims.accumulatorWrites, Sys2Proof.Claims.mrdResultIsUnderWay, Sys2Proof.Claims.mstatShowsTheUnit⟩

/-! PROOFS. The block-dot unit: what its reads change as they enter the channels, an instruction that joins the unit's queue, and
the commit of the oldest one (R174, R180, R184 to R188, R193). -/

namespace Sys2Proof.Machine
open Claims

/-! ### The reads of an MDOT enter the channels of the group's own banks (R188, R232) -/

/-- A state in which only what the entry of accesses to the own banks changes has changed: the issuer's TMASK, the channels, what
the dies know of their meshes and queues, and the numbers that are used up. -/
def State.reading (s : State) (tm : Lane) (chans : List (ChanId × List Msg)) (dies : List Die) (id : Nat) : State :=
  { s.modSt (fun t => { t with tmask := tm }) with chans := chans, dies := dies, nextId := id }

/-- The reads change a state in this way. -/
def State.ReadsTo (s u : State) : Prop := ∃ tm chans dies id, u = s.reading tm chans dies id

theorem State.ReadsTo.refl (s : State) : s.ReadsTo s := by
  refine ⟨s.st.tmask, s.chans, s.dies, s.nextId, ?_⟩
  have h := s.set_st
  change s = { s with g := { s.g with st := s.g.st.set s.slot.val s.st s.slot.isLt } }
  rw [h]

theorem State.ReadsTo.trans {s u v : State} (h : s.ReadsTo u) (h' : u.ReadsTo v) : s.ReadsTo v := by
  obtain ⟨tm, c, d, k, rfl⟩ := h
  obtain ⟨tm', c', d', k', rfl⟩ := h'
  refine ⟨tm', c', d', k', ?_⟩
  simp [State.reading, State.modSt, Group.modSt, Group.setSt]

theorem State.ReadsTo.g_mx {s u : State} (h : s.ReadsTo u) : u.g.mx = s.g.mx := by
  obtain ⟨_, _, _, _, rfl⟩ := h; rfl
theorem State.ReadsTo.g_acc {s u : State} (h : s.ReadsTo u) : u.g.acc = s.g.acc := by
  obtain ⟨_, _, _, _, rfl⟩ := h; rfl
theorem State.ReadsTo.st_fcap {s u : State} (h : s.ReadsTo u) : u.st.fcap = s.st.fcap := by
  obtain ⟨tm, _, _, _, rfl⟩ := h
  change (s.modSt (fun t => { t with tmask := tm })).st.fcap = s.st.fcap
  rw [State.st_modSt]

/-- A message that enters changes its channel and what the dies know of it. -/
theorem State.enter_eq (s : State) (c : ChanId) (m : Msg) :
    ∃ chans dies, s.enter c m = { s with chans := chans, dies := dies } := by
  unfold State.enter State.enterBy State.goMsg
  extract_lets _ m'
  obtain ⟨ds, hds⟩ := s.carry_eq m'.trail m'.act.meshClass m'.act.flits m'.key (.access c m'.id)
  rw [hds, State.setChan]
  split <;> exact ⟨_, _, rfl⟩

/-- An access of a word of a scratchpad enters the channel of its bank. -/
theorem State.send_readsTo (s : State) {r : Resolved} {g : GroupId} {off : Nat} (hr : r.target = .sp g off) (pol : Nat) (chk : Bool)
    (act : Act) : s.ReadsTo (s.send r pol false chk act).2 := by
  have hroute : s.route r pol = (.bank g (bankOf off), s) := by rw [State.route, hr]
  simp only [State.send, hroute, hr, State.newId, State.markHomes, State.mark, Bool.false_eq_true, if_false]
  obtain ⟨chans, dies, he⟩ := State.enter_eq _ _ _
  rw [he]
  exact ⟨_, chans, dies, _, rfl⟩

theorem State.mxReads_readsTo (s : State) (num : Nat) (isB : Bool) (offs : List Nat) : s.ReadsTo (s.mxReads num isB offs) := by
  unfold State.mxReads
  exact List.foldlRecOn _ _ (State.ReadsTo.refl s) (fun u hu x _ => hu.trans (u.send_readsTo rfl 0 _ _))

/-! ### An instruction joins the unit's queue, and its strand parks to the commit (R174, R184, R193) -/

@[simp] theorem Needs.after_cyc (n : Needs) (s : State) : (n.after s).cyc = s.cyc := by
  obtain ⟨c, k, l, d, w, h⟩ := n.after_eq s
  rw [h]; rfl

/-- An instruction whose body parks in a committed park keeps what it has read, and its strand parks. -/
theorem Issues.exec_of_parkC {i : Instr} {n : Needs} {s u : State} {body : List RegCell → State → Res} {w : Why}
    (hi : Issues i s body) (hr : ReadyFor i n s) (hb : body (n.values s) (n.after s) = .parkC w u) :
    exec i s = .next (u.modSt (fun t =>
      { t.park w s.now s.cyc with consumed := true, took := n.srcs, kept := n.values s })) := by
  have hbegins : s.st.consumed = false := hr.2.begins
  rw [hi n hr.1, State.issue_met n s body hr.2, hb, State.finish]
  simp only [hbegins, Bool.false_eq_true, if_false]
  rfl

/-- The instruction that a strand enters into the unit now. -/
def State.flight (s : State) (op : MxOp) (wa wb : List (Option Lane)) (due : Nat) : MxFlight :=
  { num := s.nextId, slot := s.slot, op := op, wa := wa, wb := wb, due := due, since := s.now }

/-- From s, an instruction of the issuing strand has joined the unit's queue; no accumulator has changed, and pc has not moved. -/
structure State.Joined (s u : State) (f : MxFlight) : Prop where
  mx : u.g.mx = s.g.mx ++ [f]
  acc : u.g.acc = s.g.acc
  fcap : u.st.fcap = s.st.fcap
  slot : f.slot = s.slot
  trap : f.trap = none

/-- The unit takes an instruction in the state in which it executes. -/
theorem Needs.joined (n : Needs) (s : State) (ad : Fin 4) (op : MxOp) (wa wb : List (Option Lane)) (due : Nat) :
    s.Joined (((n.after s).noteAcc ad).startMx op wa wb due) (((n.after s).noteAcc ad).flight op wa wb due) where
  mx := congrArg (· ++ _) (n.after_g_mx s)
  acc := n.after_g_acc s
  fcap := by
    rw [State.startMx, State.st_modSt, ← n.after_st_fcap s]
    rfl
  slot := n.after_slot s
  trap := rfl

/-- What an instruction that joins the unit shows, once its strand has parked. -/
theorem Issues.exec_of_joined {i : Instr} {n : Needs} {s u : State} {f : MxFlight} {body : List RegCell → State → Res}
    {due : Nat → Prop} (hi : Issues i s body) (hr : ReadyFor i n s) (hb : body (n.values s) (n.after s) = .parkC .commit u)
    (hu : s.Joined u f) (hdue : due f.due) :
    ∃ (t : State) (f' : MxFlight), exec i s = .next t ∧ t.g.mx = s.g.mx ++ [f'] ∧ f'.op = f.op ∧ f'.slot = s.slot
      ∧ f'.trap = none ∧ due f'.due ∧ t.g.accBusy f.op.acc = true ∧ t.st.run = .parked .commit ∧ t.st.consumed = true
      ∧ t.st.fcap = s.st.fcap ∧ t.g.acc = s.g.acc := by
  refine ⟨_, f, hi.exec_of_parkC hr hb, hu.mx, rfl, hu.slot, hu.trap, hdue, ?_, ?_, ?_, ?_, hu.acc⟩
  · simp [Group.accBusy, hu.mx]
  · rw [State.st_modSt]; rfl
  · rw [State.st_modSt]
  · rw [State.st_modSt, ← hu.fcap]; rfl

/-- The time at which R193 has a MADD or MSCL commit. -/
theorem State.mxDue_unitDue (s : State) : unitDue s s.mxDue := by
  unfold unitDue State.mxDue
  cases s.g.mx.getLast? with
  | none => simp
  | some f => rfl

@[simp] theorem Needs.after_mxDue (n : Needs) (s : State) : (n.after s).mxDue = s.mxDue := by
  simp [State.mxDue]

theorem State.onAcc_copy {s : State} {a b : Fin 4} (hb : s.accConflict b = none) (ha : s.accConflict a = none)
    (k : State → Res) : s.onAcc [b] (some a) k = k (s.noteAcc a) := by
  simp [State.onAcc, ha, hb]

/-! The record of an accumulator's writer leaves what MDOT, MADD and MSCL take from the state. -/

@[simp] theorem State.noteAcc_mode (s : State) (a : Fin 4) (rm : RMode) : (s.noteAcc a).mode rm = s.mode rm := rfl
@[simp] theorem State.noteAcc_mxDue (s : State) (a : Fin 4) : (s.noteAcc a).mxDue = s.mxDue := rfl
@[simp] theorem State.noteAcc_now (s : State) (a : Fin 4) : (s.noteAcc a).now = s.now := rfl
@[simp] theorem State.noteAcc_cyc (s : State) (a : Fin 4) : (s.noteAcc a).cyc = s.cyc := rfl
@[simp] theorem State.noteAcc_g_acc (s : State) (a : Fin 4) : (s.noteAcc a).g.acc = s.g.acc := rfl

/-- MDOT's start, once its operands are good: it joins the unit, and its reads enter. -/
def State.startMdot (s : State) (ad : Fin 4) (inc : List (Fin 24 × Int)) (x y : MxSource) (due : Nat) : State :=
  (((s.startMx (.mdot ad inc) x.words' y.words' due).modG
    (fun g => { g with mxLast := s.now, mxGap := max 4 (fetchCount (x.offs ++ y.offs)) })).mxReads s.nextId false x.offs).mxReads
      s.nextId true y.offs

theorem Needs.joined_mdot (n : Needs) (s : State) (ad : Fin 4) (inc : List (Fin 24 × Int)) (x y : MxSource) (due : Nat) :
    s.Joined (((n.after s).noteAcc ad).startMdot ad inc x y due)
      (((n.after s).noteAcc ad).flight (.mdot ad inc) x.words' y.words' due) := by
  have h := n.joined s ad (.mdot ad inc) x.words' y.words' due
  have hreads : State.ReadsTo (_ : State) (((n.after s).noteAcc ad).startMdot ad inc x y due) :=
    (State.mxReads_readsTo _ _ false x.offs).trans (State.mxReads_readsTo _ _ true y.offs)
  exact ⟨hreads.g_mx.trans h.mx, hreads.g_acc.trans h.acc, hreads.st_fcap.trans h.fcap, h.slot, h.trap⟩

end Sys2Proof.Machine

namespace Sys2Proof.Claims
open Sys2Proof.Machine

theorem unitInstructionsEnter : UnitInstructionsEnter := by
  intro n s h rm ad hc
  have hafter : (n.after s).accConflict ad = none := (n.after_accConflict s ad).trans hc
  refine ⟨fun as hcs hr => ?_, fun a hr => ?_, fun inca incb a b x y hx hy hbad hr => ?_⟩
  · have hi : Issues (.madd h rm ad as) s _ := .of_exec rfl rfl
    refine hi.exec_of_joined hr ?_ (n.joined s ad (.madd ad as s.g.acc[as] (s.mode rm)) [] [] s.mxDue) s.mxDue_unitDue
    simp only [n.after_st_consumed, hr.2.begins, Bool.false_eq_true, if_false]
    rw [State.onAcc_copy ((n.after_accConflict s as).trans hcs) hafter]
    simp only [State.noteAcc_mode, State.noteAcc_mxDue, State.noteAcc_g_acc, n.after_mode, n.after_mxDue, n.after_g_acc]
  · have hi : Issues (.mscl h rm ad a) s _ := .of_exec rfl rfl
    refine hi.exec_of_joined hr ?_ (n.joined s ad (.mscl ad (laneAt 32 (src n s 0) 0) (s.mode rm)) [] [] s.mxDue) s.mxDue_unitDue
    simp only [n.after_st_consumed, hr.2.begins, Bool.false_eq_true, if_false]
    rw [State.onAcc_write hafter]
    simp only [State.noteAcc_mode, State.noteAcc_mxDue, n.after_mode, n.after_mxDue, opv_values]
  · have hi : Issues (.mdot h inca incb ad a b) s _ := .of_exec rfl rfl
    have hsize : (n.after s).g.size = s.g.size := by simp [Group.size]
    have hwords : (n.after s).g.badBlock (x.offs ++ y.offs) = none := by simpa [Group.badBlock] using hbad
    refine hi.exec_of_joined (due := fun d => d = s.now + (28 + fetchCount (x.offs ++ y.offs)) * s.cyc) hr ?_
      (n.joined_mdot s ad (x.inc inca ++ y.inc incb).eraseDups x y _) rfl
    simp only [n.after_st_consumed, hr.2.begins, Bool.false_eq_true, if_false, hsize, hx, hy, hwords]
    rw [State.onAcc_write hafter, State.noteAcc_now, State.noteAcc_cyc, n.after_now, n.after_cyc]
    rfl

end Sys2Proof.Claims

namespace Sys2Proof.Machine
open Claims

/-! ### The oldest instruction's operands are all there (R188) -/

theorem State.mem_of_mem_chan {s : State} {ch : ChanId} {m : Msg} (h : m ∈ s.chan ch) : ∃ c ∈ s.chans, m ∈ c.2 := by
  unfold State.chan at h
  generalize s.chans = l at h
  induction l with
  | nil => simp [lookD] at h
  | cons c r ih =>
    rw [lookD_cons] at h
    split at h
    · exact ⟨c, List.mem_cons_self .., h⟩
    · obtain ⟨x, hx, hm⟩ := ih h
      exact ⟨x, List.mem_cons_of_mem c hx, hm⟩

/-- Where no channel holds a read of an MDOT, none has to be performed. -/
theorem State.forceReads_of_readsDone {s : State} {f : MxFlight} (w : StrandId) (h : readsDone s f) :
    s.forceReads w f.num = s := by
  refine List.foldlRecOn (motive := fun u => u = s) _ _ rfl (fun u hu ch _ => ?_)
  subst hu
  refine if_neg ?_
  simp only [Bool.and_eq_true, List.any_eq_true, not_and, not_exists]
  intro _ m hm hread
  obtain ⟨c, hc, hmc⟩ := State.mem_of_mem_chan hm
  split at hread
  · next k b j hact => exact h.2 c hc m hmc b j (eq_of_beq hread ▸ hact)
  · exact Bool.false_ne_true hread

/-! ### The flags of a commit (R60, R103) -/

theorem foldl_orf_lt (l : List Flags) (a : Flags) (ha : a < 2 ^ 5) (h : ∀ x ∈ l, x < 2 ^ 5) : l.foldl orf a < 2 ^ 5 := by
  induction l generalizing a with
  | nil => exact ha
  | cons x r ih =>
    exact ih _ (Nat.or_lt_two_pow ha (h x (List.mem_cons_self ..))) (fun y hy => h y (List.mem_cons_of_mem x hy))

theorem allFlags_lt {l : List Flags} (h : ∀ x ∈ l, x < 2 ^ 5) : allFlags l < 2 ^ 5 := foldl_orf_lt l 0 (by decide) h

/-- Flags that are raised leave the enables. -/
theorem enables_or_flags (v : Lane) {k : Nat} (hk : k < 2 ^ 5) :
    (v ||| BitVec.ofNat 64 k).extractLsb' 8 5 = v.extractLsb' 8 5 := by
  have hnone : (BitVec.ofNat 64 k).extractLsb' 8 5 = 0#5 := by
    apply BitVec.eq_of_toNat_eq
    rw [BitVec.extractLsb'_toNat, BitVec.toNat_ofNat, Nat.shiftRight_eq_div_pow, Nat.mod_eq_of_lt (by omega),
      Nat.div_eq_of_lt (by omega)]
    rfl
  rw [BitVec.extractLsb'_or, hnone, BitVec.or_zero]

/-! ### What a commit makes of the group (R174, R184 to R187, R193) -/

/-- The cursors that an MDOT moves stand in c registers. -/
theorem Strand.advance_eq (t : Strand) (x : Fin 24 × Int) : ∃ c, t.advance x = { t with c := c } := by
  unfold Strand.advance
  split
  · split
    · exact ⟨t.c, rfl⟩
    · next n _ hn =>
      rw [Strand.setCell, if_neg hn]
      exact ⟨_, rfl⟩
  · exact ⟨t.c, rfl⟩

theorem Strand.foldl_advance_eq (l : List (Fin 24 × Int)) (t : Strand) : ∃ c, l.foldl Strand.advance t = { t with c := c } := by
  induction l generalizing t with
  | nil => exact ⟨t.c, rfl⟩
  | cons x r ih =>
    obtain ⟨c, hc⟩ := t.advance_eq x
    rw [List.foldl_cons, hc]
    exact ih { t with c := c }

@[simp] theorem Group.st_modSt (g : Group) (k : Fin 8) (f : Strand → Strand) : (g.modSt k f).st[k] = f g.st[k] := by
  simp [Group.modSt, Group.setSt]

@[simp] theorem Group.setAcc_gid (g : Group) (a : Fin 4) (f : Nat → BitVec 32) : (g.setAcc a f).gid = g.gid := rfl

/-- A strand of the group in front. -/
theorem State.modG_modStrand {s : State} {w : StrandId} {k : Group → Group} (h : (k s.g).gid = w.g) (f : Strand → Strand) :
    (s.modG k).modStrand w f = s.modG (fun g => (k g).modSt w.slot f) := if_pos h
theorem State.modG_modG (s : State) (k l : Group → Group) : (s.modG k).modG l = s.modG (fun g => l (k g)) := rfl

/-- Flags that an instruction leaves in FCSR (R60). -/
def Strand.raised (k : Flags) (t : Strand) : Strand := { t with fcsr := t.fcsr ||| BitVec.ofNat 64 k }

/-- The group without an instruction in its unit, and with the instruction's flags at its issuer. -/
def Group.outOfUnit (g : Group) (f : MxFlight) (k : Flags) : Group :=
  Group.modSt { g with mx := g.mx.filter (fun x => x.num != f.num) } f.slot (Strand.raised k)

/-- An accumulator takes the results of an instruction. -/
def Group.written (g : Group) (a : Fin 4) (r : List (Nat × Flags)) : Group :=
  g.setAcc a (fun e => BitVec.ofNat 32 (r.getD e (0, 0)).1)

/-- The unit's counter and formats after an MDOT, and the cursors of its issuer (R185, R187, R194). -/
def Group.counted (g : Group) (f : MxFlight) (inc : List (Fin 24 × Int)) : Group :=
  let l := match readBlocks (mxWords f.wa) (mxWords f.wb) with | .ok l => l | .error _ => []
  Group.modSt { g with mxDone := (g.mxDone + 1) % 2 ^ 32, fmtA := firstFmt (l.take 8), fmtB := firstFmt (l.drop 8) } f.slot
    (fun t => inc.foldl Strand.advance t)

/-- The group after the commit of an instruction with these results. -/
def Group.afterCommit (g : Group) (f : MxFlight) (r : List (Nat × Flags)) : Group :=
  let x := (g.outOfUnit f (allFlags (r.map (·.2)))).written f.op.acc r
  match f.op with
  | .mdot _ inc => (x.counted f inc).modSt f.slot Strand.step12
  | _ => x.modSt f.slot Strand.step12

/-- An instruction of the front group whose result raises no enabled flag commits. -/
theorem State.commitMx_eq {s : State} {f : MxFlight} {rest : List MxFlight} {r : List (Nat × Flags)} (hmx : s.g.mx = f :: rest)
    (htrap : f.trap = none) (hread : readsDone s f) (hres : s.g.mxResult f (mxWords f.wa) (mxWords f.wb) = .ok r)
    (hlt : ∀ x ∈ r, x.2 < 32) (hen : Nat.land (allFlags (r.map (·.2))) ((s.g.st[f.slot]).fcsr.extractLsb' 8 5).toNat = 0) :
    s.commitMx f = ({ s with now := max s.now f.due }).modG (fun g => g.afterCommit f r) := by
  have hforce : ({ s with now := max s.now f.due } : State).forceReads ⟨s.g.gid, f.slot⟩ f.num
      = { s with now := max s.now f.due } := State.forceReads_of_readsDone _ hread
  have hfind : s.g.mx.find? (fun x => x.num == f.num) = some f := by simp [hmx]
  have hres' : ({ s.g with mx := s.g.mx.filter (fun x => x.num != f.num) } : Group).mxResult f (mxWords f.wa) (mxWords f.wb)
      = .ok r := hres
  have hflags : allFlags (r.map (·.2)) < 2 ^ 5 := allFlags_lt (by simpa [List.mem_map] using fun x y h => hlt (y, x) h)
  have hfpe : fpeTrap ((((s.g.outOfUnit f (allFlags (r.map (·.2)))).st[f.slot]).fcsr.extractLsb' 8 5).toNat) (r.map (·.2)) = none := by
    rw [Group.outOfUnit, Group.st_modSt, Strand.raised, enables_or_flags _ hflags, fpeTrap]
    exact if_pos hen
  simp only [State.commitMx, hforce, hfind, Option.getD_some, htrap, State.modG_g, hres', State.modG_modStrand, State.modG_modG,
    Group.modSt_gid, Group.setAcc_gid]
  split
  · next t ht => exact absurd (hfpe.symm.trans ht) (Option.some_ne_none t).symm
  · unfold Group.afterCommit
    cases f.op <;> rw [State.modG_modStrand] <;> rfl

/-! ### What stands in the group after a commit -/

section AfterCommit
variable (g : Group) (f : MxFlight) (r : List (Nat × Flags))

@[simp] theorem Group.afterCommit_gid : (g.afterCommit f r).gid = g.gid := by
  unfold Group.afterCommit; cases f.op <;> rfl
theorem Group.afterCommit_acc : (g.afterCommit f r).acc = (g.written f.op.acc r).acc := by
  unfold Group.afterCommit; cases f.op <;> rfl
theorem Group.afterCommit_mx : (g.afterCommit f r).mx = g.mx.filter (fun x => x.num != f.num) := by
  unfold Group.afterCommit; cases f.op <;> rfl

/-- The issuer has its flags and goes on; only an MDOT's cursors have changed besides. -/
theorem Group.afterCommit_st : ∃ c, (g.afterCommit f r).st[f.slot]
    = ({ (g.st[f.slot]).raised (allFlags (r.map (·.2))) with c := c } : Strand).step12 := by
  have hst : ((g.outOfUnit f (allFlags (r.map (·.2)))).written f.op.acc r).st[f.slot]
      = (g.st[f.slot]).raised (allFlags (r.map (·.2))) := Group.st_modSt ..
  have hplain : ∃ c, ((g.st[f.slot]).raised (allFlags (r.map (·.2)))).step12
      = ({ (g.st[f.slot]).raised (allFlags (r.map (·.2))) with c := c } : Strand).step12 := ⟨(g.st[f.slot]).c, rfl⟩
  unfold Group.afterCommit
  split
  · next a inc hop =>
    obtain ⟨c, hc⟩ := Strand.foldl_advance_eq inc ((g.st[f.slot]).raised (allFlags (r.map (·.2))))
    refine ⟨c, ?_⟩
    rw [Group.st_modSt, ← hc, Group.counted, Group.st_modSt, ← hst]
  · rwa [Group.st_modSt, hst]

theorem Group.afterCommit_mxDone_of_mdot {a : Fin 4} {inc : List (Fin 24 × Int)} (h : f.op = .mdot a inc) :
    (g.afterCommit f r).mxDone = (g.mxDone + 1) % 2 ^ 32 := by
  simp only [Group.afterCommit, h]; rfl
theorem Group.afterCommit_mxDone_of_ne (h : ∀ a inc, f.op ≠ .mdot a inc) : (g.afterCommit f r).mxDone = g.mxDone := by
  unfold Group.afterCommit
  split
  · next a inc hop => exact absurd hop (h a inc)
  · rfl

end AfterCommit

theorem committed_afterCommit (s : State) (f : MxFlight) (r : List (Nat × Flags)) (now : Nat) :
    committed s (({ s with now := now } : State).modG (fun g => g.afterCommit f r)) f r := by
  obtain ⟨c, hc⟩ := s.g.afterCommit_st f r
  have hacc : (s.g.afterCommit f r).acc = (s.g.written f.op.acc r).acc := s.g.afterCommit_acc f r
  refine ⟨fun e he => ?_, fun b hb => ?_, fun x hx => ?_, ?_⟩
  · rw [State.modG_g, Group.accAt, hacc]
    exact s.g.accAt_setAcc_same f.op.acc _ he
  · simp only [State.modG_g, hacc]
    exact s.g.setAcc_acc_ne _ hb
  · rw [State.modG_g, Group.afterCommit_mx] at hx
    simpa using (List.mem_filter.mp hx).2
  · simp only [State.modG_g, hc]
    exact ⟨rfl, rfl, rfl, rfl⟩

/-- Acting as the group in front. -/
theorem State.atGroup_front {s t : State} {k : State → State} (hk : k s = t) (ht : t.g.gid = s.g.gid) :
    s.atGroup s.g.gid k = t := by
  have hself : s.focus s.g.gid = s := if_pos rfl
  rw [State.atGroup, hself, hk, State.focus, if_pos ht]

/-- The move of an MDOT's commit commits the oldest instruction where that is an MDOT. -/
theorem exec_mdotCommit {s : State} {f : MxFlight} {rest : List MxFlight} {a : Fin 4} {inc : List (Fin 24 × Int)}
    (hmx : s.g.mx = f :: rest) (hop : f.op = .mdot a inc) (hgid : (s.commitMx f).g.gid = s.g.gid) :
    exec (.mdotCommit s.g.gid) s = .next (s.commitMx f) := by
  refine congrArg Host.Outcome.next (State.atGroup_front ?_ hgid)
  simp only [if_true, hmx, List.head?_cons, hop]

/-- The move of an accumulator's commit commits it where it is none. -/
theorem exec_accumulatorCommit {s : State} {f : MxFlight} {rest : List MxFlight} (hmx : s.g.mx = f :: rest)
    (hop : ∀ a inc, f.op ≠ .mdot a inc) (hgid : (s.commitMx f).g.gid = s.g.gid) :
    exec (.accumulatorCommit s.g.gid) s = .next (s.commitMx f) := by
  refine congrArg Host.Outcome.next (State.atGroup_front ?_ hgid)
  simp only [if_true, hmx, List.head?_cons]

end Sys2Proof.Machine

namespace Sys2Proof.Claims
open Sys2Proof.Machine

theorem unitInstructionsCommit : UnitInstructionsCommit := by
  intro s f rest r hmx htrap hread hres hlt hen
  have hcommit := State.commitMx_eq hmx htrap hread hres hlt hen
  have hgid : (s.commitMx f).g.gid = s.g.gid := by rw [hcommit, State.modG_g, Group.afterCommit_gid]
  have hdone : committed s (s.commitMx f) f r := by rw [hcommit]; exact committed_afterCommit s f r _
  refine ⟨fun ⟨a, inc, hop⟩ => ⟨_, exec_mdotCommit hmx hop hgid, hdone, ?_⟩,
    fun hop => ⟨_, exec_accumulatorCommit hmx hop hgid, hdone, ?_⟩⟩
  · rw [hcommit]; exact s.g.afterCommit_mxDone_of_mdot f r hop
  · rw [hcommit]; exact s.g.afterCommit_mxDone_of_ne f r hop

end Sys2Proof.Claims

/-- Settles O12: MDOT, MADD and MSCL join the unit's queue as their strand parks; the oldest instruction commits its results, its
flags and its issuer. -/
theorem unitInstructionsEnterAndCommit : Obligations.UnitInstructionsEnterAndCommit :=
  ⟨Sys2Proof.Claims.unitInstructionsEnter, Sys2Proof.Claims.unitInstructionsCommit⟩
